-- ==== Sys2Proof/Word.lean ====
section
/-!
DEFINITION. The word types of the Grenec G4 and their plainest arithmetic: bytes, 64-bit words, 128-byte
lines, 512-byte rows (spec 01 R21, 10 R233) and sparse maps in one canonical form.
-/

namespace Sys2Proof

abbrev Byte := BitVec 8
abbrev Word := BitVec 64
/-- One 128-byte line (04 R94). -/
abbrev Line := BitVec 1024
/-- One 512-byte row: a vector register or a typed-buffer row (01 R21, 12 intro). -/
abbrev Row := BitVec 4096

abbrev DieId := Fin 4
abbrev CoreId := Fin 144
abbrev EngineId := Fin 24

/-- A sparse map: keys strictly rising, no entry equal to the default its reader supplies. -/
abbrev Sparse (α : Type) := List (Nat × α)

namespace Sparse

/-- The value under a key, or the default of an unlisted key. -/
def get {α : Type} (d : α) : Sparse α → Nat → α
  | [], _ => d
  | (k, v) :: m, i => if i = k then v else get d m i

/-- Writes a key, keeping the keys rising and listing no default value. -/
def set {α : Type} [DecidableEq α] (d : α) : Sparse α → Nat → α → Sparse α
  | [], i, x => if x = d then [] else [(i, x)]
  | (k, v) :: m, i, x =>
    if i < k then (if x = d then (k, v) :: m else (i, x) :: (k, v) :: m)
    else if i = k then (if x = d then m else (i, x) :: m)
    else (k, v) :: set d m i x

/-- A key stands above a bound, if there is one. -/
def above : Option Nat → Nat → Bool
  | none, _ => true
  | some b, k => decide (b < k)

/-- Keys strictly above a bound and rising, and no default listed. -/
def wfFrom {α : Type} [DecidableEq α] (d : α) : Option Nat → Sparse α → Bool
  | _, [] => true
  | lo, (k, v) :: m => above lo k && (v != d) && wfFrom d (some k) m

/-- The canonical form of a sparse map. -/
def wf {α : Type} [DecidableEq α] (d : α) (m : Sparse α) : Bool := wfFrom d none m

end Sparse

end Sys2Proof
end

