-- ==== Sys2Proof/Config.lean ====
section
/-!
DEFINITION. What an implementation or a board fixes (spec 00 R1, R2; 17), and the free values: opaque
constants without a body wherever the spec leaves a value open (notes/assumptions/5, 6, 14, 38).
-/

namespace Sys2Proof.Config

/-- Form of the package (00 R1, R2). DESIGN CHOICE (log 19): the G4-M768, die 0's CXL port wired. -/
def wiredPort (d : DieId) : Bool := d.val = 0

/-- Whether a die's firmware enables CXL.mem on its port (17 R418): free value (log 19). -/
opaque cxlMem : DieId → Bool

/-- A special function of 12 R294: its code (opcode minus 0x00B) and the exact input as sign and the
FP32 encoding of it; the answer packs the sign, a 31-bit significand and a biased exponent.
Free value (log 5). -/
opaque specialF : Nat → BitVec 32 → BitVec 64

/-- One free bit for each number drawn (log 6). -/
opaque freeBit : Nat → Bool
/-- One free byte for each number drawn (log 6). -/
opaque freeByte : Nat → Byte
/-- One free row for each number drawn (log 6). -/
opaque freeRow : Nat → Row
/-- Which leaf of a 64 KiB run that breaks its promise translates (06 R147), from the clock and the entry: free value
(log 38). -/
opaque runLeaf : Nat → Nat → Nat
/-- Bank and row of a place within a pseudo-channel, which the spec leaves to HBM4 (05 R132; log 30). -/
opaque hbmBank : Nat → Nat
opaque hbmRow : Nat → Nat

/-- SHAKE256 digest of a byte string (17 R431, R432): free value (log 14). -/
opaque shake256 : List Byte → BitVec 512
/-- Falcon-1024 verification of a signature over a digest under a key (17 R431): free value (log 14). -/
opaque falconVerify : List Byte → BitVec 512 → List Byte → Bool
/-- Falcon-1024 signature by a die's device key (17 R432): free value (log 14). -/
opaque falconSign : DieId → List Byte → List Byte
/-- The device certificate chain (17 R432): free value (log 14). -/
opaque certChain : DieId → List Byte
/-- Encoding of the vendor-defined algorithms in an SPDM answer (17 R432): free value (log 14). -/
opaque spdmAlgorithms : List Byte
/-- Digest of the firmware key fused into a die, and the fused minimum security version (17 R431). -/
opaque fusedKeyDigest : DieId → BitVec 512
opaque fusedMinSvn : DieId → BitVec 32

end Sys2Proof.Config
end

