-- ==== Sys2Proof/Syntax.lean ====
section
/-!
DEFINITION. The syntax: operands of the slot instructions (spec 10 to 15), arguments of the event steps,
and Instr, one constructor per row of spec/opcode_table.json.
-/

namespace Sys2Proof

/-! ## Operands -/

/-- Guard of S and L: bit 3 negates, bits [2:0] name sp0-sp7 (10 R236). -/
abbrev Guard := BitVec 4
abbrev SReg := BitVec 5
abbrev CReg := BitVec 4
abbrev Flag := BitVec 4

/-- Second integer source: a register (I = 0) or imm[19:0] (I = 1) (11 R255). -/
inductive SSrc where
  | reg (b : SReg)
  | imm (v : BitVec 20)
  deriving DecidableEq, Repr

/-- Width code of the bit counts and extensions (11 R258). -/
inductive Width where
  | w8 | w16 | w32 | w64
  deriving DecidableEq, Repr

/-- Rounding codes of 02 Table 2.3; the two reserved codes never decode. -/
inductive RMode where
  | rne | rtz | rup | rdn | sr | dyn
  deriving DecidableEq, Repr

/-- Scalar and vector formats of 10 Table 10.7, with .i64 and .n64 for SFCVT (11 R262). -/
inductive Fmt where
  | f32 | bf16 | f16 | e4m3 | e5m2 | mxf4 | ps2 | i8 | i16 | i32 | n8 | n16 | n32 | i64 | n64
  deriving DecidableEq, Repr

/-- Vector source operand (10 Table 10.5). -/
inductive VSrc where
  | reg (n : BitVec 5)
  | v0l | v1l | zero
  | pop (q : BitVec 4)
  deriving DecidableEq, Repr

/-- Vector destination operand (10 Table 10.5); `latch` is the writing slot's own latch. -/
inductive VDst where
  | reg (n : BitVec 5)
  | latch
  | push (q : BitVec 4)
  deriving DecidableEq, Repr

/-- Row base of a typed-buffer access: a register or code 35 (12 Table 12.4). -/
inductive RowBase where
  | reg (n : BitVec 5)
  | zero
  deriving DecidableEq, Repr

/-- Typed buffers (01 Table 1.2). -/
inductive Buf where
  | abuf | wbuf | cbuf
  deriving DecidableEq, Repr

/-- Compare conditions of SFCMP and VCMP (11 R263). -/
inductive Cond where
  | eq | ne | lt | le | un | ord
  deriving DecidableEq, Repr

/-- Branch conditions of BRC (11 Table 11.2). -/
inductive BCond where
  | eqz | nez | ltz | gez | gtz | lez
  deriving DecidableEq, Repr

structure SAlu where
  (g : Guard) (d a : SReg) (b : SSrc)
  deriving DecidableEq, Repr
structure SAddi where
  (g : Guard) (d a : SReg) (imm : BitVec 21)
  deriving DecidableEq, Repr
structure SReg3 where
  (g : Guard) (d a b : SReg)
  deriving DecidableEq, Repr
structure SFun where
  (g : Guard) (d a b : SReg) (n : BitVec 6)
  deriving DecidableEq, Repr
structure SWid where
  (g : Guard) (d a : SReg) (w : Width)
  deriving DecidableEq, Repr
structure SLi where
  (g : Guard) (d : SReg) (imm : BitVec 21)
  deriving DecidableEq, Repr
structure SLih where
  (g : Guard) (d a : SReg) (imm : BitVec 16) (k : BitVec 2)
  deriving DecidableEq, Repr
structure SMov where
  (g : Guard) (d a : SReg)
  deriving DecidableEq, Repr
structure SSel where
  (g : Guard) (d a b : SReg) (p : Guard)
  deriving DecidableEq, Repr
structure SCmp where
  (g : Guard) (p : BitVec 3) (a : SReg) (b : SSrc)
  deriving DecidableEq, Repr
/-- Scalar float arithmetic (11 R261): SFADD and SFMUL. -/
structure SFlt where
  (g : Guard) (d a b : SReg) (fmt : Fmt) (rm : RMode) (sat np : Bool)
  deriving DecidableEq, Repr
structure SFma where
  (g : Guard) (d a b : SReg) (fmt : Fmt) (rm : RMode) (sat np nc : Bool)
  deriving DecidableEq, Repr
structure SFCvt where
  (g : Guard) (d a : SReg) (src dst : Fmt) (rm : RMode) (sat : Bool)
  deriving DecidableEq, Repr
structure SFCmp where
  (g : Guard) (p : BitVec 3) (a b : SReg) (fmt : Fmt) (cond : Cond)
  deriving DecidableEq, Repr
structure SBr where
  (g : Guard) (off : BitVec 21)
  deriving DecidableEq, Repr
structure SBrc where
  (g : Guard) (a : SReg) (cond : BCond) (off : BitVec 21)
  deriving DecidableEq, Repr
structure SCall where
  (g : Guard) (d : SReg) (off : BitVec 21)
  deriving DecidableEq, Repr
structure SRet where
  (g : Guard) (a : SReg)
  deriving DecidableEq, Repr
structure SJmpi where
  (g : Guard) (a : SReg) (off : BitVec 21)
  deriving DecidableEq, Repr
structure SLoop where
  (g : Guard) (lp : BitVec 2) (cnt start : SReg) (blen : BitVec 12) (stages : BitVec 2) (ireg : SReg)
  deriving DecidableEq, Repr
structure SNarrow where
  (g : Guard) (d a : CReg) (off len : SReg)
  deriving DecidableEq, Repr
structure SPerm where
  (g : Guard) (d a : CReg) (mask : BitVec 7)
  deriving DecidableEq, Repr
structure SCget where
  (g : Guard) (d : SReg) (a : CReg)
  deriving DecidableEq, Repr
structure SCtest where
  (g : Guard) (p : BitVec 3) (a : CReg) (mask : BitVec 7)
  deriving DecidableEq, Repr
structure SCmov where
  (g : Guard) (d a : CReg)
  deriving DecidableEq, Repr
structure MDescW where
  (g : Guard) (d : BitVec 4) (w : BitVec 1) (a : SReg)
  deriving DecidableEq, Repr
structure MDescC where
  (g : Guard) (d : BitVec 4) (a : CReg)
  deriving DecidableEq, Repr
structure SDescW where
  (g : Guard) (d : BitVec 4) (w : BitVec 2) (a : SReg)
  deriving DecidableEq, Repr
structure SDescC where
  (g : Guard) (d : BitVec 4) (dst : Bool) (a : CReg)
  deriving DecidableEq, Repr
structure STrap where
  (g : Guard) (n : BitVec 4)
  deriving DecidableEq, Repr
structure SMfsr where
  (g : Guard) (d : SReg) (num : BitVec 12)
  deriving DecidableEq, Repr
structure SMtsr where
  (g : Guard) (a : SReg) (num : BitVec 12)
  deriving DecidableEq, Repr

/-- Memory operand: capability, index register, immediate before scaling (13 R317). -/
structure MAddr where
  (cap : CReg) (idx : SReg) (imm : BitVec 22)
  deriving DecidableEq, Repr
/-- The same with a 17-bit or a 10-bit immediate (13 Table 13.1). -/
structure MAddr17 where
  (cap : CReg) (idx : SReg) (imm : BitVec 17)
  deriving DecidableEq, Repr
structure MAddr10 where
  (cap : CReg) (idx : SReg) (imm : BitVec 10)
  deriving DecidableEq, Repr
/-- Scalar loads and stores (13 R319). -/
structure LScal where
  (g : Guard) (d : SReg) (m : MAddr)
  deriving DecidableEq, Repr
/-- LDV: d is v0-v31 (13 R321). -/
structure LVec where
  (g : Guard) (d : BitVec 5) (m : MAddr17)
  deriving DecidableEq, Repr
structure LVecCvt where
  (g : Guard) (d : BitVec 5) (m : MAddr17) (rm : RMode) (sat : Bool)
  deriving DecidableEq, Repr
/-- LDVU: a register, or a push; the slot has no latch (10 Table 10.5). -/
structure LVecU where
  (g : Guard) (d : VDst) (m : MAddr)
  deriving DecidableEq, Repr
/-- STV: the source takes codes 0-33 and 35 (13 R321). -/
structure LStv where
  (g : Guard) (src : VSrc) (m : MAddr17)
  deriving DecidableEq, Repr
structure LStvCvt where
  (g : Guard) (src : VSrc) (m : MAddr17) (rm : RMode) (sat : Bool)
  deriving DecidableEq, Repr
structure LStvm where
  (g : Guard) (src : VSrc) (m : MAddr17) (vm : BitVec 5)
  deriving DecidableEq, Repr
structure LCap where
  (g : Guard) (c : CReg) (m : MAddr)
  deriving DecidableEq, Repr
structure LBlk where
  (g : Guard) (f : Flag) (n : BitVec 7) (m : MAddr10) (ev : Option SReg)
  deriving DecidableEq, Repr
structure LFlag where
  (g : Guard) (f : Flag)
  deriving DecidableEq, Repr
structure LPref where
  (g : Guard) (m : MAddr) (drop : Bool)
  deriving DecidableEq, Repr
structure LProbe where
  (g : Guard) (d : SReg) (m : MAddr10) (target : BitVec 10)
  deriving DecidableEq, Repr
structure LAtom where
  (g : Guard) (d : SReg) (m : MAddr17) (b : SReg)
  deriving DecidableEq, Repr
structure LFence where
  (g : Guard) (scope : BitVec 3) (succ pred : BitVec 8)
  deriving DecidableEq, Repr
/-- Neighbours of ACTSET (13 R331). -/
inductive Nb where
  | none | four | eight
  deriving DecidableEq, Repr
structure LAct where
  (g : Guard) (list : BitVec 3) (idx : SReg) (imm : BitVec 20) (nb : Nb)
  deriving DecidableEq, Repr
structure LActClr where
  (g : Guard) (list : BitVec 3) (idx : SReg) (imm : BitVec 20)
  deriving DecidableEq, Repr
structure LInvRng where
  (g : Guard) (a b c : SReg)
  deriving DecidableEq, Repr
structure LInvAsid where
  (g : Guard) (c : SReg)
  deriving DecidableEq, Repr
structure LGuard where
  (g : Guard)
  deriving DecidableEq, Repr
/-- Event operand: s[index] + SignExtend(offset), unscaled (11 R278). -/
structure EvOp where
  (idx : SReg) (imm : BitVec 22)
  deriving DecidableEq, Repr
structure LEv where
  (g : Guard) (e : EvOp)
  deriving DecidableEq, Repr
structure LEvReg where
  (g : Guard) (d : SReg) (e : EvOp)
  deriving DecidableEq, Repr
structure LTaskend where
  (g : Guard) (e1 : Option EvOp) (e2 : Option SReg)
  deriving DecidableEq, Repr
structure LGovtick where
  (g : Guard) (e : Option EvOp) (wait : Bool)
  deriving DecidableEq, Repr
structure LMem where
  (g : Guard) (m : MAddr)
  deriving DecidableEq, Repr
structure LDst where
  (g : Guard) (d : SReg)
  deriving DecidableEq, Repr
structure LPush where
  (g : Guard) (m : MAddr) (flush : Bool)
  deriving DecidableEq, Repr

/-- Halves of the transfer slot (11 Table 11.6). -/
structure XReg where
  (s : SReg) (v : BitVec 5)
  deriving DecidableEq, Repr
structure XPred where
  (s : SReg) (h : Bool) (p : BitVec 3)
  deriving DecidableEq, Repr
structure XAny where
  (s : SReg) (p : BitVec 3)
  deriving DecidableEq, Repr

/-- Section mask and lane guard of a vector slot (10 Table 10.6). -/
structure VG where
  (mask : BitVec 8) (p : BitVec 3)
  deriving DecidableEq, Repr
structure VBin where
  (g : VG) (d : VDst) (a b : VSrc) (fmt : Fmt) (rm : RMode) (sat na : Bool)
  deriving DecidableEq, Repr
structure VTer where
  (g : VG) (d : VDst) (a b c : VSrc) (fmt : Fmt) (rm : RMode) (sat na : Bool)
  deriving DecidableEq, Repr
structure VMinMax where
  (g : VG) (d : VDst) (a b : VSrc) (fmt : Fmt)
  deriving DecidableEq, Repr
structure VSign where
  (g : VG) (d : VDst) (a : VSrc) (fmt : Fmt)
  deriving DecidableEq, Repr
structure VSpec where
  (g : VG) (d : VDst) (a : VSrc) (fmt : Fmt) (rm : RMode) (sat : Bool)
  deriving DecidableEq, Repr
structure VInt where
  (g : VG) (d : VDst) (a b : VSrc) (fmt : Fmt) (sat : Bool)
  deriving DecidableEq, Repr
/-- Integer forms without SAT. -/
structure VIntP where
  (g : VG) (d : VDst) (a b : VSrc) (fmt : Fmt)
  deriving DecidableEq, Repr
structure VInt3 where
  (g : VG) (d : VDst) (a b c : VSrc) (fmt : Fmt)
  deriving DecidableEq, Repr
structure VCmpOp where
  (g : VG) (p : BitVec 3) (a b : VSrc) (fmt : Fmt) (cond : Cond)
  deriving DecidableEq, Repr
structure VSelOp where
  (g : VG) (d : VDst) (a b : VSrc) (p : BitVec 3)
  deriving DecidableEq, Repr
/-- Group reductions: groups of 2^(gsz+1) lanes (12 R299). -/
structure VGrp where
  (g : VG) (d : VDst) (a : VSrc) (fmt : Fmt) (gsz : BitVec 2) (rm : RMode) (sat : Bool)
  deriving DecidableEq, Repr
structure VBinPlain where
  (g : VG) (d : VDst) (a b : VSrc)
  deriving DecidableEq, Repr
structure VBcast where
  (g : VG) (d : VDst) (a : VSrc) (lane : BitVec 7) (sec : Bool)
  deriving DecidableEq, Repr
/-- VXSEC modes up, down, rot (12 R302). -/
inductive XMode where
  | up | down | rot
  deriving DecidableEq, Repr
structure VXsecOp where
  (g : VG) (d : VDst) (a b : VSrc) (n : BitVec 6) (mode : XMode)
  deriving DecidableEq, Repr
structure VLdbOp where
  (g : VG) (d : VDst) (base : RowBase) (buf : Buf) (off : BitVec 10) (t : Option Fmt)
  deriving DecidableEq, Repr
structure VStbOp where
  (g : VG) (src : VSrc) (base : RowBase) (buf : Buf) (off : BitVec 10)
  deriving DecidableEq, Repr
structure VStbmOp where
  (g : VG) (src : VSrc) (base : RowBase) (buf : Buf) (off : BitVec 10) (vm : BitVec 5)
  deriving DecidableEq, Repr
structure VCvtOp where
  (g : VG) (d : VDst) (a b : VSrc) (sp dp : BitVec 3) (src dst : Fmt) (rm : RMode) (sat : Bool)
  deriving DecidableEq, Repr
structure VMaxexpOp where
  (g : VG) (a : VSrc) (fmt : Fmt) (h : BitVec 4)
  deriving DecidableEq, Repr
structure VQps2Op where
  (g : VG) (d : VDst) (a : VSrc) (rm : RMode) (sat : Bool)
  deriving DecidableEq, Repr
structure VPackOp where
  (g : VG) (d : VDst) (a b : VSrc) (fmt : Fmt) (p : BitVec 3)
  deriving DecidableEq, Repr
structure VUnpackOp where
  (g : VG) (d : VDst) (a : VSrc) (fmt : Fmt) (p : BitVec 3)
  deriving DecidableEq, Repr
structure VTan where
  (g : VG) (d : BitVec 5) (a : VSrc) (k : BitVec 3)
  deriving DecidableEq, Repr
structure VTan0 where
  (g : VG) (d : BitVec 5)
  deriving DecidableEq, Repr

/-- MMA, MMAZ (14 R356). -/
structure MMul where
  (tile : BitVec 5) (a b : BitVec 4) (ta tb ra rb mc du ch : Bool)
  deriving DecidableEq, Repr
/-- MRS (14 R365): du is kept, for class 13. -/
structure MMrs where
  (tile : BitVec 5) (a b : BitVec 4) (ta tb ra rb mc zf du : Bool)
  deriving DecidableEq, Repr
structure MAli where
  (a b : BitVec 4) (sidecar : Bool)
  deriving DecidableEq, Repr
structure MNor where
  (a b : BitVec 4) (ta tb ra rb mc : Bool)
  deriving DecidableEq, Repr
structure MTile where
  (tile : BitVec 5) (du : Bool)
  deriving DecidableEq, Repr
structure MTile0 where
  (tile : BitVec 5)
  deriving DecidableEq, Repr
/-- MTWAIT: one tile, or all. -/
structure MWait where
  (tile : Option (BitVec 5))
  deriving DecidableEq, Repr

/-- Format of a copy side: a Table 10.7 code, or 0xF, through the side's record (13 R339). -/
inductive CFmt where
  | fmt (f : Fmt)
  | viaRecord
  deriving DecidableEq, Repr
/-- Conversion of a copy (13 R336). -/
structure CCvt where
  (src dst : CFmt) (rm : RMode) (sat tg : Bool)
  deriving DecidableEq, Repr
structure CCpy where
  (d : BitVec 4) (f : Option Flag) (ev : Bool) (cv : Option CCvt)
  deriving DecidableEq, Repr
structure CCpys where
  (d : BitVec 4) (f : Option Flag) (ev : Bool)
  deriving DecidableEq, Repr
structure CQ where
  (q : BitVec 4)
  deriving DecidableEq, Repr
structure CWait where
  (f : Flag) (p : BitVec 3) (pv tr : Bool) (limit : BitVec 17)
  deriving DecidableEq, Repr
structure CIdx where
  (d x : BitVec 4) (f : Option Flag) (ev : Bool) (cv : Option CCvt)
  deriving DecidableEq, Repr

/-! ## Arguments of the event steps -/

/-- Translation agents that TLBINV reaches (06 R158). -/
inductive Agent where
  | core (c : CoreId)
  | engine (e : EngineId)
  | walker (d : DieId)
  deriving DecidableEq, Repr

/-- Die-to-die edges (00 R4). -/
inductive Edge where
  | e01 | e02 | e13 | e23
  deriving DecidableEq, Repr

/-- Memory-island states (05 Table 5.5). -/
inductive IslState where
  | active | retain | off | fault
  deriving DecidableEq, Repr

/-- Core-domain states (05 Table 5.5). -/
inductive DomState where
  | running | inReset | off
  deriving DecidableEq, Repr

/-- A host CXL.mem request: a device physical address and the bytes read or written (17 R418). -/
inductive HostReq where
  | read (x n : Nat)
  | write (x : Nat) (bytes : List Byte)
  /-- A read of n bytes of BAR0 at offset `off` of a die's MMIO block, over CXL.io (17 R419). -/
  | reg (die : DieId) (off n : Nat)
  /-- A PCIe atomic operation (17 Table 17.1). -/
  | atomic
  deriving DecidableEq, Repr

/-- An MMIO write of 32 or 64 bits (17 R419); the port the host uses, or none for a device write. -/
structure MmioWr where
  (port : Option DieId) (die : DieId) (off : Nat) (wide : Bool) (val : Word)
  deriving DecidableEq, Repr

/-- What a member of a collective group contributes, as the transport delivers it (17 R423, R426): its
rank, its descriptor's fields and its input bytes, and its finite flag. -/
structure Party where
  (rank : Nat) (op efmt wire : BitVec 4) (stepc : Bool) (root : Nat) (len : Nat) (bytes : List Byte) (nonFinite : Bool)
  deriving DecidableEq, Repr

/-- A Lorelle frame (17 R423, R425). -/
structure Frame where
  (group : Nat) (epoch : Word) (rank seq : Nat) (party : Party)
  deriving DecidableEq, Repr

/-- Where an uncorrectable error strikes (18 R439): a line, a core, the data of a 4 KiB unit on their way through a copy
or a collective, whose CRC32C check will fail (18 R437, R438; log 50), or a line of the host's memory, whose reads the host
answers with an error (13 R318). The data may lie in a buffer of a core (`buf` 1 ABUF, 2 WBUF, 3 CBUF, by byte offset) or in one of
its streams (by the number of the 4 KiB unit from its first row). `corrected` is an error that the die corrects. -/
inductive EccSite where
  | line (pa : Nat)
  | core (c : CoreId)
  | transit (pa : Nat)
  | host (pa : Nat)
  | buffer (c : CoreId) (buf : BitVec 2) (off : Nat)
  | stream (c : CoreId) (q : BitVec 4) (unit : Nat)
  | corrected (d : DieId)
  deriving DecidableEq, Repr

/-- Reasons a member detects a group fault (17 R428). -/
inductive GrpReason where
  | noRoute | island | frameRefused | gridFatal | translation
  deriving DecidableEq, Repr

/-- Command buses of an HBM4 channel (05 R135). -/
inductive HbmBus where
  | row | col
  deriving DecidableEq, Repr

/-! ## Instr -/

/-- One constructor per row of spec/opcode_table.json. Slot instructions carry their operands and act on the
running core. Event steps carry what the outside supplies; the unit that acts is the one the action names
(State.cur, State.dsel, State.unit, State.item; log 3): for those rows it is a core, a die, or a numbered unit. -/
inductive Instr where
  | add (o : SAlu)
  | addi (o : SAddi)
  | sub (o : SAlu)
  | mul (o : SReg3)
  | mulh (o : SReg3)
  | mulhn (o : SReg3)
  | div (o : SReg3)
  | divn (o : SReg3)
  | mod (o : SReg3)
  | modn (o : SReg3)
  | and (o : SAlu)
  | or (o : SAlu)
  | xor (o : SAlu)
  | andn (o : SAlu)
  | shl (o : SAlu)
  | shr (o : SAlu)
  | shra (o : SAlu)
  | rotl (o : SAlu)
  | fshl (o : SFun)
  | fshr (o : SFun)
  | clz (o : SWid)
  | ctz (o : SWid)
  | popc (o : SWid)
  | min (o : SAlu)
  | max (o : SAlu)
  | minn (o : SAlu)
  | maxn (o : SAlu)
  | sext (o : SWid)
  | zext (o : SWid)
  | li (o : SLi)
  | lih (o : SLih)
  | mov (o : SMov)
  | sel (o : SSel)
  | cmpeq (o : SCmp)
  | cmpne (o : SCmp)
  | cmplt (o : SCmp)
  | cmple (o : SCmp)
  | cmpltn (o : SCmp)
  | cmplen (o : SCmp)
  | sfadd (o : SFlt)
  | sfmul (o : SFlt)
  | sffma (o : SFma)
  | sfcvt (o : SFCvt)
  | sfcmp (o : SFCmp)
  | br (o : SBr)
  | brc (o : SBrc)
  | call (o : SCall)
  | ret (o : SRet)
  | jmpi (o : SJmpi)
  | loop (o : SLoop)
  | lbreak (o : LGuard)
  | lbreakDrain (o : LGuard)
  | cnarrow (o : SNarrow)
  | cperm (o : SPerm)
  | cgetb (o : SCget)
  | cgetl (o : SCget)
  | cgeth (o : SCget)
  | ctest (o : SCtest)
  | cmov (o : SCmov)
  | mdsetWord (o : MDescW)
  | mdsetCap (o : MDescC)
  | cdsetWord (o : SDescW)
  | cdsetCap (o : SDescC)
  | trap (o : STrap)
  | rett (o : LGuard)
  | mfsr (o : SMfsr)
  | mtsr (o : SMtsr)
  | xsv (o : XReg)
  | xsvl (o : XReg)
  | xsp (o : XPred)
  | xvs (o : XReg)
  | xps (o : XPred)
  | xpsAny (o : XAny)
  | ldI8 (o : LScal)
  | ldN8 (o : LScal)
  | ldI16 (o : LScal)
  | ldN16 (o : LScal)
  | ldI32 (o : LScal)
  | ldN32 (o : LScal)
  | ldI64 (o : LScal)
  | stI8 (o : LScal)
  | stI16 (o : LScal)
  | stI32 (o : LScal)
  | stI64 (o : LScal)
  | ldv (o : LVec)
  | ldvCvt (o : LVecCvt)
  | stv (o : LStv)
  | stvCvt (o : LStvCvt)
  | ldvu (o : LVecU)
  | stvm (o : LStvm)
  | cld (o : LCap)
  | cst (o : LCap)
  | ldblk (o : LBlk)
  | blkrel (o : LFlag)
  | blkwait (o : LFlag)
  | pref (o : LPref)
  | probeLookup (o : LProbe)
  | probePin (o : LProbe)
  | probeUnpin (o : LProbe)
  | amoaddI32 (o : LAtom)
  | amoaddI64 (o : LAtom)
  | amominI32 (o : LAtom)
  | amominI64 (o : LAtom)
  | amomaxI32 (o : LAtom)
  | amomaxI64 (o : LAtom)
  | amominnI32 (o : LAtom)
  | amominnI64 (o : LAtom)
  | amomaxnI32 (o : LAtom)
  | amomaxnI64 (o : LAtom)
  | amoandI32 (o : LAtom)
  | amoandI64 (o : LAtom)
  | amoorI32 (o : LAtom)
  | amoorI64 (o : LAtom)
  | amoxorI32 (o : LAtom)
  | amoxorI64 (o : LAtom)
  | amoswpI32 (o : LAtom)
  | amoswpI64 (o : LAtom)
  | amocasI32 (o : LAtom)
  | amocasI64 (o : LAtom)
  | amofaddF32 (o : LAtom)
  | amobaddI32 (o : LAtom)
  | amobaddI64 (o : LAtom)
  | pfence (o : LFence)
  | actset (o : LAct)
  | actclr (o : LActClr)
  | tlbinvRng (o : LInvRng)
  | tlbinvAsid (o : LInvAsid)
  | tlbinvAll (o : LGuard)
  | tlbinvAgentRequest (a : Agent)
  | tlbinvAgentAck (a : Agent)
  | waitev (o : LEv)
  | signal (o : LEvReg)
  | evinit (o : LEvReg)
  | evquery (o : LEvReg)
  | launch (o : LScal)
  | taskend (o : LTaskend)
  | govtick (o : LGovtick)
  | rescale (o : LMem)
  | stepbegin (o : LScal)
  | stepcommit (o : LDst)
  | stepabort (o : LGuard)
  | rbqpush (o : LPush)
  | vadd (o : VBin)
  | vsub (o : VBin)
  | vmul (o : VBin)
  | vfma (o : VTer)
  | vfms (o : VTer)
  | vfnma (o : VTer)
  | vmin (o : VMinMax)
  | vmax (o : VMinMax)
  | vabs (o : VSign)
  | vneg (o : VSign)
  | vrcp (o : VSpec)
  | vrsqrt (o : VSpec)
  | vsqrt (o : VSpec)
  | vexp2 (o : VSpec)
  | vlog2 (o : VSpec)
  | vsin (o : VSpec)
  | vcos (o : VSpec)
  | viadd (o : VInt)
  | visub (o : VInt)
  | vimul (o : VInt)
  | vimulh (o : VIntP)
  | vimin (o : VIntP)
  | vimax (o : VIntP)
  | vand (o : VIntP)
  | vor (o : VIntP)
  | vxor (o : VIntP)
  | vandn (o : VIntP)
  | vshl (o : VIntP)
  | vshr (o : VIntP)
  | vshra (o : VIntP)
  | vfshl (o : VInt3)
  | vfshr (o : VInt3)
  | vclz (o : VSign)
  | vctz (o : VSign)
  | vpopc (o : VSign)
  | vcmp (o : VCmpOp)
  | vsel (o : VSelOp)
  | vgmax (o : VGrp)
  | vgmin (o : VGrp)
  | vgsum (o : VGrp)
  | vperm (o : VBinPlain)
  | vbcastl (o : VBcast)
  | vxsec (o : VXsecOp)
  | vldb (o : VLdbOp)
  | vstb (o : VStbOp)
  | vstbm (o : VStbmOp)
  | vcvt (o : VCvtOp)
  | vmaxexp (o : VMaxexpOp)
  | vqps2 (o : VQps2Op)
  | vpack (o : VPackOp)
  | vunpack (o : VUnpackOp)
  | vtget (o : VTan)
  | vtset (o : VTan)
  | vtzero (o : VTan0)
  | mma (o : MMul)
  | mmaz (o : MMul)
  | mrs (o : MMrs)
  | malias (o : MAli)
  | mnorm (o : MNor)
  | mfro (o : MTile0)
  | mscale (o : MTile)
  | mzero (o : MTile)
  | mtwait (o : MWait)
  | cpy (o : CCpy)
  | cpys (o : CCpys)
  | qclose (o : CQ)
  | cpyw (o : CWait)
  | gather (o : CIdx)
  | scatter (o : CIdx)
  | coll (o : CCpys)
  | collw (o : CWait)
  | lorelleFrameReceive (fr : Frame)
  | groupFaultDetect (g : Nat) (r : GrpReason)
  | lsHomeRequest (line : Nat) (own : Bool)
  | pseudoChannelExit (piece line : Nat) (write : Bool)
  | hbmCommandIssue (bus : HbmBus)
  | uncorrectableError (at_ : EccSite)
  | edgeFailure (e : Edge)
  | islandStateChange (st : IslState)
  | doorbell (v : BitVec 32)
  | resume (token : BitVec 32)
  | prmpt (mask : BitVec 36)
  | dbghalt (mask : BitVec 36)
  | hostCxlMemAccess (r : HostReq)
  | mmioRegisterWrite (w : MmioWr)
  | moncfgClr (v : Word)
  | monitorSample (src : BitVec 8) (no : BitVec 16) (v : Nat)
  | pstate (req : BitVec 2)
  | thermalPowerThrottle (watts celsius : Nat)
  | thermalLowestStep (celsius : Nat)
  | thermalReset (celsius : Nat)
  | dieBoot (image sig key : List Byte) (svn : BitVec 32) (readable : Bool)
  | challenge (nonce : List Byte)
  | getMeasurements (index : Nat)
  | spdmUnsupportedRequest (code : Byte)
  | coreDomainStateChange (st : DomState)
  | lorellePortTraining (up : Bool)
  | throttlingEnds (watts celsius : Nat)
  | bundleIssue
  | resultLanding
  | loadValueArrival
  | atomicAtHome
  | atomicResponseArrival
  | tlbinvComplete
  | waitevSpinLimit
  | taskCompletion
  | rbqGenerate
  | matrixOpStart
  | matrixOpComplete
  | samplingVarianceCheck
  | matrixDeferredFault
  | cpywLimitExpiry
  | writeQueueDrain
  | ptsTick
  | statsFlushReply
  | taskLoading
  | preemptAtQBundle
  | preemptAtLoopPass
  | switchIn
  | trapEntry
  | gridFatalFault
  | preboundExceeded
  | watchdogExpiry
  | gvUpdateAtHome
  | activationUpdateApply
  | pageWalk
  | tickGovern
  | stepStateRewrite
  | pullBackgroundLine
  | patrolScrub
  | dispatch
  | ageingPromotion
  | taskSteal
  | flpop
  | getVersion
  | getCapabilities
  | negotiateAlgorithms
  | getDigests
  | getCertificate
  | voltageSettled
  | powerLossNotice
  | ldblkFillDone
  | ldblkFillFail
  | frameFillDone
  | frameFillFault
  | copyComplete
  | streamRowTransfer
  | collectiveComplete
  | pullComplete
  | pullRegister
  | pullStart
  | pullCancel
  | pullFirstTouch
  | pullSourceFailure
  | pseudoChannelPowerDown
  | pseudoChannelSelfRefresh
  | queuePacketRead
  | queueSwitchIn
  | queueSwitchOut
  | gridComplete
  | activationGenerationSwap
  | tickComplete
  | dieCacheEviction
  | hostSnoop
  | backInvalidateResponse
  | statsFlush
  | lorellePortRemoval
  | groupFaultNotification
  | hbmRefresh
  | interruptMessage
  | progress
  deriving DecidableEq, Repr

end Sys2Proof
end

