-- ==== Sys2Proof/WellFormed.lean ====
section
/-!
DEFINITION. Which terms of Instr an encoding can carry: operand codes and ranges that a slot's encoding
checks refuse (spec 10 R230, R234, R237 to R240; 11 to 14), and the ranges of event arguments.
-/

namespace Sys2Proof

/-- Formats of the vector float forms (12 R292). -/
def Fmt.isFlt : Fmt → Bool
  | .f32 | .bf16 | .f16 => true
  | _ => false

/-- Formats of the vector integer forms (12 R295). -/
def Fmt.isVInt : Fmt → Bool
  | .i8 | .i16 | .i32 | .n8 | .n16 | .n32 => true
  | _ => false

/-- Elements of a format in one 32-bit lane (02 R42). -/
def Fmt.perLane : Fmt → Nat
  | .mxf4 => 8
  | .e4m3 | .e5m2 | .ps2 | .i8 | .n8 => 4
  | .bf16 | .f16 | .i16 | .n16 => 2
  | .f32 | .i32 | .n32 | .i64 | .n64 => 1

/-- Formats of VPACK and VUNPACK (12 R311). -/
def Fmt.packs (f : Fmt) : Bool := f.perLane != 1

/-- Formats a transposed VLDB takes (04 R114). -/
def Fmt.transposes : Fmt → Bool
  | .e4m3 | .e5m2 | .ps2 | .i8 | .n8 | .bf16 | .f16 | .i16 | .n16 => true
  | _ => false

/-- Formats of SFCVT (11 R262). -/
def Fmt.sfcvt : Fmt → Bool
  | .mxf4 | .ps2 => false
  | _ => true

/-- Formats a copy names outside code 0xF (13 R339). -/
def Fmt.copies : Fmt → Bool
  | .f32 | .bf16 | .f16 | .i8 | .i16 | .i32 | .n8 | .n16 | .n32 => true
  | _ => false

/-- Vector format codes stop at .n32 (10 Table 10.7). -/
def Fmt.vec : Fmt → Bool
  | .i64 | .n64 => false
  | _ => true

/-- Formats of VMAXEXP (12 R308). -/
def Fmt.narrow : Fmt → Bool
  | .e4m3 | .e5m2 | .mxf4 | .ps2 => true
  | _ => false

/-- Integer formats of every width. -/
def Fmt.isInt : Fmt → Bool
  | .i8 | .i16 | .i32 | .n8 | .n16 | .n32 | .i64 | .n64 => true
  | _ => false

/-- Sources of STV: no stream (13 R321). -/
def VSrc.noPop : VSrc → Bool
  | .pop _ => false
  | _ => true

def CFmt.wf : CFmt → Bool
  | .fmt f => f.copies
  | .viaRecord => true

/-- A copy's conversion: no SR, no DYN; TG needs code 0xF twice (13 R339, 15 R383). -/
def CCvt.wf (o : CCvt) : Bool :=
  o.src.wf && o.dst.wf && o.rm != .sr && o.rm != .dyn &&
    (!o.tg || (o.src == .viaRecord && o.dst == .viaRecord))

/-- Element positions fit the format (12 R309, R311). -/
def VCvtOp.wf (o : VCvtOp) : Bool :=
  o.src.vec && o.dst.vec && o.dst != .ps2 && o.sp.toNat < o.src.perLane && o.dp.toNat < o.dst.perLane
    && (o.dst.perLane != 1 || o.b == .zero)

/-- Formats, rounding and saturation of the group reductions (12 R299). -/
def VGrp.wf (sum : Bool) (o : VGrp) : Bool :=
  (o.fmt.isFlt || o.fmt.isVInt) &&
    (if sum then (o.fmt.isFlt || o.rm == .rne) else o.rm == .rne && !o.sat)

/-- System register numbers of 11 Table 11.4. -/
def sysNumOk (n : BitVec 12) : Bool :=
  let x := n.toNat
  x ≤ 5 || (0x10 ≤ x && x ≤ 0x14) || (0x20 ≤ x && x ≤ 0x2E) || (0x40 ≤ x && x ≤ 0x48) || x = 0x50 || (0x60 ≤ x && x ≤ 0x67)

/-- Well-formed instructions: those some encoding of the spec carries (10 R230, R236 to R240). -/
def Instr.wf : Instr → Bool
  | .sfadd o | .sfmul o => o.fmt.isFlt && o.rm != .sr
  | .sffma o => o.fmt.isFlt && o.rm != .sr
  | .sfcvt o => o.src.sfcvt && o.dst.sfcvt && o.rm != .sr
  | .sfcmp o => o.fmt.isFlt
  | .mfsr o => sysNumOk o.num
  | .mtsr o => sysNumOk o.num
  | .ldvu o => o.d != .latch
  | .stv o => o.src.noPop
  | .stvCvt o => o.src.noPop
  | .vadd o | .vsub o | .vmul o => o.fmt.isFlt
  | .vfma o | .vfms o | .vfnma o => o.fmt.isFlt
  | .vmin o | .vmax o => o.fmt.isFlt
  | .vabs o | .vneg o => o.fmt.isFlt
  | .vrcp o | .vrsqrt o | .vsqrt o | .vexp2 o | .vlog2 o | .vsin o | .vcos o => o.fmt.isFlt
  | .viadd o | .visub o | .vimul o => o.fmt.isVInt
  | .vimulh o | .vimin o | .vimax o | .vand o | .vor o | .vxor o | .vandn o | .vshl o | .vshr o | .vshra o => o.fmt.isVInt
  | .vfshl o | .vfshr o => o.fmt.isVInt
  | .vclz o | .vctz o | .vpopc o => o.fmt.isVInt
  | .vcmp o => (o.fmt == .f32) || ((o.fmt == .i32 || o.fmt == .n32) && o.cond != .un && o.cond != .ord)
  | .vgmax o | .vgmin o => o.wf false
  | .vgsum o => o.wf true
  | .vxsec o => o.mode != .rot || (o.n.toNat < 8 && o.b == .reg 0)
  | .vldb o => match o.t with | none => true | some f => f.transposes && o.buf == .wbuf
  | .vcvt o => o.wf
  | .vmaxexp o => o.fmt.narrow
  | .vqps2 o => o.rm != .sr
  | .vpack o => o.fmt.vec && o.fmt.packs && o.p.toNat < o.fmt.perLane
  | .vunpack o => o.fmt.vec && o.fmt.packs && o.p.toNat < o.fmt.perLane
  | .vtget o | .vtset o => 1 ≤ o.k.toNat && o.k.toNat ≤ 4
  | .cpy o => o.cv.all CCvt.wf
  | .gather o | .scatter o => o.cv.all CCvt.wf
  | _ => true

end Sys2Proof
end

