-- ==== Sys2Proof/Machine/Numfmt.lean ====
section
/-!
DEFINITION. Number formats and rounding (spec 02): exact values, Decode, RoundTo, Pow2Near, PS2Quant, the block
scales of MXFP4 and PS2, exact sums, products, quotients and roots, and the special functions' final rounding.
-/

namespace Sys2Proof.NumFmt

/-- An exact value. A finite one is (-1)^neg * (n + d) * 2^e with d = 0, or 0 < d < 1 when `st` is set
(an inexact quotient or root, whose n then has far more bits than any destination). -/
inductive XV where
  | nan (neg : Bool)
  | inf (neg : Bool)
  | fin (neg : Bool) (n : Nat) (e : Int) (st : Bool)
  deriving DecidableEq, Repr

namespace XV

def zero (neg : Bool) : XV := .fin neg 0 0 false
def ofInt (i : Int) : XV := .fin (decide (i < 0)) i.natAbs 0 false
def isNan : XV → Bool | .nan _ => true | _ => false
def isInf : XV → Bool | .inf _ => true | _ => false
def isFin : XV → Bool | .fin .. => true | _ => false
def isZero : XV → Bool | .fin _ n _ st => n == 0 && !st | _ => false
def sign : XV → Bool | .nan s => s | .inf s => s | .fin s .. => s
def neg : XV → XV
  | .nan s => .nan (!s) | .inf s => .inf (!s) | .fin s n e st => .fin (!s) n e st
def abs : XV → XV
  | .nan _ => .nan false | .inf _ => .inf false | .fin _ n e st => .fin false n e st
/-- Exact multiplication by 2^k. -/
def scale (k : Int) : XV → XV
  | .fin s n e st => .fin s n (e + k) st
  | x => x
/-- floor(log2 |x|) of a finite nonzero value (02 R58). -/
def exp2Floor : XV → Int
  | .fin _ n e _ => (Nat.log2 n : Int) + e
  | _ => 0
/-- Signed integer of a finite value in units of 2^k, k at or below its exponent. -/
def units (k : Int) : XV → Int
  | .fin s n e _ => let m : Int := (n * 2 ^ (e - k).toNat : Nat); if s then -m else m
  | _ => 0
def expo : XV → Int | .fin _ _ e _ => e | _ => 0

end XV

/-! ## Exact arithmetic (02 R59's signs of zero) -/

/-- Product: NaN inputs and 0 times infinity give NaN; the sign is the exclusive-or. -/
def mul (a b : XV) : XV :=
  match a, b with
  | .nan _, _ => .nan false
  | _, .nan _ => .nan false
  | .inf s, .fin t n _ _ => if n = 0 then .nan false else .inf (s != t)
  | .fin s n _ _, .inf t => if n = 0 then .nan false else .inf (s != t)
  | .inf s, .inf t => .inf (s != t)
  | .fin s n e _, .fin t m f _ => .fin (s != t) (n * m) (e + f) false

/-- Exact sum of terms; `rdn` says the rounding mode is RDN (02 R59). -/
def sum (rdn : Bool) (ts : List XV) : XV :=
  if ts.any XV.isNan then .nan false
  else if ts.any (fun t => t == .inf false) then
    if ts.any (fun t => t == .inf true) then .nan false else .inf false
  else if ts.any (fun t => t == .inf true) then .inf true
  else
    let k := ts.foldl (fun k t => if t.isZero then k else min k t.expo) (1024 : Int)
    let v := ts.foldl (fun v t => if t.isZero then v else v + t.units k) (0 : Int)
    if v = 0 then
      XV.zero (if ts.all (fun t => t.isZero && t.sign) && !ts.isEmpty then true else rdn)
    else .fin (decide (v < 0)) v.natAbs k false

/-- Quotient, 96 or more bits and a sticky rest; a zero divisor gives an infinity, 0/0 and inf/inf NaN. -/
def div (a b : XV) : XV :=
  match a, b with
  | .nan _, _ => .nan false
  | _, .nan _ => .nan false
  | .inf _, .inf _ => .nan false
  | .inf s, .fin t _ _ _ => .inf (s != t)
  | .fin s _ _ _, .inf t => XV.zero (s != t)
  | .fin s n e _, .fin t m f _ =>
    if m = 0 then (if n = 0 then .nan false else .inf (s != t))
    else if n = 0 then XV.zero (s != t)
    else
      let k := 96 + Nat.log2 m
      .fin (s != t) (n * 2 ^ k / m) (e - f - k) (n * 2 ^ k % m != 0)

/-- Integer square root, found bit by bit from bit `b`. -/
def isqrtFrom (n : Nat) : Nat → Nat → Nat
  | 0, r => if (r + 1) * (r + 1) ≤ n then r + 1 else r
  | b + 1, r =>
    let c := r + 2 ^ (b + 1)
    isqrtFrom n b (if c * c ≤ n then c else r)
def isqrt (n : Nat) : Nat := isqrtFrom n (Nat.log2 n / 2 + 1) 0

/-- Exact square root of a nonnegative finite value, with a sticky rest. -/
def sqrt : XV → XV
  | .nan _ => .nan false
  | .inf s => if s then .nan false else .inf false
  | .fin s n e st =>
    if n = 0 then XV.zero s
    else if s then .nan false
    else
      let odd : Nat := (e % 2).natAbs
      let m := n * 2 ^ (160 + odd)
      let r := isqrt m
      .fin false r ((e - odd - 160) / 2) (st || r * r != m)

/-- Order of two non-NaN values; +0 and -0 are equal (02 R40). -/
def cmp (a b : XV) : Option Ordering :=
  match a, b with
  | .nan _, _ => none
  | _, .nan _ => none
  | .inf s, .inf t => some (if s = t then .eq else if s then .lt else .gt)
  | .inf s, _ => some (if s then .lt else .gt)
  | _, .inf t => some (if t then .gt else .lt)
  | x@(.fin _ _ e _), y@(.fin _ _ f _) =>
    let k := min e f
    some (compare (x.units k) (y.units k))

/-! ## Formats -/

/-- Element width in bits (02 Tables 2.1, 2.2; 10 Table 10.7). -/
def width : Fmt → Nat
  | .f32 => 32 | .bf16 => 16 | .f16 => 16 | .e4m3 => 8 | .e5m2 => 8 | .mxf4 => 4 | .ps2 => 8
  | .i8 => 8 | .i16 => 16 | .i32 => 32 | .n8 => 8 | .n16 => 16 | .n32 => 32 | .i64 => 64 | .n64 => 64

def signed : Fmt → Bool
  | .i8 | .i16 | .i32 | .i64 => true
  | _ => false

/-- Layout of a floating-point format: mantissa bits, bias, largest finite value maxN * 2^maxE. -/
structure FP where
  (m bias maxN : Nat) (maxE : Int) (hasInf : Bool)
  deriving DecidableEq, Repr

def fp : Fmt → FP
  | .f16 => ⟨10, 15, 2047, 5, true⟩
  | .bf16 => ⟨7, 127, 255, 120, true⟩
  | .e4m3 => ⟨3, 7, 14, 5, false⟩
  | .e5m2 => ⟨2, 15, 7, 13, true⟩
  | .mxf4 => ⟨1, 1, 3, 1, false⟩
  | _ => ⟨23, 127, 2 ^ 24 - 1, 104, true⟩

/-- The low `w` bits as a signed integer. -/
def toSigned (w b : Nat) : Int := if b % 2 ^ w < 2 ^ (w - 1) then (b % 2 ^ w : Nat) else ((b % 2 ^ w : Nat) : Int) - (2 ^ w : Nat)

/-- One term of a PS2 element in units of 2^-6 (02 R46). -/
def ps2Term (t : Nat) : Int :=
  let e := t % 8
  if e = 7 then 0 else if t / 8 % 2 = 1 then -((2 ^ (6 - e) : Nat) : Int) else ((2 ^ (6 - e) : Nat) : Int)

/-- Decode (02 R39, R43, R46): the exact value of the low bits of `b`. -/
def decode (f : Fmt) (b : Nat) : XV :=
  match f with
  | .i8 | .i16 | .i32 | .i64 => XV.ofInt (toSigned (width f) b)
  | .n8 | .n16 | .n32 | .n64 => XV.ofInt ((b % 2 ^ width f : Nat) : Int)
  | .ps2 =>
    let v := ps2Term (b / 16 % 16) + ps2Term (b % 16)
    .fin (decide (v < 0)) v.natAbs (-6) false
  | _ =>
    let p := fp f
    let w := width f
    let s := b / 2 ^ (w - 1) % 2 == 1
    let e := b / 2 ^ p.m % 2 ^ (w - 1 - p.m)
    let m := b % 2 ^ p.m
    let top := 2 ^ (w - 1 - p.m) - 1
    if p.hasInf && e == top then (if m = 0 then .inf s else .nan s)
    else if f == .e4m3 && e == top && m == 7 then .nan s
    else if e = 0 then .fin s m (1 - (p.bias : Int) - p.m) false
    else .fin s (m + 2 ^ p.m) ((e : Int) - p.bias - p.m) false

/-- Conversion events (02 R53). -/
structure Ev where
  (sat under nan : Bool)
  deriving DecidableEq, Repr
def Ev.none : Ev := ⟨false, false, false⟩

/-- Rounds the magnitude (n + d) * 2^e to a multiple of 2^u by the mode; `r` is the random byte. -/
def roundMag (mode : RMode) (neg : Bool) (r : Nat) (n : Nat) (e : Int) (st : Bool) (u : Int) : Nat :=
  if u ≤ e then n * 2 ^ (e - u).toNat
  else
    let k := (u - e).toNat
    let q := n / 2 ^ k
    let rem := n % 2 ^ k
    if rem = 0 ∧ st = false then q
    else
      let half := 2 ^ (k - 1)
      let up : Bool := match mode with
        | .rtz => false
        | .rup => !neg
        | .rdn => neg
        | .sr => decide (rem * 256 / 2 ^ k + r ≥ 256)
        | _ => decide (rem > half) || (rem == half && (st || q % 2 == 1))
      if up then q + 1 else q

def signBit (f : Fmt) (s : Bool) : Nat := if s then 2 ^ (width f - 1) else 0
def maxEnc (f : Fmt) : Nat :=
  match f with
  | .f16 => 0x7BFF | .bf16 => 0x7F7F | .e4m3 => 0x7E | .e5m2 => 0x7B | .mxf4 => 0x7 | _ => 0x7F7F_FFFF
def infEnc (f : Fmt) : Nat :=
  match f with
  | .f16 => 0x7C00 | .bf16 => 0x7F80 | .e5m2 => 0x7C | _ => 0x7F80_0000
/-- NaN of a destination (02 R53, Table 2.5), sign kept. -/
def nanEnc (f : Fmt) : Nat :=
  match f with
  | .f16 => 0x7E00 | .bf16 => 0x7FC0 | .e4m3 => 0x7F | .e5m2 => 0x7E | .mxf4 => 0 | _ => 0x7FC0_0000

/-- Formats whose wide results FTZ flushes (02 R55). -/
def wide : Fmt → Bool
  | .f32 | .f16 | .bf16 => true
  | _ => false

/-- Whether an overflow gives the largest finite value instead of an infinity (02 Table 2.5). -/
def overflowsToMax (f : Fmt) (mode : RMode) (sat neg : Bool) : Bool :=
  if f == .e4m3 || f == .mxf4 || sat then true
  else match mode with
    | .rtz => true
    | .rup => neg
    | .rdn => !neg
    | _ => false

/-- RoundTo for an integer destination (02 R59, Table 2.5). -/
def roundToInt (f : Fmt) (mode : RMode) (r : Nat) (x : XV) : Nat × Ev :=
  let w := width f
  let lo : Int := if signed f then -((2 ^ (w - 1) : Nat) : Int) else 0
  let hi : Int := if signed f then ((2 ^ (w - 1) - 1 : Nat) : Int) else ((2 ^ w - 1 : Nat) : Int)
  let enc : Int → Nat := fun v => (v % ((2 ^ w : Nat) : Int)).toNat
  match x with
  | .nan _ => (0, ⟨false, false, true⟩)
  | .inf s => (enc (if s then lo else hi), ⟨true, false, false⟩)
  | .fin s n e st =>
    let q := roundMag mode s r n e st 0
    let v : Int := if s then -(q : Int) else q
    if v < lo then (enc lo, ⟨true, false, false⟩)
    else if hi < v then (enc hi, ⟨true, false, false⟩)
    else (enc v, ⟨false, q == 0 && (n != 0 || st), false⟩)

/-- RoundTo (02 R59): `mode` is already resolved, `ftz` is FPCTL.FTZ, `r` the random byte. -/
def roundTo (f : Fmt) (mode : RMode) (sat ftz : Bool) (r : Nat) (x : XV) : Nat × Ev :=
  if f.isInt then roundToInt f mode r x
  else
    let p := fp f
    match x with
    | .nan s => (signBit f s + nanEnc f, ⟨false, false, true⟩)
    | .inf s =>
      if sat || !p.hasInf then (signBit f s + maxEnc f, ⟨true, false, false⟩)
      else (signBit f s + infEnc f, Ev.none)
    | .fin s n e st =>
      if n = 0 ∧ st = false then (signBit f s, Ev.none)
      else
        let emin : Int := 1 - (p.bias : Int)
        let ex := max ((Nat.log2 n : Int) + e) emin
        let u := ex - p.m
        let v := roundMag mode s r n e st u
        if u > p.maxE ∨ (u = p.maxE ∧ v > p.maxN) then
          if overflowsToMax f mode sat s then (signBit f s + maxEnc f, ⟨true, false, false⟩)
          else (signBit f s + infEnc f, Ev.none)
        else if v = 0 then (signBit f s, ⟨false, true, false⟩)
        else if wide f && ftz && decide (v < 2 ^ p.m) then (signBit f s, ⟨false, true, false⟩)
        else (signBit f s + ((ex - emin).toNat * 2 ^ p.m + v), Ev.none)

/-- Result of an arithmetic instruction: a NaN is the positive canonical one (02 R54). -/
def arith (f : Fmt) (mode : RMode) (sat ftz : Bool) (r : Nat) (x : XV) : Nat :=
  if x.isNan then nanEnc f else (roundTo f mode sat ftz r x).1

/-- E8M0Of (02 R58). -/
def e8m0Of (e : Int) : Nat := if e + 127 < 0 then 0 else if e + 127 > 254 then 254 else (e + 127).toNat
/-- Exponent of an E8M0 code; none for the NaN code (02 R41). -/
def e8m0Exp (c : Nat) : Option Int := if c % 256 = 255 then none else some ((c % 256 : Nat) - 127 : Int)
/-- Multiplies by the value of an E8M0 code. -/
def byE8m0 (c : Nat) (x : XV) : XV := match e8m0Exp c with | some k => x.scale k | none => .nan false
/-- Divides by the value of an E8M0 code. -/
def overE8m0 (c : Nat) (x : XV) : XV := match e8m0Exp c with | some k => x.scale (-k) | none => .nan false

/-! ## Conversions (02 R56, Table 2.6) -/

/-- Integer to integer (02 Table 2.6): without SAT the low bits where the destination is narrower, or unsigned of a signed
source's width; every other pair, and every pair with SAT, rounds to the nearest end of the range (02 R56, Table 2.5). -/
def intToInt (src dst : Fmt) (sat : Bool) (b : Nat) : Nat × Ev :=
  let v : Int := if signed src then toSigned (width src) b else ((b % 2 ^ width src : Nat) : Int)
  let w := width dst
  if !sat && (decide (w < width src) || (w == width src && signed src)) then ((v % ((2 ^ w : Nat) : Int)).toNat, Ev.none)
  else roundToInt dst .rtz 0 (XV.ofInt v)

/-- Conversion of an encoding with a change of scale 2^k of its value (k = 0 for none), by Table 2.6. A
conversion to the same format at k = 0 copies the bits, a NaN made canonical, and a widening between floats at k = 0 never
flushes. -/
def convert (src dst : Fmt) (mode : RMode) (sat ftz : Bool) (r : Nat) (k : Int) (b : Nat) : Nat × Ev :=
  if src.isInt && dst.isInt && k == 0 then intToInt src dst sat b
  else
    let x := decode src b
    if src == dst && k == 0 then
      if x.isNan then (signBit dst x.sign + nanEnc dst, ⟨false, false, true⟩) else (b % 2 ^ width src, Ev.none)
    else
      let y := x.scale k
      let y := if dst.isInt && y.isZero then XV.zero false else y
      let widens := !src.isInt && !dst.isInt && k == 0 && decide (width src < width dst)
      roundTo dst mode sat (ftz && !widens) r y

/-- Conversion of a source element under a block scale code and a tensor scale 2^sigma. A NaN code gives NaN, a source NaN
keeps its sign (02 R54). A widening between floats flushes only under a tensor scale (02 Table 2.6; log 49). -/
def convertScaled (src dst : Fmt) (mode : RMode) (sat ftz : Bool) (r code : Nat) (sigma : Int) (b : Nat) : Nat :=
  match e8m0Exp code with
  | none => (roundTo dst mode sat ftz r (match decode src b with | .nan s => .nan s | _ => .nan false)).1
  | some k =>
    let exact := !src.isInt && !dst.isInt && sigma == 0 && decide (width src < width dst)
    (convert src dst mode sat (ftz && !exact) r (k + sigma) b).1

/-! ## PS2 (02 R47, R60) -/

/-- Index of the power of two that Pow2Near answers: 0 to 6 for 2^-i, 7 for zero. `n` is |y| in units of
2^e. -/
def pow2NearIdx (y : XV) : Nat :=
  match y with
  | .fin _ n e _ =>
    if n = 0 then 7
    else
      -- |y| >= 3/4 * 2^-j  iff  n * 2^e * 2^(j+2) >= 3
      let ge : Nat → Nat → Bool := fun num sh => -- n * 2^(e + sh) >= num
        let k := e + sh
        if k ≥ 0 then decide (n * 2 ^ k.toNat ≥ num) else decide (n ≥ num * 2 ^ (-k).toNat)
      if ge 3 2 then 0 else if ge 3 3 then 1 else if ge 3 4 then 2 else if ge 3 5 then 3 else if ge 3 6 then 4
      else if ge 3 7 then 5 else if ge 1 7 then 6 else 7
  | _ => 0

/-- Term code of PS2: sign and exponent, absent as 0x7. -/
def ps2Code (neg : Bool) (i : Nat) : Nat := if i = 7 then 7 else (if neg then 8 else 0) + i
def ps2Val (neg : Bool) (i : Nat) : XV := if i = 7 then XV.zero false else .fin neg 1 (-(i : Int)) false

/-- PS2Quant (02 R60) of an exact value already divided by its block scale; an infinity saturates. -/
def ps2Quant (y : XV) : Nat × Ev :=
  match y with
  | .nan _ => (0x77, ⟨false, false, true⟩)
  | .inf s => (if s then 0x88 else 0x00, ⟨true, false, false⟩)
  | .fin s n _ _ =>
    if cmp y.abs (XV.ofInt 2) != some .lt then (if s then 0x88 else 0x00, ⟨true, false, false⟩)
    else
      let i := pow2NearIdx y
      let t1 := ps2Val s i
      let rest := sum false [y, t1.neg]
      let j := if i = 7 then pow2NearIdx rest else pow2NearIdx rest
      let s2 := rest.sign
      (ps2Code s i * 16 + ps2Code s2 j, ⟨false, i == 7 && n != 0, false⟩)

/-- Group exponent: the largest exponent of the finite nonzero values (02 R47). -/
def groupExp (vs : List XV) : Option Int :=
  vs.foldl (fun m v =>
    if v.isFin && !v.isZero then
      match m with | none => some v.exp2Floor | some k => some (max k v.exp2Floor)
    else m) none

/-- Start bits and block exponents of a run of groups: answers, for each group, whether it starts a
block (02 R47). `size` counts elements of the current block. -/
def ps2Starts (bj : Nat) : Option Int → Nat → List (Option Int) → List Bool
  | _, _, [] => []
  | bmax, size, g :: gs =>
    let jump : Bool := match g, bmax with | some a, some b => decide ((a - b).natAbs > bj) | _, _ => false
    if size = 0 ∨ size = 64 ∨ jump then true :: ps2Starts bj g 8 gs
    else
      let m := match g, bmax with | some a, some b => some (max a b) | some a, none => some a | none, b => b
      false :: ps2Starts bj m (size + 8) gs

/-- Scale code of each group from start bits and groups of eight values: NaN anywhere in the block gives
0xFF, no exponent gives 2^0. -/
def ps2Codes : List (Bool × List XV) → List Nat
  | [] => []
  | gs =>
    -- the code of a group is that of its block: fold backwards over the rest of the block, forwards by a scan
    let rec scan : List (Bool × List XV) → List (List XV) → List Nat → List Nat
      | [], cur, acc => acc ++ List.replicate cur.length (code cur)
      | (b, g) :: t, cur, acc =>
        if b && !cur.isEmpty then scan t [g] (acc ++ List.replicate cur.length (code cur))
        else scan t (cur ++ [g]) acc
    scan gs [] []
where
  code (blk : List (List XV)) : Nat :=
    if blk.any (fun g => g.any XV.isNan) then 255
    else match groupExp (blk.flatMap id) with | some e => e8m0Of e | none => 127

/-- Block scale code of MXFP4 for a block of values (02 R45). -/
def mxCode (vs : List XV) : Nat :=
  if vs.any XV.isNan then 255
  else match groupExp vs with | some e => e8m0Of (e - 2) | none => 0

end Sys2Proof.NumFmt
end

