-- ==== Sys2Proof/Machine/State.lean ====
section
/-!
DEFINITION. The state of the G4 as plain data, everything the spec gives the machine (INVENTORY.md, "State"), the
faults and refusals of the model, and the state after reset.
-/

namespace Sys2Proof.Machine

/-! ## Outcomes other than a next state -/

/-- Where the model stops: nowhere. The spec gives every step a next state, so no meaning raises a fault of the model;
the machine's own faults (16 R390) are next states. -/
inductive Fault where
  deriving DecidableEq, Repr

/-- What the model refuses. -/
inductive Refusal where
  /-- Raised by Dispatch for an instruction without a meaning yet. Safe: nothing is claimed of it. -/
  | notModelled (mnemonic : String)
  deriving DecidableEq, Repr

/-! ## Registers of a core (10 Table 10.4) -/

/-- A capability with its tag (01 R29). -/
structure Cap where
  (bits : BitVec 128) (tag : Bool)
  deriving DecidableEq, Repr

/-- Four FP32 tangent shadows of a scalar register (15 R374). -/
abbrev STan := Vector (BitVec 32) 4
/-- Four tangent shadows of a vector register (15 R374). -/
abbrev VTan4 := Vector Row 4

/-- Matrix descriptor (14 Table 14.1). -/
structure MDesc where
  (w0 w1 : Word) (cap : Cap)
  deriving DecidableEq, Repr

/-- Copy descriptor (13 Table 13.5). -/
structure CDesc where
  (w : Vector Word 4) (src dst : Cap)
  deriving DecidableEq, Repr

/-- The numbered register files. -/
structure Regs where
  (s : Vector Word 32)
  (sd : Vector STan 32)
  (sp : BitVec 8)
  (c : Vector Cap 16)
  (md : Vector MDesc 16)
  (cd : Vector CDesc 16)
  (v : Vector Row 32)
  (vd : Vector VTan4 32)
  (vl : Vector Row 2)
  (vld : Vector VTan4 2)
  (vp : Vector (BitVec 128) 8)
  deriving DecidableEq, Repr

/-- System registers of 11 Table 11.4 (COREID, DIEID and the loop registers are read from elsewhere). -/
structure Sys where
  (status cause epc slotres eva einfo : Word)
  (taskid ldie asid : Word)
  (fpctl chkctl dualctl xlane scl stol svar scnt abft evctl lease rngkey rngctr prebound wdog : Word)
  (ptroot rtbase rtcnt etbase etcnt ptbase spbase spcnt albase : Word)
  deriving DecidableEq, Repr

/-! ## Issue (10 R241 to R248; 16 R397) -/

/-- What a landing-queue entry or a load writes. `en` names lanes; `latch` the slot's own latch. -/
inductive Res where
  | s (r : SReg) (x : Word) (t : STan)
  | p (r : BitVec 3) (b : Bool)
  | c (r : CReg) (x : Cap)
  | md (d : BitVec 4) (w : BitVec 1) (x : Word)
  | mdc (d : BitVec 4) (x : Cap)
  | cd (d : BitVec 4) (w : BitVec 2) (x : Word)
  | cdc (d : BitVec 4) (dst : Bool) (x : Cap)
  | v (d : Option (BitVec 5)) (latch : Option (BitVec 1)) (en : BitVec 128) (x : Row) (t : VTan4)
  | vtan (d : BitVec 5) (k : Nat) (latch : BitVec 1) (en : BitVec 128) (x : Row)
  | vtz (d : BitVec 5) (latch : BitVec 1) (en : BitVec 128)
  | vp (d : BitVec 3) (en b : BitVec 128)
  | scl (en : BitVec 4) (codes : BitVec 32)
  deriving DecidableEq, Repr

/-- A landing-queue entry: issue cycles left and what lands (10 R243). -/
structure Land where
  (left : Nat) (res : Res)
  deriving DecidableEq, Repr

/-- Destination of an L load. -/
inductive LdDst where
  | s (r : SReg) (w : Nat) (sx : Bool)
  | v (r : BitVec 5)
  | c (r : CReg)
  | push (q : BitVec 4)
  deriving DecidableEq, Repr

/-- How the bytes of a converting load decode (13 R322): the record engaged at issue with its addresses (01 R28), the
element the first byte stands for, the physical page of its granule in the copy that was committed at issue (03 R87) and
whether that is the shadow, the physical runs of the tangent planes it moves, the rounding taken at issue. -/
structure LdCvt where
  (handle rva rpa elem page : Nat) (sh : Bool) (planes : List (List (Nat × Nat))) (rm : RMode) (sat ftz : Bool) (rand : BitVec 1024)
  deriving DecidableEq, Repr

/-- A pending load (10 R243): physical byte runs (address, length) still to read in ascending virtual order, the
bytes read, the virtual address for a late fault, how many write-queue entries are older (07 R164), and the cycle of its issue
and whether it has missed (18 Table 18.2). -/
structure PLoad where
  (dst : LdDst) (segs : List (Nat × Nat)) (got : List Byte) (va : Nat) (cvt : Option LdCvt) (older : Nat) (since : Nat := 0) (miss : Bool := false)
  deriving DecidableEq, Repr

/-- A cause with its registers (16 R390 to R393). -/
structure FaultRec where
  (cls det eva : Nat) (einfo : Word)
  deriving DecidableEq, Repr

/-- A stream pop taken at issue: its row, or the class 8 reason its slot raises (13 R340). -/
structure Popped where
  (q : BitVec 4) (err : Option (BitVec 4)) (row : Row)
  deriving DecidableEq, Repr

/-- An RBQ word with its push mark (12 R313, 11 R287). -/
structure RWord where
  (w : BitVec 1024) (pushed : Bool)
  deriving DecidableEq, Repr

/-- What a slot of a bundle in flight does: its instruction, or the fault its encoding raises. -/
inductive SlotDo where
  | run (i : Instr)
  | bad (f : FaultRec)
  deriving DecidableEq, Repr

/-- The bundle in flight: its unit, the slots still to commit with their numbers, and the issue snapshot of
16 R397 (registers, system registers, popped rows, the RBQ word). `older` counts the landing-queue entries that were there
at its issue (10 R245), `at_` is the cycle of its issue, `since` the one in which its slot began to wait, and `back` marks a bundle
that has been re-entered and not gone on yet. -/
structure Inflight where
  (unit next : Nat)
  (todo : List (Nat × SlotDo))
  (slot : Nat)
  (dual : Bool)
  (stall rep : Nat)
  (se : BitVec 4)
  (regs : Regs) (sys : Sys)
  (pops : List Popped)
  (rbq : Option RWord)
  (btgt : Option Nat)
  (since : Option Nat)
  (older : Nat)
  (at_ : Nat := 0) (back : Bool := false)
  deriving DecidableEq, Repr

/-- A loop counter (08 Table 8.8). `start` gives the index of pass 0, `tlevel` marks a T level, whose extent and START are `n0`
and `start0` (08 R187), `lim` bounds the iterations that may start while the loop drains (11 R268, 16 R409); `pre` says it
drains for a pre-emption. -/
structure Loop where
  (act : Bool) (index start step : Word) (pass n ns bstart blen : Nat) (ireg : SReg) (sev : BitVec 4)
  (lim : Option Nat) (tlevel pre : Bool) (n0 : Nat := 0) (start0 : Word := 0)
  deriving DecidableEq, Repr

/-- What RETT restores (16 R398, R399): also the repetitions left of a bundle that is issued afresh, a TASKEND whose bundle is
split, and whether PC stands before a pass. -/
structure Aside where
  (land : List Land) (loads : List PLoad) (arrived : List Res) (loops : Vector Loop 4) (fl : Option Inflight)
  (rep : Option Nat) (completing : Option (List (BitVec 16))) (atPass : Bool := false)
  deriving DecidableEq, Repr

/-- A pending boundary fault (16 R394); `held` marks one that was pending when the handler was entered. -/
structure PendFault where
  (f : FaultRec) (held : Bool)
  deriving DecidableEq, Repr

/-! ## Flags, streams, blocks, frames, matrix engine -/

/-- Completion flag (13 Table 13.4). STATE 0 idle, 1 busy, 2 done, 3 error; HOLD 0 none, 1 copy, 2
load-block, 3 collective. `mwts` is the MWTS its completion carries (07 R168). -/
structure FlagSt where
  (state hold : BitVec 2) (eng : BitVec 3) (ev : Option (BitVec 16)) (cause : BitVec 9) (addr : BitVec 57) (mwts : Nat)
  deriving DecidableEq, Repr

/-- Stream binding (13 R340). -/
inductive Bind where
  | unbound | fill | drain
  deriving DecidableEq, Repr

/-- A stream: binding, queued rows, rows still to come or to accept, a failed fill, a closed drain. -/
structure Stream where
  (bind : Bind) (rows : List Row) (left : Nat) (failed closed : Bool)
  deriving DecidableEq, Repr

/-- ABUF frame entry (04 Table 4.4), with the cause of a failed fill. -/
structure Frame where
  (v p ref f e : Bool) (vblk : BitVec 43) (cause : BitVec 9)
  deriving DecidableEq, Repr

/-- A line of a load-block still to arrive: its virtual line, and the physical line it is pinned for with the way
allocated to it, where it translated at issue (04 R96). -/
structure BlkLine where
  (vline : Nat) (home : Option (Nat × Nat))
  deriving DecidableEq, Repr
/-- A load-block (04 R96 to R100): the physical lines it holds, the lines whose access is still to come, LDBLK's mode, a pending
release; `unit` marks a released one, `older` counts the write-queue entries older than its LDBLK (07 R164). -/
structure Block where
  (flag : Flag) (filled : List Nat) (left : List BlkLine) (priv released unit : Bool) (older : Nat)
  deriving DecidableEq, Repr

/-- An L1 line (04 R94; 07 R163). -/
structure L1Line where
  (line : Nat) (way : Nat) (data : Line) (tags : BitVec 8) (owned dirty : Bool) (wts rts lend : Nat)
  deriving DecidableEq, Repr

/-- A write-queue entry (04 R101): `group` joins entries that drain together (13 R322); `va` is the virtual address
its store names, for an error response that comes late (log 32). -/
structure WEntry where
  (line : Nat) (data : Line) (mask : BitVec 128) (tags : BitVec 8) (group va : Nat)
  deriving DecidableEq, Repr

/-- A cached leaf or 64 KiB run (06 Table 6.5): page number in units of 2^bits. -/
structure TlbEnt where
  (asid page bits : Nat) (pte : BitVec 64)
  deriving DecidableEq, Repr

/-- What an access needs of its leaf. -/
structure Need where
  (write fetch rec_ : Bool)
  deriving DecidableEq, Repr

/-- A miss queued at a die walker (06 R151), with the root its access is translated from. -/
structure WalkReq where
  (core : CoreId) (asid va : Nat) (ptroot : Word) (priv : Bool) (need : Need)
  deriving DecidableEq, Repr

/-- A failed walk waiting for the access that asked (06 R154). -/
structure WalkAns where
  (req : WalkReq) (detail lvl : Nat)
  deriving DecidableEq, Repr

/-- Kinds of matrix operations with what they read at issue (14 R349 to R368). -/
inductive MKind where
  | mul (zero chain : Bool)
  | mrs (zf : Bool) (stol : Word) (t0 : Nat)
  | draws (sidecar : Bool)
  | norm
  | fro | scale | zero
  deriving DecidableEq, Repr

/-- A queued matrix operation; `recA` and `recB` are the addresses of the records that MALIAS engaged at issue for its
sidecar norms (01 R28). -/
structure MOp where
  (kind : MKind) (tile : Nat) (a b : MDesc) (ta tb ra rb dual : Bool) (k : Nat)
  (sigA sigB : Int) (ftz : Bool) (recA recB : Nat := 0)
  deriving DecidableEq, Repr

/-- The running operation: accumulators of the tile it writes back (16,384 FP32, row by row). -/
structure MRun where
  (op : MOp) (acc : List (BitVec 32)) (t : Nat) (stopped : Bool)
  (word : BitVec 1024) (fault : Option FaultRec) (drawn : Nat)
  deriving DecidableEq, Repr

/-- Alias table entry (14 R363). -/
structure AliasEnt where
  (prob other : Nat) (wgt : BitVec 32)
  deriving DecidableEq, Repr

/-- Matrix engine and alias unit of a core. -/
structure Mat where
  (queue : List MOp) (run : Option MRun)
  (resident : Option (Nat × List (BitVec 32)))
  (busy : BitVec 32)
  (norms : Option (List (BitVec 32) × List (BitVec 32)))
  (table : Option (Nat × List AliasEnt))
  deriving DecidableEq, Repr

/-- An atomic between its issue and its response (07 R178 to R180). -/
inductive AtomPhase where
  | sent | answered (old : Word) (ts : Nat) | lost | failed (f : FaultRec)
  deriving DecidableEq, Repr

/-- The operation an atomic applies (13 Table 13.3; 11 R280). -/
inductive AmoOp where
  | add | min | max | minn | maxn | and | or | xor | swp | cas | fadd | badd | signal | evinit
  deriving DecidableEq, Repr

/-- An atomic on its way: operation and width, physical and virtual address, the operands v and c, FPCTL.FTZ of
the issuer, its transaction number; for a compare-and-swap through a record, the record's handle and address and the granule
that a swap readies. -/
structure Atomic where
  (op : AmoOp) (wide : Bool) (pa va : Nat) (v c : Word) (ftz : Bool) (tx : Nat) (phase : AtomPhase)
  (gran : Option (Nat × Nat × Nat) := none)
  deriving DecidableEq, Repr

/-! ## Contexts, kernels and tasks -/

/-- Context descriptor values a task takes at switch-in (16 Table 16.5), with the descriptor's physical address. -/
structure Ctx where
  (asid : BitVec 16) (priv : Bool)
  (ptroot rtbase rtcnt etbase etcnt ptbase spbase spcnt albase lease rngkey prebound : Word)
  (wdlim : BitVec 32) (hmask hclen : BitVec 24) (hcode : BitVec 57) (hdcap : Cap)
  (tfbase : BitVec 57) (sapool : BitVec 52) (sacount : BitVec 16) (ctxpa : Nat)
  deriving DecidableEq, Repr

/-- A statistics-buffer entry (03 R77): its record by context and handle, the task that stored last, exact counts, the
record's SATN as last read (BASE), the local OVER flag and the record's OVER bit as last read, a flush for eviction, and a
reply on its way. -/
structure StatEnt where
  (ctx : Ctx) (uid handle : Nat) (bins : List Nat) (samp sat und nan : Nat) (maxe : Option Int) (base : Nat)
  (above recOver evict clean : Bool) (reply : Option (Nat × Bool))
  deriving DecidableEq, Repr

/-- One loop-table level (08 Table 8.2). -/
structure Level where
  (extent start step : BitVec 32) (kind : BitVec 3) (list : Bool) (listn : BitVec 3) (ireg : SReg) (nstg : BitVec 2)
  deriving DecidableEq, Repr

/-- What the launch path keeps of an image (08 Table 8.1). -/
structure Img where
  (va : Nat) (kid : Word) (dictsize codelen entry bodylen dictoff codeoff : Nat)
  (levels : List Level) (args : List Word)
  deriving DecidableEq, Repr

/-- A launch packet (09 Table 9.4) as 128 bytes with the tags of its granules. -/
structure Packet where
  (bytes : BitVec 1024) (tags : BitVec 8)
  deriving DecidableEq, Repr

/-- A task (08 R186): the grid's number, its index, logical die, the indices of its spatial levels. -/
structure Task where
  (uid gid idx ldie : Nat) (digits : List Nat) (drawn : Option Nat) (ctx : Ctx) (img : Img) (pkt : Packet) (tag : BitVec 16)
  (depth : Nat)
  deriving DecidableEq, Repr

/-- The part of a core's state that belongs to the resident task and is saved with it (16 Table 16.6). `atPass`
says a loop pass has begun and issued nothing yet. `mwts` is the largest MWTS of the task's operations, `mwcp`, `mwcl` and
`mwgv` those of its copies, collectives and GV operations (07 R168, R170); `collFault` says a collective of a faulted group
has ended since the task's last PFENCE that named CL (07 R171). -/
structure TState where
  (regs : Regs) (sys : Sys) (pc : Nat)
  (land : List Land) (loads : List PLoad)
  (fl : Option Inflight) (aside : Option Aside)
  (loops : Vector Loop 4)
  (flags : Vector FlagSt 16) (streams : Vector Stream 16)
  (rbq : List RWord) (frames : Vector Frame 256)
  (pend : List PendFault)
  (pbcnt wdfrac : Nat)
  (atPass : Bool) (rep : Option Nat)
  (completing : Option (List (BitVec 16)))
  (mwts mwcp mwcl mwgv : Nat) (fatal : Option FaultRec) (collFault : Bool)
  deriving DecidableEq, Repr

/-- A WAITEV at its spin limit: parked, released since, or refused for want of a spill block, until its task is saved
(09 R214). -/
inductive Parking where
  | no | parked | released | faulted
  deriving DecidableEq, Repr

/-- Where a core stood when a fault came (16 R394, R397): the unit, snapshot, remaining repeats, slot and stage enables. -/
structure TrapPoint where
  (unit : Nat) (snap : Bool) (rem slot : Nat) (se : BitVec 4) (btgt : Option Nat) (fl : Option Inflight)
  deriving DecidableEq, Repr

/-- A line of the code cache (04 R120): its number in physical memory and its bytes. -/
structure CodeLine where
  (line : Nat) (data : Line)
  deriving DecidableEq, Repr

/-- Accesses a TLBINV of a core waits for at this core (06 R158): those translated with an entry it removed, as how many
of the oldest loads and of the oldest write-queue entries, and the number of the atomic on its way. -/
structure InvWait where
  (issuer : CoreId) (loads stores : Nat) (atom : Option Nat)
  deriving DecidableEq, Repr

/-- A core. `loading` marks one that a task has been placed on: a new task, or a saved one by its number (08 Table 8.5).
`trap` is a trap entry whose frame waits for room in the write queue (04 R101; 16 R399). -/
structure Core where
  (t : TState) (task : Option Task) (frozen : Bool)
  (abuf wbuf cbuf : Sparse Row) (mat : Mat)
  (l1 : List L1Line) (plru : Sparse (BitVec 15)) (blocks : List Block) (wq : List WEntry) (wgrp : Nat)
  (pts : Nat) (txn : Nat) (atom : Option Atomic)
  (tlb : List TlbEnt) (walkAns : Option WalkAns)
  (stats : List StatEnt)
  (lastAsid : Option (BitVec 16)) (dictKid : Option Word) (dict : List (BitVec 384))
  (preempt : Bool) (plnHalt : Bool) (draining : Option (Nat × Nat)) (tlbinv : Option Nat) (parking : Parking)
  (loading : Option (Option Nat))
  (trap : Option (FaultRec × TrapPoint)) (icache : List CodeLine) (invw : List InvWait)
  deriving DecidableEq, Repr

/-! ## Memory system of the device -/

/-- Timestamps and owner of a line held in a die cache (07 R163, 05 R124). -/
structure LineSt where
  (wts rts : Nat) (owner : Option CoreId)
  deriving DecidableEq, Repr

/-- A set of a die cache (05 R124): the lines its ways hold, those of them written since they came, its tree of victims. -/
structure DSet where
  (ways : List (Nat × Nat)) (dirty : List Nat) (tree : BitVec 15)
  deriving DecidableEq, Repr

/-- An atomic that a home has applied (07 R179): the core, its transaction number, the result and its timestamp. -/
structure Applied where
  (home : DieId) (core : CoreId) (tx : Nat) (old : Word) (ts : Nat)
  deriving DecidableEq, Repr

/-- A walk-cache entry: a non-leaf entry at a level (06 Table 6.5). -/
structure WcEnt where
  (asid level idx : Nat) (pa : Nat)
  deriving DecidableEq, Repr

/-- What a TLBINV removes (06 R157). -/
inductive InvForm where
  | rng (base len : Nat) (asid : BitVec 16)
  | asid (a : BitVec 16)
  | all
  deriving DecidableEq, Repr

/-- A TLBINV in progress (06 R158): agents the request has still to reach, agents that have still to
acknowledge, an unreachable die's class 19 detail. -/
structure InvOp where
  (core : CoreId) (form : InvForm) (toReach waiting : List Agent) (err : Option Nat)
  deriving DecidableEq, Repr

/-- What an engine operation does (13 R336 to R343; 04 R111). -/
inductive CopyKind where
  | cpy | gather | scatter
  | fill (q : BitVec 4) | drain (q : BitVec 4)
  | frame (f : BitVec 8)
  deriving DecidableEq, Repr

/-- An operation an engine has accepted, with all it read at issue and the cycle of its issue. `pos` counts the rows of a
copy, or the bytes of a stream, moved so far, `mw` is their MWTS (07 R168), and `seen` and `put` are the physical runs a copy
has read and written (13 R337). -/
structure CopyOp where
  (kind : CopyKind) (core : CoreId) (uid : Nat) (desc xdesc : CDesc) (cv : Option CCvt) (flag : Option Flag)
  (ev : Option (BitVec 16)) (ctx : Ctx) (priv ftz : Bool) (bjump : Nat) (pos : Nat) (va : Nat) (paused : Bool)
  (since : Nat := 0) (mw : Nat := 0) (seen put : List (Nat × Nat) := [])
  deriving DecidableEq, Repr

/-- A collective a die's engine has accepted (13 R345; 17 R426), with its own contribution once its inputs are read, and the
cycle of its issue. -/
structure CollOp where
  (core : CoreId) (uid : Nat) (desc : CDesc) (flag : Option Flag) (ev : Option (BitVec 16)) (ctx : Ctx) (priv ftz : Bool)
  (bjump : Nat) (seq : Nat) (mine : Option Party) (fault : Option FaultRec) (since : Nat := 0)
  deriving DecidableEq, Repr

/-- A page-pull entry (05 Table 5.10). -/
structure Pull where
  (state : BitVec 3) (size : BitVec 1) (newPa oldPa ptePa : Nat) (cause : BitVec 9) (pulled : Nat) (bitmap : List Nat)
  deriving DecidableEq, Repr

/-- Power state of a pseudo-channel (05 R133). -/
inductive PcPower where
  | active | powerDown | selfRefresh
  deriving DecidableEq, Repr

/-- A request waiting at a pseudo-channel: its place within it, the cycle it came in, its column commands left (05 R132). -/
structure HbmReq where
  (place : Nat) (write : Bool) (since left : Nat)
  deriving DecidableEq, Repr

/-- A pseudo-channel (05 R133, R134): the cycle its idle count runs from, the cycle its exit ends, the request that began an
exit whose first command is still to come, the open row of each bank, the waiting requests, each refreshed bank with the
cycle until which its commands wait, and the banks whose refresh is due. -/
structure PChan where
  (power : PcPower) (idleFrom exitAt : Nat) (exitFrom : Option Nat) (rows : List (Nat × Nat)) (reqs : List HbmReq) (refs : List (Nat × Nat))
  (due : List Nat := [])
  deriving DecidableEq, Repr

/-- A command bus of a channel (05 R135): the pseudo-channel that holds the last grant and the commands left of it. -/
structure BusSt where
  (holder : Bool) (left : Nat)
  deriving DecidableEq, Repr
/-- The two command buses of a channel. -/
structure HbmBusSt where
  (row col : BusSt)
  deriving DecidableEq, Repr

/-- A monitor (18 Table 18.1). -/
structure Monitor where
  (cfg : Word) (min max : BitVec 32) (cnt : Word) (bins : List (BitVec 32))
  deriving DecidableEq, Repr

/-! ## Scheduler -/

/-- A resident queue of a queue manager (09 R202); `stopped` says its ring could not be read (09 R209). -/
structure QSlot where
  (q : Nat) (tail head : BitVec 32) (err stopped : Bool) (since : Nat)
  deriving DecidableEq, Repr

/-- An entry of a ready queue (09 R216): a grid whose next task is new, or a saved task. -/
structure Ready where
  (gid : Nat) (die : DieId) (uid : Option Nat) (level : Nat) (since : Nat)
  deriving DecidableEq, Repr

/-- A grid (09 R211): `started` counts the tasks placed of each die's part; `prev` is the grid an ORD packet waits for, `entered` says its entries stand in the ready
queues, `qdie` is the die whose slice accepted it, `lag` names its tasks that ended by a grid-fatal fault, whose copies and
collectives may still run (07 R175). -/
structure Grid where
  (gid : Nat) (tag : BitVec 16) (queue : Nat) (qdie : DieId) (pkt : Packet) (ctx : Ctx) (img : Img) (level : Nat) (depth : Nat)
  (parent : Option Nat) (total : Nat) (started : List Nat) (done : Nat) (cancelled : Bool)
  (children launches : Nat) (cause : Option (BitVec 9 × Word × Word)) (waiting : Option (BitVec 16)) (dieOf : Nat)
  (draws : List (Nat × Nat)) (mwts : Nat) (prev : Option Nat) (entered : Bool) (lag : List Nat := [])
  deriving DecidableEq, Repr

/-- A LAUNCH accepted and not yet a grid (08 R199): its queue, its packet number, the launching grid and the
launcher's timestamp. -/
structure Launched where
  (q n parent ts : Nat)
  deriving DecidableEq, Repr

/-- A switched-out task (16 R405, R406). -/
structure Saved where
  (uid : Nat) (task : Task) (t : TState) (slot : Nat) (pts : Nat) (die : DieId)
  (abuf wbuf cbuf : Option (Sparse Row)) (norms : Option (List (BitVec 32) × List (BitVec 32)))
  (table : Option (Nat × List AliasEnt))
  deriving DecidableEq, Repr

/-- A tick of a context between its start and its completion (03 R80): kind 0 GOVTICK, 1 STEPCOMMIT, 2 STEPABORT;
the dies that have governed their records and rewritten STATE; the members of the set it closes and what became of it; a fault for the next
boundary, a scale floor for the STEPCOMMIT, and MWTS of its writes (07 R168). -/
structure Tick where
  (ctx : Ctx) (core : CoreId) (uid : Nat) (kind : BitVec 2) (ev : Option (BitVec 16)) (waits : Bool)
  (governed : List DieId) (rewritten : List DieId) (members : List Nat) (committed : Option Bool)
  (fault floor : Option FaultRec) (done : Bool) (mw : Nat)
  deriving DecidableEq, Repr

/-- A GV update on its way to the home (11 R284, R285); a RESCALE names the record it engaged at issue by its virtual
address too (01 R28). -/
inductive GvUpd where
  | rescale (handle rva granule : Nat)
  | stepbegin (handles : List Nat)
  deriving DecidableEq, Repr
/-- A core's GV update, its outcome and MWTS of its writes (07 R168). -/
structure GvReq where
  (core : CoreId) (upd : GvUpd) (done : Bool) (fault : Option FaultRec) (mw : Nat)
  deriving DecidableEq, Repr

/-- A context's open step set and finite flag (03 R86, R88). -/
structure StepSet where
  (asid : BitVec 16) (members : List Nat) (finite : Bool)
  deriving DecidableEq, Repr

/-- What leaves the device; `dest` is the member word that names another device's die (17 Table 17.4). -/
inductive Out where
  | data (bytes : List Byte)
  | unsupported
  | msi (d : DieId) (bit : Nat)
  | spdm (port d : DieId) (code : Byte) (body : List Byte)
  | frame (d : DieId) (dest : Nat) (f : Sys2Proof.Frame)
  | notify (d : DieId) (dest group : Nat) (cause : BitVec 9)
  | backInvalidate (line : Nat)
  deriving DecidableEq, Repr

/-- A collective group's state on a die (17 R423 to R430): the EPOCH it stands for, the collectives the die's engine has
accepted in it, the frames that have come in. -/
structure Group where
  (group : Nat) (epoch : Word) (count : Nat) (frames : List Sys2Proof.Frame)
  deriving DecidableEq, Repr

/-- An activation update accepted and not yet applied (09 R222). -/
structure ActUpd where
  (core : CoreId) (uid : Nat) (ctx : Ctx) (list : BitVec 3) (tile : Word) (set : Bool) (nb : Nb)
  deriving DecidableEq, Repr

/-- A die. `heardNow` are the samples taken in the cycle `heardAt`, for a CLR of that cycle (18 R436); `cycles` counts the cycles of
its core clock and `phase` is their part of a cycle, in units of 1/21 (18 R441). -/
structure Die where
  -- memory island (05)
  (isl : IslState) (dom : DomState) (hdie : BitVec 2) (evts : Vector Nat 64)
  (pdidle sridle : BitVec 20) (xpd xsr : BitVec 8)
  -- translation (06)
  (kroot : Word) (walkQ : List WalkReq) (walkCache : List WcEnt)
  -- scheduler and traps (09, 16)
  (qtbase plbase dbghalt : Word) (rebal : Word)
  (qslots : List (Option QSlot)) (pendq : List Nat) (ready : List Ready) (faultList : List Nat) (flwait : List Nat) (preReq : Option CoreId)
  (slotsUsed : List (Nat × Nat)) (noSlot : List (Nat × Nat))
  (ptr : List ActUpd)
  -- governor
  (coll : List CollOp) (groups : List Group)
  -- pulls
  (pulls : Vector Pull 64) (turn : Nat)
  -- host, links, boot (17)
  (intstat intmask intcfg bootstat sysid gtbase gtcnt lnkstat : Word) (msiSent : Word)
  (spdm : List Byte) (fwDigest : BitVec 512) (cxlMem : Bool)
  -- monitors, integrity, power (18)
  (ctlkey : Word) (scrub : Word) (scrubAt : Nat) (pstateReq pstateCur : BitVec 2) (plim : BitVec 16) (ramping : Bool)
  (ue ce : Word) (logHead : Nat) (log : List (BitVec 128)) (mons : Vector Monitor 64) (throttle thermal : Bool)
  (skipped : Nat) (heardAt : Nat) (heardNow : List (BitVec 8 × BitVec 16 × Nat)) (phase cycles : Nat)
  deriving DecidableEq, Repr

/-- An action placed to happen: the step and the units it acts on (log 3). -/
structure Act where
  (core : CoreId) (die : DieId) (unit item : Nat) (instr : Instr)
  deriving DecidableEq, Repr

/-- The machine. `edgeRst` marks the islands reset since an edge failed (05 R128); `hostHeld` marks lines the host may hold: 1 held, 2 with a back-invalidate on its way (17 R418); `crc` marks the 4 KiB units whose next move fails its check (18 R438; log 50): those of memory by their number, those of buffers and streams above 2^40. `agenda`, `deferred` (actions that wait to be tried again), `now`, `fresh`, `cur`, `dsel`, `unit`, `item`, `turn` and `uids` are the model's own
(log 3, 4, 6): actions placed, the clock, the number of the next free value, and the units the running
action acts on. `dsets` are the sets of the die caches (05 R124), `hostErr` the lines whose reads the host answers with an
error (13 R318), `rtSeen` the record-table entries last engaged by their physical address (01 R28), `hts` the largest
timestamp a home has given a write since it was last cleared (07 R168: MWTS), `qlast` the last grid of each queue with the
timestamp of its completion (09 R211), `dones` the cores whose tasks have reached their completion and not signalled yet, in
order, and `doneTs` the timestamp of the last of their signals (09 R218). -/
structure State where
  (agenda deferred : List Act) (now fresh : Nat) (cur : CoreId) (dsel : DieId) (unit item turn uids : Nat)
  (cores : Vector Core 144) (dies : Vector Die 4)
  (mem : List Host.Cell) (tags : Sparse Bool) (lines : Sparse (Option LineSt)) (poison crc : Sparse Bool)
  (edges : List Edge) (edgeRst : List (Edge × DieId)) (engines : Vector (List CopyOp) 24) (engTlb : Vector (List TlbEnt) 24)
  (pchans : Sparse PChan) (buses : Sparse HbmBusSt)
  (invs : List InvOp) (homeTab : List Applied)
  (grids : List Grid) (saved : List Saved) (ticks : List Tick) (gv : List GvReq) (steps : List StepSet)
  (outbox : List Out) (pln : Option Nat) (launched : List Launched) (hostHeld : Sparse Nat)
  (dsets : Sparse DSet) (hostErr : Sparse Bool) (rtSeen : Sparse Word) (hts : Nat) (qlast : Sparse (Option (Nat × Nat)))
  (dones : List CoreId) (doneTs : Nat)
  deriving DecidableEq, Repr

/-! ## Reset -/

def Cap.null : Cap := ⟨0, false⟩
def STan.zero : STan := Vector.replicate 4 0
def VTan4.zero : VTan4 := Vector.replicate 4 0

/-- Register files at task start (08 Table 8.6); the same after reset (log 1). -/
def Regs.reset : Regs where
  s := Vector.replicate 32 0
  sd := Vector.replicate 32 STan.zero
  sp := 1
  c := Vector.replicate 16 Cap.null
  md := Vector.replicate 16 ⟨0, 0, Cap.null⟩
  cd := Vector.replicate 16 ⟨Vector.replicate 4 0, Cap.null, Cap.null⟩
  v := Vector.replicate 32 0
  vd := Vector.replicate 32 VTan4.zero
  vl := Vector.replicate 2 0
  vld := Vector.replicate 2 VTan4.zero
  vp := (Vector.replicate 8 0).set 0 (BitVec.allOnes 128)

/-- Reset values of the system registers' maps (02 Table 2.4, 07 Table 7.2, 09 Table 9.6, 12 Table 12.5; 0
for the others). -/
def Sys.reset : Sys where
  status := 0
  cause := 0
  epc := 0
  slotres := 0
  eva := 0
  einfo := 0
  taskid := 0
  ldie := 0
  asid := 0
  fpctl := 0x20
  chkctl := 0
  dualctl := 0
  xlane := 0
  scl := 0x7F7F7F7F
  stol := 0
  svar := 0
  scnt := 0
  abft := 0
  evctl := 0x10
  lease := 8
  rngkey := 0
  rngctr := 0
  prebound := 0
  wdog := 0
  ptroot := 0
  rtbase := 0
  rtcnt := 0
  etbase := 0
  etcnt := 0
  ptbase := 0
  spbase := 0
  spcnt := 0
  albase := 0

def Loop.unbound : Loop :=
  { act := false, index := 0, start := 0, step := 0, pass := 0, n := 0, ns := 1, bstart := 0, blen := 0, ireg := 0, sev := 0,
    lim := none, tlevel := false, pre := false }
def FlagSt.idle : FlagSt := ⟨0, 0, 7, none, 0, 0, 0⟩
def Stream.unbound : Stream := ⟨.unbound, [], 0, false, false⟩
def Frame.invalid : Frame := ⟨false, false, false, false, false, 0, 0⟩

def TState.reset : TState where
  regs := Regs.reset
  sys := Sys.reset
  pc := 0
  land := []
  loads := []
  fl := none
  aside := none
  loops := Vector.replicate 4 Loop.unbound
  flags := Vector.replicate 16 FlagSt.idle
  streams := Vector.replicate 16 Stream.unbound
  rbq := []
  frames := Vector.replicate 256 Frame.invalid
  pend := []
  pbcnt := 0
  wdfrac := 0
  atPass := false
  rep := none
  completing := none
  mwts := 0
  mwcp := 0
  mwcl := 0
  mwgv := 0
  fatal := none
  collFault := false

def Mat.reset : Mat := ⟨[], none, none, 0, none, none⟩

def Core.reset : Core where
  t := TState.reset
  task := none
  frozen := false
  abuf := []
  wbuf := []
  cbuf := []
  mat := Mat.reset
  l1 := []
  plru := []
  blocks := []
  wq := []
  wgrp := 0
  pts := 0
  txn := 0
  atom := none
  tlb := []
  walkAns := none
  stats := []
  lastAsid := none
  dictKid := none
  dict := []
  preempt := false
  plnHalt := false
  draining := none
  tlbinv := none
  parking := .no
  loading := none
  trap := none
  icache := []
  invw := []

def PChan.reset : PChan := ⟨.active, 0, 0, none, [], [], [], []⟩
def HbmBusSt.reset : HbmBusSt := ⟨⟨true, 0⟩, ⟨true, 0⟩⟩
def Pull.idle : Pull := ⟨0, 0, 0, 0, 0, 0, 0, []⟩
def Monitor.reset : Monitor := ⟨0, 0xFFFF_FFFF, 0, 0, List.replicate 32 0⟩

/-- A die after reset: the reset columns of the spec's maps; core domain in reset, boot not done (05
R129, 17 R431). -/
def Die.reset : Die where
  isl := .active
  dom := .inReset
  hdie := 0
  evts := Vector.replicate 64 0
  pdidle := 0x100
  sridle := 0x1_0000
  xpd := 0x0C
  xsr := 0xE0
  kroot := 0
  walkQ := []
  walkCache := []
  qtbase := 0
  plbase := 0
  dbghalt := 0
  rebal := 0x40_0000_0008
  qslots := []
  pendq := []
  ready := []
  faultList := []
  flwait := []
  preReq := none
  slotsUsed := []
  noSlot := []
  ptr := []
  coll := []
  groups := []
  pulls := Vector.replicate 64 Pull.idle
  turn := 0
  intstat := 0
  intmask := 0
  intcfg := 0
  bootstat := 0
  sysid := 0
  gtbase := 0
  gtcnt := 0
  lnkstat := 0
  msiSent := 0
  spdm := []
  fwDigest := 0
  cxlMem := false
  ctlkey := 0
  scrub := 0x0000_0100_0000_0000
  scrubAt := 0
  pstateReq := 0
  pstateCur := 0
  plim := 2370
  ramping := false
  ue := 0
  ce := 0
  logHead := 0
  log := List.replicate 16 0
  mons := Vector.replicate 64 Monitor.reset
  throttle := false
  thermal := false
  skipped := 0
  heardAt := 0
  heardNow := []
  phase := 0
  cycles := 0

/-- The machine right after reset. -/
def State.reset : State where
  agenda := []
  deferred := []
  now := 0
  fresh := 0
  cur := 0
  dsel := 0
  unit := 0
  item := 0
  turn := 0
  uids := 0
  cores := Vector.replicate 144 Core.reset
  dies := Vector.replicate 4 Die.reset
  mem := []
  tags := []
  lines := []
  poison := []
  crc := []
  edges := []
  edgeRst := []
  engines := Vector.replicate 24 []
  engTlb := Vector.replicate 24 []
  pchans := []
  buses := []
  invs := []
  homeTab := []
  grids := []
  saved := []
  ticks := []
  gv := []
  steps := []
  outbox := []
  pln := none
  launched := []
  hostHeld := []
  dsets := []
  hostErr := []
  rtSeen := []
  hts := 0
  qlast := []
  dones := []
  doneTs := 0

end Sys2Proof.Machine
end

