-- ==== Sys2Proof/Machine/Ops.lean ====
section
/-!
DEFINITION. The named operations over the state: access to cores and dies, the physical map and memory, homes,
owners and timestamps, the L1, translation, capability checks, landing, and taking and leaving a trap.
-/

namespace Sys2Proof.Machine

/-- The outcome type of every meaning. -/
abbrev Res1 := Host.Outcome State Fault Refusal

/-- Why an operation does not complete: the slot freezes, a fault is raised (with the slot committed or
not), or it ends early with its slot committed. -/
inductive Halt where
  | freeze (s : State)
  | flt (s : State) (committed : Bool) (f : FaultRec)
  | done (s : State)
  deriving DecidableEq, Repr

abbrev Op (α : Type) := Except Halt α

/-- Raises a fault whose slot is not committed. -/
def raise {α : Type} (s : State) (cls det : Nat) (eva : Nat := 0) (einfo : Word := 0) : Op α :=
  .error (.flt s false ⟨cls, det, eva, einfo⟩)
/-- Raises a fault whose slot counts as committed. -/
def raiseDone {α : Type} (s : State) (cls det : Nat) (eva : Nat := 0) (einfo : Word := 0) : Op α :=
  .error (.flt s true ⟨cls, det, eva, einfo⟩)
def freeze {α : Type} (s : State) : Op α := .error (.freeze s)

/-! ## Cores and dies (00 R5) -/

def coreDie (c : CoreId) : DieId := ⟨c.val / 36, by omega⟩
def coreLocal (c : CoreId) : Nat := c.val % 36
/-- Core of a die by its local number. -/
def coreOf (d : DieId) (m : Fin 36) : CoreId := ⟨d.val * 36 + m.val, by omega⟩
def engineDie (e : EngineId) : DieId := ⟨e.val / 6, by omega⟩
def engineOf (d : DieId) (n : Nat) : EngineId := ⟨(d.val * 6 + n % 6) % 24, by omega⟩
def allCores : List CoreId := List.finRange 144
def allDies : List DieId := List.finRange 4
def allEngines : List EngineId := List.finRange 24
def dieCores (d : DieId) : List CoreId := (List.finRange 36).map (coreOf d)

def State.core (s : State) (c : CoreId) : Core := s.cores.get c
def State.setCore (s : State) (c : CoreId) (k : Core) : State := { s with cores := s.cores.set c k }
def State.modCore (s : State) (c : CoreId) (f : Core → Core) : State := s.setCore c (f (s.core c))
/-- The core whose slot runs. -/
def State.k (s : State) : Core := s.core s.cur
def State.modK (s : State) (f : Core → Core) : State := s.modCore s.cur f
def State.modT (s : State) (f : TState → TState) : State := s.modK fun k => { k with t := f k.t }
def State.modRegs (s : State) (f : Regs → Regs) : State := s.modT fun t => { t with regs := f t.regs }
def State.modSys (s : State) (f : Sys → Sys) : State := s.modT fun t => { t with sys := f t.sys }
def State.die (s : State) (d : DieId) : Die := s.dies.get d
def State.modDie (s : State) (d : DieId) (f : Die → Die) : State := { s with dies := s.dies.set d (f (s.die d)) }
def State.engine (s : State) (e : EngineId) : List CopyOp := s.engines.get e
def State.modEngine (s : State) (e : EngineId) (f : List CopyOp → List CopyOp) : State :=
  { s with engines := s.engines.set e (f (s.engine e)) }
/-- Places an action to happen, after those already placed. -/
def State.post (s : State) (a : Act) : State := { s with agenda := s.agenda ++ [a] }
def State.postCore (s : State) (c : CoreId) (i : Instr) (unit : Nat := 0) (item : Nat := 0) : State :=
  s.post ⟨c, coreDie c, unit, item, i⟩
def State.postDie (s : State) (d : DieId) (i : Instr) (unit : Nat := 0) (item : Nat := 0) : State :=
  s.post ⟨s.cur, d, unit, item, i⟩
/-- Puts an action that has to wait aside, to be tried again (log 3). -/
def State.deferDie (s : State) (d : DieId) (i : Instr) (unit : Nat := 0) (item : Nat := 0) : State :=
  { s with deferred := s.deferred ++ [⟨s.cur, d, unit, item, i⟩] }
def State.onCore (s : State) (c : CoreId) : State := { s with cur := c }
def State.emit (s : State) (o : Out) : State := { s with outbox := s.outbox ++ [o] }
/-- A fresh number for a free value (log 6). -/
def State.tickFresh (s : State) : State := { s with fresh := s.fresh + 1 }

/-! ## Bytes -/

def bytesToNat : List Byte → Nat
  | [] => 0
  | b :: t => b.toNat + 256 * bytesToNat t
/-- The low `n` bytes of a number, the lowest first (01 little-endian). -/
def natToBytes : Nat → Nat → List Byte
  | 0, _ => []
  | n + 1, x => BitVec.ofNat 8 x :: natToBytes n (x / 256)
def bitsBytes {w : Nat} (n : Nat) (x : BitVec w) : List Byte := natToBytes n x.toNat

/-! ## Physical map (01 R18, R19) -/

/-- What a resolved physical address names. -/
inductive Tgt where
  | dev (d : DieId)
  | host
  | mmio (d : DieId) (off : Nat)
  | none
  deriving DecidableEq, Repr

/-- Resolves the die-interleaved alias. -/
def resolvePa (a : Nat) : Nat :=
  if 0x100_0000_0000 ≤ a ∧ a < 0x1C0_0000_0000 then
    let off := a - 0x100_0000_0000
    let g := off / 4096
    (g % 4) * 0x40_0000_0000 + (g / 4) * 4096 + off % 4096
  else a

def target (pa : Nat) : Tgt :=
  let pa := resolvePa pa
  if pa < 0x100_0000_0000 then
    if pa % 0x40_0000_0000 < 0x30_0000_0000 then .dev (Fin.ofNat 4 (pa / 0x40_0000_0000)) else .none
  else if pa < 2 ^ 50 then .none
  else if pa < 2 ^ 51 then
    let o := pa - 2 ^ 50
    if o < 4 * 2 ^ 32 then .mmio (Fin.ofNat 4 (o / 2 ^ 32)) (o % 2 ^ 32) else .none
  else if pa < 2 ^ 52 then .host
  else .none

def inDev (pa : Nat) : Bool := match target pa with | .dev _ => true | _ => false

/-! ## Memory as the homes see it -/

/-- The canonical form of memory: addresses strictly rising, no listed byte equal to what an unlisted one reads as. -/
def Memory.wf (m : List Host.Cell) : Bool := Sparse.wf 0 m
/-- One byte; a byte nothing has written reads 0 (log 2). -/
def rdByte (s : State) (pa : Nat) : Byte := Sparse.get 0 s.mem pa
def wrByte (s : State) (pa : Nat) (b : Byte) : State := { s with mem := Sparse.set 0 s.mem pa b }
def rdBytes (s : State) (pa n : Nat) : List Byte := (List.range n).map fun i => rdByte s (pa + i)
def wrBytes (s : State) : Nat → List Byte → State
  | _, [] => s
  | pa, b :: t => wrBytes (wrByte s pa b) (pa + 1) t
def rdTag (s : State) (pa : Nat) : Bool := Sparse.get false s.tags (pa / 16)
def wrTag (s : State) (pa : Nat) (t : Bool) : State :=
  { s with tags := Sparse.set false s.tags (pa / 16) (t && inDev pa) }
/-- Clears the tag of every granule a write of n bytes touches (01 Table 1.8). -/
def clearTags (s : State) (pa n : Nat) : State :=
  if n = 0 then s
  else (List.range ((pa + n - 1) / 16 + 1 - pa / 16)).foldl (fun s i => wrTag s ((pa / 16 + i) * 16) false) s

def lineData (s : State) (line : Nat) : Line := BitVec.ofNat 1024 (bytesToNat (rdBytes s (line * 128) 128))
def lineTags (s : State) (line : Nat) : BitVec 8 :=
  BitVec.ofNat 8 ((List.range 8).foldl (fun n i => n + (if rdTag s (line * 128 + 16 * i) then 2 ^ i else 0)) 0)
def putLine (s : State) (line : Nat) (d : Line) (t : BitVec 8) : State :=
  let s := wrBytes s (line * 128) (bitsBytes 128 d)
  (List.range 8).foldl (fun s i => wrTag s (line * 128 + 16 * i) (t.getLsbD i)) s

/-- Runs of bytes cut at 128-byte lines (07 R181). -/
def cutAt (m : Nat) : Nat → Nat → Nat → List (Nat × Nat)
  | 0, _, _ => []
  | fuel + 1, a, n =>
    if n = 0 then []
    else
      let len := min n (m - a % m)
      (a, len) :: cutAt m fuel (a + len) (n - len)
def cutLines (a n : Nat) : List (Nat × Nat) := cutAt 128 (n / 128 + 2) a n
def cutPages (a n : Nat) : List (Nat × Nat) := cutAt 4096 (n / 4096 + 2) a n

/-! ## Homes, routes, timestamps (05 R123 to R131; 07 R163 to R168) -/

def homeDie (s : State) (req : DieId) (pa : Nat) : DieId :=
  match target pa with
  | .dev d => d
  | .host => Fin.ofNat 4 (s.die req).hdie.toNat
  | .mmio d _ => d
  | .none => req

def edgeOf (a b : DieId) : Option Edge :=
  match min a.val b.val, max a.val b.val with
  | 0, 1 => some .e01 | 0, 2 => some .e02 | 1, 3 => some .e13 | 2, 3 => some .e23
  | _, _ => none
/-- The forwarding die of a diagonal pair (00 R4). -/
def via (a b : DieId) : Option DieId :=
  match min a.val b.val, max a.val b.val with
  | 0, 3 => some 1 | 1, 2 => some 0
  | _, _ => none
def edgeDown (s : State) (a b : DieId) : Bool := match edgeOf a b with | some e => s.edges.contains e | none => false
def islActive (s : State) (d : DieId) : Bool := (s.die d).isl == .active

/-- First failure on the way from a requester to a home, as a class 19 detail (05 R131). For a line of CXL host memory whose
home is the requester's own inactive die it is 3: DESIGN CHOICE (log 60). -/
def routeErr (s : State) (req home : DieId) (host : Bool) : Option Nat :=
  let atHome := if host then 3 else 0
  if req = home then (if islActive s req then none else some atHome)
  else if !islActive s req then some 1
  else match via req home with
    | some f =>
      if edgeDown s req f then some 2
      else if !islActive s f then some 1
      else if edgeDown s f home then some 2
      else if islActive s home then none else some atHome
    | none => if edgeDown s req home then some 2 else if islActive s home then none else some atHome

/-- What stays behind an access that its home did not serve: nothing, a back-invalidate to send (17 R418), or a pull that
has failed (05 R142). -/
inductive HNote where
  | none
  | ask (line : Nat)
  | pull (d : DieId) (n : Fin 64)
  deriving DecidableEq, Repr
/-- Why a home does not serve an access: it waits, or it answers with a cause. The caller keeps the state it had, with the
note, so that an operation over several homes has all of its effect or none. -/
inductive HErr where
  | wait (n : HNote)
  | cause (n : HNote) (cls det : Nat)
  deriving DecidableEq, Repr
abbrev HOp (α : Type) := Except HErr α

def bankOf (line : Nat) : Fin 64 := Fin.ofNat 64 line

/-- PLRU tree after a use of a way: every node on its path points away (log 11). -/
def plruTouch (t : BitVec 15) (way : Nat) : BitVec 15 :=
  (List.range 4).foldl (fun t lvl =>
    let node := 2 ^ lvl - 1 + way / 2 ^ (4 - lvl)
    let right := way / 2 ^ (3 - lvl) % 2 == 1
    if right then t &&& ~~~(BitVec.ofNat 15 (2 ^ node)) else t ||| BitVec.ofNat 15 (2 ^ node)) t
/-- The victim way: follows the tree, turning aside from subtrees with no way that may go. -/
def plruVictim (t : BitVec 15) (ok : Nat → Bool) : Nat :=
  (List.range 4).foldl (fun pre lvl =>
    let node := 2 ^ lvl - 1 + pre
    let span := 2 ^ (3 - lvl)
    let has : Nat → Bool := fun half => (List.range span).any fun i => ok ((pre * 2 + half) * span + i)
    let want := if t.getLsbD node then 1 else 0
    pre * 2 + (if has want then want else 1 - want)) 0

/-- A set of the die caches by its home, bank and index: address bits [23:7] (05 R124). -/
def dsetKey (s : State) (line : Nat) : Nat := (homeDie s 0 (line * 128)).val * 2 ^ 17 + line % 2 ^ 17
def DSet.empty : DSet := ⟨[], [], 0⟩

/-- Whether a way of its home's die cache holds a line. -/
def resident (s : State) (line : Nat) : Bool := (Sparse.get DSet.empty s.dsets (dsetKey s line)).ways.any fun w => w.2 == line
/-- Timestamps and owner of a line: those its die cache holds, or the bank's evicted timestamp for a line that is not there
(05 R124), whose owner the home still knows (log 51). -/
def lineSt (s : State) (line : Nat) : LineSt :=
  let t := (s.die (homeDie s 0 (line * 128))).evts.get (bankOf line)
  match Sparse.get none s.lines line with
  | some l => if l.owner.isSome && !resident s line then ⟨t, t, l.owner⟩ else l
  | none => ⟨t, t, none⟩

/-- Local pseudo-channel that holds an offset of a die's window, its stack times 64 and its number in the stack, and the
place within it (05 R132). -/
def hbmPlace (o : Nat) : Nat × Nat :=
  let g := o / 4096
  (g % 3 * 64 + (o / 256 % 16 + 16 * (g / 3 % 4)), g / 12 * 256 + o % 256)
def pcKey (d : DieId) (pc : Nat) : Nat := d.val * 192 + pc % 192
def getPc (s : State) (d : DieId) (pc : Nat) : PChan := Sparse.get PChan.reset s.pchans (pcKey d pc)
def setPc (s : State) (d : DieId) (pc : Nat) (x : PChan) : State := { s with pchans := Sparse.set PChan.reset s.pchans (pcKey d pc) x }
/-- A request for a line reaches a controller: the idle count starts again, and an idle state is left (05 R133, Table 5.7). -/
def hbmArrive (s : State) (d : DieId) (pc place : Nat) (write : Bool) : State :=
  let x := getPc s d pc
  let y := s.die d
  let wake : Option Nat := match x.power with
    | .active => none
    | .powerDown => some y.xpd.toNat
    | .selfRefresh => some (2 * y.xsr.toNat)
  let x := { x with reqs := x.reqs ++ [⟨place, write, s.now, 4⟩], idleFrom := s.now }
  setPc s d pc (match wake with
    | none => x
    | some n => { x with power := .active, exitAt := s.now + n, exitFrom := some s.now })
/-- The request for a line that its die cache does not hold, or writes back (05 R124, R132): device memory alone lies in
the stacks. -/
def hbmAccess (s : State) (line : Nat) (write : Bool) : State :=
  match target (line * 128) with
  | .dev d =>
    if islActive s d then
      let p := hbmPlace (line * 128 % 0x40_0000_0000)
      hbmArrive s d p.1 p.2 write
    else s
  | _ => s

/-- Folds a line's timestamps into its bank's evicted-timestamp register and drops it, written back when it was written
(05 R124). No L1 is told: the home still knows an owner (log 51). -/
def evictLine (s : State) (line : Nat) : State :=
  match Sparse.get none s.lines line with
  | none => s
  | some st =>
    let s := s.modDie (homeDie s 0 (line * 128)) fun x =>
      { x with evts := x.evts.set (bankOf line) (max (x.evts.get (bankOf line)) (max st.wts st.rts)) }
    let x := Sparse.get DSet.empty s.dsets (dsetKey s line)
    let s := if x.dirty.contains line then hbmAccess s line true else s
    { s with lines := if st.owner.isSome then s.lines else Sparse.set none s.lines line none
             dsets := Sparse.set DSet.empty s.dsets (dsetKey s line)
               { x with ways := x.ways.filter (fun w => w.2 != line), dirty := x.dirty.filter (fun l => l != line) } }
/-- The line in a way of a set goes. -/
def evictWay (s : State) (x : DSet) (w : Nat) : State :=
  match x.ways.find? (fun z => z.1 == w) with
  | some z => evictLine s z.2
  | none => s
/-- The way of its set a line takes at its home: its own, a free one of the 12, or its victim's, which goes (05 R124).
A line that comes in is read from memory; `dirty` marks one that is written. -/
def dsetPlace (s : State) (line : Nat) (dirty : Bool) : State :=
  let k := dsetKey s line
  let x := Sparse.get DSet.empty s.dsets k
  let put : State → Nat → State := fun s w =>
    let y := Sparse.get DSet.empty s.dsets k
    { s with dsets := Sparse.set DSet.empty s.dsets k
              { ways := (y.ways.filter fun z => z.1 != w) ++ [(w, line)], tree := plruTouch y.tree w
                dirty := (y.dirty.filter fun l => l != line) ++ (if dirty || y.dirty.contains line then [line] else []) } }
  match x.ways.find? (fun w => w.2 == line) with
  | some w => put s w.1
  | none =>
    let s := hbmAccess s line false
    match (List.range 12).find? (fun w => x.ways.all fun z => z.1 != w) with
    | some w => put s w
    | none =>
      let w := plruVictim x.tree (fun w => decide (w < 12))
      put (evictWay s x w) w
/-- A line comes into its die cache, if it is not there: its victim goes first, and it takes the bank's evicted timestamp as
that leaves it (05 R124). -/
def refill (s : State) (line : Nat) : State :=
  if resident s line then s
  else
    let s := dsetPlace s line false
    let t := (s.die (homeDie s 0 (line * 128))).evts.get (bankOf line)
    { s with lines := Sparse.set none s.lines line (some ⟨t, t, (lineSt s line).owner⟩) }
/-- Keeps a line's timestamps and owner at its home, in the die cache. A write is known by its new WTS (07 R168). -/
def setLineSt (s : State) (line : Nat) (l : LineSt) : State :=
  let s := dsetPlace s line ((lineSt s line).wts != l.wts)
  { s with lines := Sparse.set none s.lines line (some l) }

def findL1 (k : Core) (line : Nat) : Option L1Line := k.l1.find? (fun l => l.line == line)
def dropL1 (k : Core) (line : Nat) : Core := { k with l1 := k.l1.filter (fun l => l.line != line) }
def putL1 (k : Core) (x : L1Line) : Core := { k with l1 := k.l1.map (fun l => if l.line = x.line then x else l) }

/-- The home recalls the owner of a line it holds: its bytes, tags and timestamps come back and its copy goes. An owner on a
die that the home cannot reach answers as one it can: DESIGN CHOICE (log 31). -/
def recallHere (s : State) (line : Nat) : State :=
  let st := lineSt s line
  match st.owner with
  | none => setLineSt s line st
  | some o =>
    match findL1 (s.core o) line with
    | some l =>
      let s := if l.dirty then putLine s line l.data l.tags else s
      let s := setLineSt s line ⟨l.wts, l.rts, none⟩
      s.modCore o (dropL1 · line)
    | none => setLineSt s line { st with owner := none }
/-- The home brings in a line and recalls its owner. -/
def recallOwner (s : State) (line : Nat) : State := recallHere (refill s line) line

/-- Pull entries whose new frame holds a line (05 R139, R140). -/
def pullOf (s : State) (line : Nat) : Option (DieId × Fin 64 × Nat) :=
  allDies.findSome? fun d =>
    ((s.die d).pulls.toList.zip (List.finRange 64)).findSome? fun (p, n) =>
      let lines := if p.size = 1 then 16384 else 32
      let first := resolvePa p.newPa / 128
      if (p.state = 1 ∨ p.state = 2 ∨ (p.state = 4 ∧ p.cause = 3)) ∧ first ≤ line ∧ line < first + lines then
        some (d, n, line - first)
      else none
def modPull (s : State) (d : DieId) (n : Fin 64) (f : Pull → Pull) : State :=
  s.modDie d fun x => { x with pulls := x.pulls.set n (f (x.pulls.get n)) }

/-- Whether the host answers a line's read with an error: only a line the home's die cache does not hold is read there
(13 R318). -/
def hostBad (s : State) (line : Nat) : Bool :=
  Sparse.get false s.hostErr line && (Sparse.get none s.lines line).isNone

/-- Whether a die can read the old frame's line of a pull. -/
def pullReadable (s : State) (d : DieId) (oldPa : Nat) : Bool :=
  match target oldPa with
  | .dev h => (routeErr s d h false).isNone && !Sparse.get false s.poison (resolvePa oldPa / 128)
  | .host => (routeErr s d (homeDie s d oldPa) true).isNone && !hostBad s (oldPa / 128)
  | _ => false

/-- Pulls line i of an entry: its data and timestamps move, tags do not (05 R140). Copies of the reused frame's line that
an L1 still holds go with it. -/
def pullLine (s : State) (d : DieId) (n : Fin 64) (i : Nat) : State :=
  let p := (s.die d).pulls.get n
  let old := resolvePa (p.oldPa + 128 * i) / 128
  let new := resolvePa p.newPa / 128 + i
  let s := { recallOwner s new with cores := (recallOwner s new).cores.map (dropL1 · new) }
  let s := recallOwner s old
  let st := lineSt s old
  let s := putLine s new (lineData s old) 0
  let s := setLineSt (dsetPlace s new true) new ⟨st.wts, st.rts, none⟩
  modPull s d n fun p => { p with pulled := p.pulled + 1, bitmap := p.bitmap ++ [i] }

/-- A pull whose old frame cannot be read becomes error (05 R142). -/
def pullFail (s : State) (d : DieId) (n : Fin 64) : State :=
  (modPull s d n fun p => { p with state := 4, cause := 3 }).modDie d fun x => { x with intstat := x.intstat ||| 4#64 }

/-- The state of an access that was not served, with what stays behind. -/
def State.noted (s : State) : HNote → State
  | .none => s
  | .ask line =>
    if Sparse.get 0 s.hostHeld line = 1 then
      { s with hostHeld := Sparse.set 0 s.hostHeld line 2, outbox := s.outbox ++ [.backInvalidate line] }
    else s
  | .pull d n => pullFail s d n

/-- A device-side write waits for a line the host may hold: a back-invalidate goes out, and the write goes on once it is
answered (17 R418). -/
def hostFree (s : State) (line : Nat) : HOp State :=
  match Sparse.get 0 s.hostHeld line with
  | 0 => .ok s
  | 1 => .error (.wait (.ask line))
  | _ => .error (.wait .none)

/-- Readies a line at its home for an access from a die: the route, the host's answer, the pulls. -/
def homePrep (s : State) (req : DieId) (pa : Nat) : HOp State :=
  match target pa with
  | .none => .error (.cause .none 6 3)
  | .mmio d _ => match routeErr s req d false with | some e => .error (.cause .none 19 e) | none => .ok s
  | t =>
    match routeErr s req (homeDie s req pa) (t == .host) with
    | some e => .error (.cause .none 19 e)
    | none =>
      if t == .host && hostBad s (resolvePa pa / 128) then .error (.cause .none 6 2)
      else match pullOf s (resolvePa pa / 128) with
      | none => .ok s
      | some (d, n, i) =>
        let p := (s.die d).pulls.get n
        if p.bitmap.contains i then .ok s
        else if p.state = 1 then .error (.wait .none)
        else if p.state = 4 then .error (.cause .none 6 4)
        else if pullReadable s d (p.oldPa + 128 * i) then do
          let s ← hostFree s (resolvePa pa / 128)
          pure (pullLine s d n i)
        else .error (.cause (.pull d n) 6 4)

/-- Reads bytes at their homes after recalling owners (07 R168); the home resolves the alias (01 R19). -/
def homeRead (s : State) (req : DieId) (pa n : Nat) : HOp (State × List Byte) :=
  (cutLines pa n).foldlM (init := (s, ([] : List Byte))) fun (s, acc) (a, len) => do
    let s ← homePrep s req a
    let a := resolvePa a
    let s := recallOwner s (a / 128)
    pure (s, acc ++ rdBytes s a len)

/-- A write of the paths CP, CL, GV and HS at the home (07 R168): recall, then WTS := RTS := RTS + 1, or the
timestamp `base` where an atomic's is later (07 R178). Clears the granules' tags; answers the largest timestamp. -/
def homeWrite (s : State) (req : DieId) (pa : Nat) (bs : List Byte) (base : Nat := 0) : HOp (State × Nat) :=
  (cutLines pa bs.length).foldlM (init := (s, 0)) fun (s, m) (a, len) => do
    let s ← homePrep s req a
    let part := (bs.drop (a - pa)).take len
    let a := resolvePa a
    let s ← hostFree s (a / 128)
    let s := recallOwner s (a / 128)
    let ts := max base ((lineSt s (a / 128)).rts + 1)
    let s := { setLineSt s (a / 128) ⟨ts, ts, none⟩ with hts := max s.hts ts }
    let s := wrBytes s a part
    pure (clearTags s a len, max m ts)

/-- An LS store or atomic write at the home with timestamps of the core (07 R164, R178); tags: cleared, or
set for whole granules. -/
def lsWriteHome (s : State) (c : CoreId) (pa : Nat) (bs : List Byte) (tag : Bool := false) : HOp State :=
  (cutLines pa bs.length).foldlM (init := s) fun s (a, len) => do
    let s ← homePrep s (coreDie c) a
    let s ← hostFree s (a / 128)
    let s := recallOwner s (a / 128)
    let ts := max (s.core c).pts ((lineSt s (a / 128)).rts + 1)
    let s := setLineSt s (a / 128) ⟨ts, ts, none⟩
    let s := s.modCore c fun k => { dropL1 k (a / 128) with pts := ts }
    let s := wrBytes s a ((bs.drop (a - pa)).take len)
    let s := clearTags s a len
    pure (if tag then wrTag s a true else s)

def leaseLen (k : Core) : Nat := let l := k.t.sys.lease.toNat % 256; if l = 0 then 1 else l

/-! ## L1 data cache (04 R94 to R100) -/

def l1Set (line : Nat) : Nat := line % 1024
/-- Lines pinned by unreleased blocks. -/
def pinned (k : Core) (line : Nat) : Bool := k.blocks.any fun b => !b.unit && b.filled.contains line
/-- The way of its set allocated to a line still to arrive in an unreleased block (04 R96). -/
def wayFor (k : Core) (line : Nat) : Option Nat :=
  k.blocks.findSome? fun b => if b.unit then none else b.left.findSome? fun x =>
    match x.home with | some (l, w) => if l = line then some w else none | none => none
/-- Ways of a set allocated to lines still to arrive. -/
def allotted (k : Core) (set way : Nat) : Bool :=
  k.blocks.any fun b => !b.unit && b.left.any fun x =>
    match x.home with | some (l, w) => l1Set l == set && w == way | none => false

/-- Takes a line out of an L1, writing it back when owned. A line whose home cannot be reached is lost, and the home learns
nothing of it (log 31). -/
def l1Evict (s : State) (c : CoreId) (line : Nat) : State :=
  match findL1 (s.core c) line with
  | some l =>
    if l.owned && (routeErr s (coreDie c) (homeDie s (coreDie c) (line * 128)) false).isNone then recallOwner s line
    else s.modCore c (dropL1 · line)
  | none => s
/-- Evicts a victim line, and with it every line of its released unit (04 R99). -/
def l1EvictUnit (s : State) (c : CoreId) (line : Nat) : State :=
  match (s.core c).blocks.find? (fun b => b.unit && b.filled.contains line) with
  | some b =>
    let s := b.filled.foldl (fun s l => l1Evict s c l) s
    s.modCore c fun k => { k with blocks := k.blocks.filter (fun x => !(x.unit && x.flag == b.flag && x.filled == b.filled)) }
  | none => l1Evict s c line

/-- A way of a line's set for it: a free one, else the victim's, neither pinned nor allocated (04 R94, R100); none while
every way is. -/
def l1Way (s : State) (c : CoreId) (line : Nat) : Option (State × Nat) :=
  let k := s.core c
  let set := l1Set line
  let here := k.l1.filter fun l => l1Set l.line == set
  match (List.range 16).find? (fun w => (here.all fun l => l.way != w) && !allotted k set w) with
  | some w => some (s, w)
  | none =>
    let ok : Nat → Bool := fun w => !allotted k set w && here.any fun l => l.way == w && !pinned k l.line
    if !(List.range 16).any ok then none
    else
      let w := plruVictim (Sparse.get 0 k.plru set) ok
      some (match here.find? (fun l => l.way == w) with
        | some l => l1EvictUnit s c l.line
        | none => s, w)
/-- A way counts as used: the tree of its set points away from it (log 11). -/
def l1Touch (k : Core) (line way : Nat) : Core :=
  { k with plru := Sparse.set 0 k.plru (l1Set line) (plruTouch (Sparse.get 0 k.plru (l1Set line)) way) }

/-- Installs a line: in place, in the way allocated to it, or in a way made free for it. Filling counts as a use of the way,
and refilling in place does not (log 11). -/
def l1Install (s : State) (c : CoreId) (x : L1Line) : State :=
  match findL1 (s.core c) x.line with
  | some l => s.modCore c fun k => putL1 k { x with way := l.way }
  | none =>
    match (match wayFor (s.core c) x.line with | some w => some (s, w) | none => l1Way s c x.line) with
    | some (s, w) => s.modCore c fun k => l1Touch { k with l1 := k.l1 ++ [{ x with way := w }] } x.line w
    | none => s

/-- The home grants a leased copy (07 R164). A load's lease counts from the later of PTS and the line's WTS; a prefetch,
which moves no PTS, takes one from PTS alone, so that no load hits it later than a load's lease would allow (07 R167). -/
def grantLease (s : State) (c : CoreId) (line : Nat) (pref : Bool := false) : HOp State := do
  let s ← homePrep s (coreDie c) (line * 128)
  let s := recallOwner s line
  let st := lineSt s line
  let len := leaseLen (s.core c)
  let ts := if pref then (s.core c).pts else max (s.core c).pts st.wts
  let s := setLineSt s line { st with rts := max st.rts (ts + len) }
  pure (l1Install s c { line := line, way := 0, data := lineData s line, tags := lineTags s line, owned := false, dirty := false
                        wts := st.wts, rts := st.rts, lend := ts + len })

/-- The home grants ownership after recalling any other owner (07 R164). -/
def grantOwn (s : State) (c : CoreId) (line : Nat) : HOp State := do
  let s ← homePrep s (coreDie c) (line * 128)
  match findL1 (s.core c) line with
  | some l => if l.owned then return s
  | none => pure ()
  let s ← hostFree s line
  let s := recallOwner s line
  let st := lineSt s line
  let s := setLineSt s line { st with owner := some c }
  pure (l1Install s c { line := line, way := 0, data := lineData s line, tags := lineTags s line, owned := true, dirty := false
                        wts := st.wts, rts := st.rts, lend := 0 })

def lineBytes (x : Line) (off n : Nat) : List Byte := (bitsBytes 128 x).drop off |>.take n

/-- A line's part read in the L1 (07 R164): none when the line is neither owned nor leased in time. A read counts as a use
of its way (log 11). -/
def l1Read (s : State) (c : CoreId) (pa n : Nat) : Option (State × List Byte × Bool) :=
  let k := s.core c
  match findL1 k (pa / 128) with
  | none => none
  | some x =>
    if x.owned || decide (k.pts ≤ x.lend) then
      some (s.setCore c (l1Touch { k with pts := max k.pts x.wts } x.line x.way),
            lineBytes x.data (pa % 128) n, x.tags.getLsbD (pa % 128 / 16))
    else none
/-- An LS load of a line's part with the tag of its granule (07 R164): a hit in the L1, or the home's leased copy. -/
def lsRead1 (s : State) (c : CoreId) (pa n : Nat) : HOp (State × List Byte × Bool) := do
  let pa := resolvePa pa
  match l1Read s c pa n with
  | some r => pure r
  | none =>
    let s ← grantLease s c (pa / 128)
    match l1Read s c pa n with
    | some r => pure r
    | none => pure (s.modCore c fun k => { k with pts := max k.pts (lineSt s (pa / 128)).wts }, rdBytes s pa n, rdTag s pa)
/-- An LS load of a byte run, performed at once. -/
def lsReadHome (s : State) (c : CoreId) (pa n : Nat) : HOp (State × List Byte) :=
  (cutLines pa n).foldlM (init := (s, ([] : List Byte))) fun (s, acc) (a, len) => do
    let r ← lsRead1 s c a len
    pure (r.1, acc ++ r.2.1)

/-! ## Write queue (04 R101 to R104) -/

def maskBits (off len : Nat) : BitVec 128 := BitVec.ofNat 128 ((2 ^ len - 1) * 2 ^ off)
/-- Merges masked bytes into a line. -/
def mergeLine (old new : Line) (mask : BitVec 128) : Line :=
  let m : Line := (List.range 128).foldl (fun m i => if mask.getLsbD i then m ||| (0xFF#1024 <<< (8 * i)) else m) 0
  (old &&& ~~~m) ||| (new &&& m)
/-- Granules a mask touches. -/
def maskGranules (mask : BitVec 128) : BitVec 8 :=
  (List.range 8).foldl (fun g i => if (mask >>> (16 * i)).setWidth 16 != 0#16 then g ||| BitVec.ofNat 8 (2 ^ i) else g) 0

/-- Pending loads of a core, the oldest first: those set aside by a trap, then the running code's. -/
def allLoads (k : Core) : List PLoad := (match k.t.aside with | some a => a.loads | none => []) ++ k.t.loads
def modLoads (k : Core) (f : PLoad → PLoad) : Core :=
  { k with t := { k.t with loads := k.t.loads.map f, aside := k.t.aside.map fun a => { a with loads := a.loads.map f } } }

/-- A store's later bytes over an entry of its line. -/
def WEntry.merge (y e : WEntry) : WEntry :=
  let g := maskGranules e.mask
  { y with data := mergeLine y.data e.data e.mask, mask := y.mask ||| e.mask, tags := (y.tags &&& ~~~g) ||| (e.tags &&& g) }
/-- Puts a store that lies within one line into the queue, coalescing into the youngest entry when that is of its line and
no load waits for that entry (04 R101, R102); MMIO stores never coalesce (log 21). -/
def enqueue (k : Core) (e : WEntry) : Core :=
  match k.wq.getLast? with
  | some y =>
    if y.line = e.line ∧ e.group = 0 ∧ (e.line < 2 ^ 43 ∨ 2 ^ 44 ≤ e.line)
        ∧ !(allLoads k).any (fun l => l.older == k.wq.length) then
      { k with wq := k.wq.dropLast ++ [y.merge e] }
    else { k with wq := k.wq ++ [e] }
  | none => { k with wq := k.wq ++ [e] }
/-- Puts a store into the queue: one entry may coalesce, a store of several takes new ones (04 R101). -/
def enqueueStore (k : Core) (es : List WEntry) : Core :=
  match es with
  | [e] => enqueue k e
  | es => { k with wq := k.wq ++ es }

/-- One entry for a byte run inside a line, written at a virtual address. -/
def entryOf (pa : Nat) (bs : List Byte) (tag : Bool) (group : Nat) (va : Nat := 0) : WEntry :=
  let o := pa % 128
  { line := pa / 128, data := BitVec.ofNat 1024 (bytesToNat bs * 2 ^ (8 * o)), mask := maskBits o bs.length
    tags := if tag then BitVec.ofNat 8 (2 ^ (o / 16)) else 0, group := group, va := va }

/-- Applies an entry to an owned L1 line at a timestamp (07 R164). -/
def drainInto (l : L1Line) (e : WEntry) (ts : Nat) : L1Line :=
  let g := maskGranules e.mask
  { l with data := mergeLine l.data e.data e.mask, tags := (l.tags &&& ~~~g) ||| (e.tags &&& g), dirty := true, wts := ts, rts := ts }

/-- An MMIO entry as register writes: its aligned 4-byte words, joined to 8 where both halves are written. -/
def mmioWrites (e : WEntry) (d : DieId) : List MmioWr :=
  (List.range 16).flatMap fun i =>
    let lo := (e.mask >>> (8 * i)).setWidth 4 == 15#4
    let hi := (e.mask >>> (8 * i + 4)).setWidth 4 == 15#4
    let w : Word := (e.data >>> (64 * i)).setWidth 64
    let off := (e.line * 128 + 8 * i) % 2 ^ 32
    if lo && hi then [⟨none, d, off, true, w⟩]
    else (if lo then [⟨none, d, off, false, w &&& 0xFFFF_FFFF⟩] else [])
      ++ (if hi then [⟨none, d, off + 4, false, w >>> 32⟩] else [])

/-- Takes drained entries off the queue; the loads and blocks behind them, and a TLBINV that waits for them, have as many
fewer to wait for. -/
def dequeue (k : Core) (n : Nat) : Core :=
  modLoads { k with wq := k.wq.drop n
                    invw := k.invw.map fun w => { w with stores := w.stores - n }
                    blocks := k.blocks.map fun b => { b with older := b.older - n } } fun l =>
    { l with older := l.older - n }

/-- Entries that drain together: the oldest, or the whole of its group (13 R322). -/
def headGroup (k : Core) : List WEntry :=
  match k.wq with
  | [] => []
  | e :: _ => if e.group = 0 then [e] else k.wq.takeWhile fun x => x.group == e.group

/-- Drains the oldest entry of a core, and the entries of its group with it at one timestamp (04 R102, 13
R322). Its line must be owned, and every load older than it must have its value (07 R164). -/
def drainOne (s : State) (c : CoreId) : HOp State :=
  let k := s.core c
  match k.wq with
  | [] => .ok s
  | e :: _ =>
    if (allLoads k).any (fun l => l.older == 0) then .error (.wait .none)
    else
      match target (e.line * 128) with
      | .mmio d _ => do
        let s ← homePrep s (coreDie c) (e.line * 128)
        let s := s.modCore c fun k => dequeue k 1
        pure ((mmioWrites e d).foldl (fun s w => s.postDie d (.mmioRegisterWrite w)) s)
      | _ =>
        let grp := headGroup k
        if grp.all (fun x => match findL1 k x.line with | some l => l.owned | none => false) then
          let ts := grp.foldl (fun t x => match findL1 k x.line with | some l => max t (l.rts + 1) | none => t) k.pts
          let k := grp.foldl (fun k x => match findL1 k x.line with | some l => putL1 k (drainInto l x ts) | none => k) k
          .ok (s.setCore c { dequeue k grp.length with pts := ts })
        else .error (.wait .none)

/-! ## Translation (06) -/

/-- Why a translation fails: a table's home lets it wait (05 R139), or a class 5 detail at a level. -/
inductive XErr where
  | wait (n : HNote)
  | bad (n : HNote) (detail lvl : Nat)
  deriving DecidableEq, Repr

def pteV (p : BitVec 64) : Bool := p.getLsbD 0
def pteL (p : BitVec 64) : Bool := p.getLsbD 1
def pteU (p : BitVec 64) : Bool := p.getLsbD 2
def pteW (p : BitVec 64) : Bool := p.getLsbD 3
def pteX (p : BitVec 64) : Bool := p.getLsbD 4
def pteA (p : BitVec 64) : Bool := p.getLsbD 5
def pteD (p : BitVec 64) : Bool := p.getLsbD 6
def pteTagc (p : BitVec 64) : Bool := p.getLsbD 62
def pteRb (p : BitVec 64) : Bool := p.getLsbD 63
def pteCh (p : BitVec 64) : Bool := p.getLsbD 59
def pteTier (p : BitVec 64) : Bool := p.getLsbD 60
def ptePa (p : BitVec 64) : Nat := (p.extractLsb' 12 40).toNat * 4096

/-- Malformed leaf (06 R146). -/
def badLeaf (p : BitVec 64) (lvl : Nat) : Bool :=
  let t := target (ptePa p)
  lvl ≥ 3 || p.extractLsb' 52 7 != 0#7 || p.extractLsb' 7 5 != 0#5 ||
  (lvl == 1 && ptePa p % 2 ^ 21 != 0) || (lvl == 2 && ptePa p % 2 ^ 30 != 0) || (pteCh p && lvl != 0) ||
  (pteTier p != (t == .host)) || ((pteTagc p || pteRb p) && !inDev (ptePa p))

/-- An access of a walker to a table at its home: a wait waits, an error response is detail 5 (06 R154). -/
def atTable {α : Type} (lvl : Nat) (h : HOp α) : Except XErr α :=
  match h with
  | .ok a => .ok a
  | .error (.wait n) => .error (.wait n)
  | .error (.cause n _ _) => .error (.bad n 5 lvl)
/-- Reads an 8-byte table entry at its home. -/
def readPte (s : State) (d : DieId) (pa lvl : Nat) : Except XErr (State × BitVec 64) := do
  let (s, bs) ← atTable lvl (homeRead s d pa 8)
  pure (s, BitVec.ofNat 64 (bytesToNat bs))

/-- Leaf checks in the order of 06 Table 6.7. -/
def leafErr (p : BitVec 64) (priv : Bool) (n : Need) : Option Nat :=
  if !priv && !pteU p then some 3
  else if n.write && !pteW p then some 2
  else if n.fetch && !pteX p then some 4
  else if n.rec_ && !pteRb p then some 6
  else none

/-- Sets A, and D for a write, by compare-and-swap at the home (06 R148). It is no write of the access that walks: MWTS keeps
its value. -/
def setAD (s : State) (d : DieId) (pa lvl : Nat) (p : BitVec 64) (write : Bool) : Except XErr (State × BitVec 64) :=
  let q := p ||| 0x20#64 ||| (if write then 0x40#64 else 0#64)
  if q = p then .ok (s, p)
  else do
    let (s', _) ← atTable lvl (homeWrite s d pa (bitsBytes 8 q))
    pure ({ s' with hts := s.hts }, q)

/-- A leaf with CH (06 R147): the 16 entries of its 64 KiB run keep their promise, or which of the run's leaves translates
is a free value (log 38), extrapolated to the page; A and D stay those of the entry walked. -/
def chRun (s : State) (d : DieId) (ea lvl : Nat) (p : BitVec 64) : Except XErr (State × BitVec 64) := do
  let (s, bs) ← atTable lvl (homeRead s d (ea / 128 * 128) 128)
  let i := ea / 8 % 16
  let leaf : Nat → BitVec 64 := fun k => BitVec.ofNat 64 (bytesToNat ((bs.drop (8 * k)).take 8))
  let bare : BitVec 64 → BitVec 64 := fun q => q &&& 0xFFF0_0000_0000_0F9F#64
  let run := (List.range 16).filter fun k => pteV (leaf k) && pteL (leaf k) && pteCh (leaf k) && !badLeaf (leaf k) 0
  let first := ptePa p - i * 4096
  if first % 65536 = 0 ∧ (List.range 16).all (fun k => run.contains k && bare (leaf k) == bare p
      && ptePa (leaf k) == first + k * 4096) then pure (s, p)
  else
    let k := run.getD (Config.runLeaf s.now ea % max 1 run.length) i
    let pa := (ptePa (leaf k) + 2 ^ 52 + i * 4096 - k * 4096) % 2 ^ 52
    pure (s, bare (leaf k) ||| (p &&& 0x60#64) ||| BitVec.ofNat 64 pa)

def idxAt (va lvl : Nat) : Nat := if lvl = 4 then va / 2 ^ 48 % 512 else va / 2 ^ (12 + 9 * lvl) % 512

/-- The leaf a walk ends at: the address of its entry, the entry, what it translates as, and its level. -/
structure Leaf where
  (ea : Nat) (entry pte : BitVec 64) (lvl : Nat)
  deriving DecidableEq, Repr

/-- The walk from a table at a level down to a leaf (06 R144 to R147, R154), through the die's walk cache. -/
def walkFrom (d : DieId) (asid va : Nat) : Nat → State → Nat → Except XErr (State × Leaf)
  | lvl, s, tbl =>
    let ea := tbl + 8 * idxAt va lvl
    if !inDev tbl then .error (.bad .none 5 lvl)
    else do
      let (s, p) ← (match (s.die d).walkCache.find? (fun w => w.asid == asid && w.level == lvl && w.idx == va / 2 ^ (12 + 9 * lvl)) with
        | some w => .ok (s, BitVec.ofNat 64 (w.pa + 1))
        | none => readPte s d ea lvl)
      if !pteV p then .error (.bad .none 0 lvl)
      else if pteL p then
        if badLeaf p lvl then .error (.bad .none 1 lvl)
        else do
          let (s, q) ← if pteCh p then chRun s d ea lvl p else pure (s, p)
          pure (s, ⟨ea, p, q, lvl⟩)
      else match lvl with
        | 0 => .error (.bad .none 1 0)
        | l + 1 =>
          if !inDev (ptePa p) then .error (.bad .none 5 (l + 1))
          else
            let e : WcEnt := ⟨asid, l + 1, va / 2 ^ (12 + 9 * (l + 1)), ptePa p⟩
            let s := s.modDie d fun x => if x.walkCache.contains e then x
              else { x with walkCache := ((x.walkCache.filter fun w => !(w.asid == e.asid && w.level == e.level && w.idx == e.idx))
                                          ++ [e]).drop (x.walkCache.length - 1023) }
            walkFrom d asid va l s (ptePa p)

/-- A walk on a die's walker: PTROOT for the user half, KROOT for the privileged half. -/
def walk (s : State) (d : DieId) (asid : Nat) (ptroot : Word) (va : Nat) : Except XErr (State × Leaf) :=
  if va / 2 ^ 56 % 2 = 1 then
    walkFrom d 0 va 4 s ((BitVec.extractLsb' 12 40 (s.die d).kroot).toNat * 4096)
  else walkFrom d asid va 4 s ((BitVec.extractLsb' 12 40 ptroot).toNat * 4096)
/-- An access takes a walk's leaf: the checks of 06 Table 6.7, then A and D (06 R148). A leaf that does not allow the
access keeps its A and D. -/
def useLeaf (s : State) (d : DieId) (x : Leaf) (priv : Bool) (n : Need) : Except XErr (State × BitVec 64) :=
  match leafErr x.pte priv n with
  | some det => .error (.bad .none det x.lvl)
  | none => do
    let (s, p) ← setAD s d x.ea x.lvl x.entry n.write
    pure (s, x.pte ||| (p &&& 0x60#64))
def Leaf.bits (x : Leaf) : Nat := 12 + 9 * x.lvl

/-- EINFO of a translation fault (06 Table 6.8). -/
def xlInfo (asid : Nat) (priv fetch wr path : Bool) (lvl : Nat) : Word :=
  BitVec.ofNat 64 (asid % 65536 * 256 + (if priv then 64 else 0) + (if fetch then 32 else 0) + (if wr then 16 else 0)
    + (if path then 8 else 0) + lvl % 8)

def asidFor (asid va : Nat) : Nat := if va / 2 ^ 56 % 2 = 1 then 0 else asid
def tlbFind (l : List TlbEnt) (asid va : Nat) : Option TlbEnt := l.find? fun e => e.asid == asid && e.page == va / 2 ^ e.bits
def tlbPut (cap : Nat) (l : List TlbEnt) (e : TlbEnt) : List TlbEnt :=
  let l := l.filter fun x => !(x.asid == e.asid && x.page == e.page && x.bits == e.bits)
  (l ++ [e]).drop (l.length + 1 - cap)
def tlbEnt (asid va : Nat) (p : BitVec 64) (bits : Nat) : TlbEnt := ⟨asid, va / 2 ^ bits, bits, p⟩
def tlbPa (e : TlbEnt) (va : Nat) : Nat := resolvePa (ptePa e.pte + va % 2 ^ e.bits)
def lvlOf (e : TlbEnt) : Nat := (e.bits - 12) / 9

/-- A translation by a die's walker directly (MX, CL, GV, AL; 06 R150), for an access of a context: the resolved address
and the leaf. -/
def walkXlate (s : State) (d : DieId) (ctx : Ctx) (priv : Bool) (va : Nat) (n : Need) : Except XErr (State × Nat × BitVec 64) := do
  let (s, x) ← walk s d ctx.asid.toNat ctx.ptroot va
  let (s, p) ← useLeaf s d x priv n
  pure (s, resolvePa (ptePa p + va % 2 ^ x.bits), p)

/-- A core's own mode. -/
def privMode (k : Core) : Bool := k.t.sys.status.getLsbD 0
def trapMode (k : Core) : Bool := k.t.sys.status.getLsbD 1

/-- The number of a core's task. -/
def taskUid (k : Core) : Nat := match k.task with | some t => t.uid | none => 0
/-- The system registers that a core's running slot sees: those at the issue of its bundle (11 R273). -/
def Core.y (k : Core) : Sys := match k.t.fl with | some f => f.sys | none => k.t.sys
/-- The context as the running core's registers give it. -/
def Core.ctx (k : Core) : Ctx :=
  let y := k.y
  let base : Ctx := match k.task with
    | some t => t.ctx
    | none =>
      { asid := 0, priv := false, ptroot := 0, rtbase := 0, rtcnt := 0, etbase := 0, etcnt := 0, ptbase := 0, spbase := 0
        spcnt := 0, albase := 0, lease := 0, rngkey := 0, prebound := 0, wdlim := 0, hmask := 0, hclen := 0, hcode := 0
        hdcap := Cap.null, tfbase := 0, sapool := 0, sacount := 0, ctxpa := 0 }
  { base with asid := y.asid.setWidth 16, ptroot := y.ptroot, rtbase := y.rtbase, rtcnt := y.rtcnt, etbase := y.etbase
              etcnt := y.etcnt, ptbase := y.ptbase, spbase := y.spbase, spcnt := y.spcnt, albase := y.albase }

/-- Translation of an LS access or a code fetch of the running core through its TLB (06 R150, R154). A miss
queues a request at the die's walker and freezes; a walk that failed for this page raises class 5. -/
def lsXlate (s : State) (asid : Nat) (priv : Bool) (va : Nat) (n : Need) : Op (State × Nat × BitVec 64) :=
  let k := s.k
  if !priv && va / 2 ^ 56 % 2 = 1 then raise s 3 2
  else
    let a := asidFor asid va
    let miss : Op (State × Nat × BitVec 64) :=
      let req : WalkReq := ⟨s.cur, a, va, k.y.ptroot, priv, n⟩
      match k.walkAns with
      | some w =>
        if w.req = req then
          raise (s.modK fun k => { k with walkAns := none }) 5 w.detail va (xlInfo a priv n.fetch n.write false w.lvl)
        else freeze ((s.modK fun k => { k with walkAns := none }).modDie (coreDie s.cur) fun d => { d with walkQ := d.walkQ ++ [req] })
      | none =>
        if (s.die (coreDie s.cur)).walkQ.contains req then freeze s
        else freeze (s.modDie (coreDie s.cur) fun d => { d with walkQ := d.walkQ ++ [req] })
    match tlbFind k.tlb a va with
    | none => miss
    | some e =>
      match leafErr e.pte priv n with
      | some det => raise s 5 det va (xlInfo a priv n.fetch n.write false (lvlOf e))
      | none => if n.write && !pteD e.pte then miss else .ok (s, tlbPa e va, e.pte)

/-! ## Capabilities (01 R29 to R32) -/

def Cap.base (c : Cap) : Nat := (c.bits.extractLsb' 0 57).toNat
def Cap.len (c : Cap) : Nat := (c.bits.extractLsb' 57 40).toNat
def Cap.handle (c : Cap) : Nat := (c.bits.extractLsb' 97 24).toNat
def Cap.perms (c : Cap) : BitVec 7 := c.bits.extractLsb' 121 7
def Cap.mk' (perms : BitVec 7) (handle len base : Nat) (tag : Bool) : Cap :=
  ⟨perms ++ BitVec.ofNat 24 handle ++ BitVec.ofNat 40 len ++ BitVec.ofNat 57 base, tag⟩

/-- What a check needs of a capability (01 Table 1.7, order 2). -/
inductive CapNeed where
  | rd | wr | mop | cps | cpd | atm | lnp | both
  deriving DecidableEq, Repr

def permErr (p : BitVec 7) : CapNeed → Option Nat
  | .rd => if p.getLsbD 6 then none else some 1
  | .wr => if p.getLsbD 5 then none else some 2
  | .mop => if p.getLsbD 4 then none else some 3
  | .cps => if p.getLsbD 3 then none else some 4
  | .cpd => if p.getLsbD 2 then none else some 5
  | .atm => if p.getLsbD 1 && p.getLsbD 6 && p.getLsbD 5 then none else some 6
  | .lnp => if p.getLsbD 0 then none else some 7
  | .both => if !p.getLsbD 6 then some 1 else if !p.getLsbD 5 then some 2 else none

/-- Orders 1 to 3 of 01 Table 1.7. -/
def capErr3 (c : Cap) (n : CapNeed) (off : Int) : Option Nat :=
  if !c.tag then some 0
  else match permErr c.perms n with
    | some d => some d
    | none => if off < 0 then some 8 else none
/-- Order 4: the bounds. -/
def capErr4 (c : Cap) (off : Int) (size : Nat) : Option Nat :=
  if off + size ≤ (c.len : Int) ∧ (c.base : Int) + off + size ≤ ((2 ^ 57 : Nat) : Int) then none else some 9
/-- Orders 1 to 4 (01 R31). -/
def capErr (c : Cap) (n : CapNeed) (off : Int) (size : Nat) : Option Nat :=
  match capErr3 c n off with
  | some d => some d
  | none => capErr4 c off size

/-- Checks and gives the virtual address, or raises class 4. -/
def capCheck (s : State) (c : Cap) (n : CapNeed) (off : Int) (size : Nat) : Op Nat :=
  match capErr c n off size with
  | some d => raise s 4 d
  | none => .ok ((c.base : Int) + off).toNat

/-- Whether a derived capability keeps its tag (01 R32). -/
def derives (src d : Cap) : Bool :=
  src.tag && decide (src.base ≤ d.base) && decide (d.base + d.len ≤ src.base + src.len)
    && (d.perms &&& ~~~src.perms) == 0#7 && d.handle == src.handle

/-! ## Landing (10 R241 to R243; 12 R291) -/

/-- Lanes of a row selected by a 128-bit mask, merged. -/
def laneMask (en : BitVec 128) : Row :=
  (List.range 128).foldl (fun m i => if en.getLsbD i then m ||| (0xFFFF_FFFF#4096 <<< (32 * i)) else m) 0
def mergeLanes (old new : Row) (en : BitVec 128) : Row :=
  if en = BitVec.allOnes 128 then new else let m := laneMask en; (old &&& ~~~m) ||| (new &&& m)
def mergeT (old new : VTan4) (en : BitVec 128) : VTan4 := Vector.ofFn fun i => mergeLanes (old.get i) (new.get i) en

/-- Writes a result into its registers; s0, sp0 and vp0 discard (10 Table 10.4). -/
def Res.apply (r : Res) (g : Regs) : Regs :=
  match r with
  | .s r x t => if r = 0 then g else { g with s := g.s.set r.toFin x, sd := g.sd.set r.toFin t }
  | .p r b => if r = 0 then g
    else { g with sp := if b then g.sp ||| (1#8 <<< r.toNat) else g.sp &&& ~~~(1#8 <<< r.toNat) }
  | .c r x => { g with c := g.c.set r.toFin x }
  | .md d w x => { g with md := g.md.set d.toFin (let m := g.md.get d.toFin; if w = 0 then { m with w0 := x } else { m with w1 := x }) }
  | .mdc d x => { g with md := g.md.set d.toFin { g.md.get d.toFin with cap := x } }
  | .cd d w x => { g with cd := g.cd.set d.toFin (let m := g.cd.get d.toFin; { m with w := m.w.set w.toFin x }) }
  | .cdc d dst x => { g with cd := g.cd.set d.toFin (let m := g.cd.get d.toFin; if dst then { m with dst := x } else { m with src := x }) }
  | .v d latch en x t =>
    let g := match d with
      | some d => { g with v := g.v.set d.toFin (mergeLanes (g.v.get d.toFin) x en)
                           vd := g.vd.set d.toFin (mergeT (g.vd.get d.toFin) t en) }
      | none => g
    match latch with
    | some l => { g with vl := g.vl.set l.toFin (mergeLanes (g.vl.get l.toFin) x en)
                         vld := g.vld.set l.toFin (mergeT (g.vld.get l.toFin) t en) }
    | none => g
  | .vtan d k latch en x =>
    let put : VTan4 → VTan4 := fun t => Vector.ofFn fun i => if i.val + 1 = k then mergeLanes (t.get i) x en else t.get i
    { g with vd := g.vd.set d.toFin (put (g.vd.get d.toFin)), vld := g.vld.set latch.toFin (put (g.vld.get latch.toFin)) }
  | .vtz d latch en =>
    { g with vd := g.vd.set d.toFin (mergeT (g.vd.get d.toFin) VTan4.zero en)
             vld := g.vld.set latch.toFin (mergeT (g.vld.get latch.toFin) VTan4.zero en) }
  | .vp d en b => if d = 0 then g else { g with vp := g.vp.set d.toFin ((g.vp.get d.toFin &&& ~~~en) ||| (b &&& en)) }
  | .scl .. => g

def applySys (r : Res) (y : Sys) : Sys :=
  match r with
  | .scl en codes =>
    let m : BitVec 32 := (List.range 4).foldl (fun m i => if en.getLsbD i then m ||| (0xFF#32 <<< (8 * i)) else m) 0
    { y with scl := ((y.scl.setWidth 32 &&& ~~~m) ||| (codes &&& m)).setWidth 64 }
  | _ => y

def TState.land1 (t : TState) (r : Res) : TState := { t with regs := r.apply t.regs, sys := applySys r t.sys }
/-- Lands every entry whose countdown is over, oldest first. -/
def landDue (t : TState) : TState :=
  let t' := t.land.foldl (fun t e => if e.left = 0 then t.land1 e.res else t) t
  { t' with land := t.land.filter fun e => e.left != 0 }
/-- The end of an issue cycle: every countdown moves by one. -/
def countDown (t : TState) : TState := { t with land := t.land.map fun e => { e with left := e.left - 1 } }
/-- Issue cycles pass until the queue is empty. -/
def landAll (t : TState) : TState :=
  let t := (List.range 20).foldl (fun t _ => countDown (landDue t)) t
  landDue t

/-- Puts a result of latency n into the landing queue. -/
def State.land (s : State) (n : Nat) (r : Res) : State := s.modT fun t => { t with land := t.land ++ [⟨n, r⟩] }

/-! ## Taking a trap and returning (16 R392 to R402) -/

def loopEnabled (l : Loop) (pc : Nat) : Bool := l.act && decide (l.bstart ≤ pc) && decide (pc < l.bstart + l.blen)
/-- Number of the innermost active loop whose body holds a unit (08 R195). -/
def innermost (t : TState) (pc : Nat) : Option (Fin 4) :=
  (List.finRange 4).foldl (fun best i =>
    let l := t.loops.get i
    if loopEnabled l pc then
      match best with
      | none => some i
      | some j => let m := t.loops.get j
                  if l.blen < m.blen ∨ (l.blen = m.blen ∧ i.val < j.val) then some i else some j
    else best) none
/-- SE at a unit. -/
def stageEnables (t : TState) (pc : Nat) : BitVec 4 :=
  match innermost t pc with
  | some i => (t.loops.get i).sev
  | none => 0xF

/-- Whether a fault enters the handler (16 R395). -/
def entersHandler (k : Core) (cls : Nat) : Bool :=
  match k.task with
  | some t => t.ctx.hmask.getLsbD cls && t.ctx.hclen != 0 && !trapMode k && cls != 21
  | none => false

def setBit (w : Word) (i : Nat) (b : Bool) : Word := if b then w ||| (1#64 <<< i) else w &&& ~~~(1#64 <<< i)

/-- Writes CAUSE, EVA and EINFO. -/
def setCause (y : Sys) (f : FaultRec) : Sys :=
  { y with cause := BitVec.ofNat 64 (f.cls * 16 + f.det), eva := BitVec.ofNat 64 (f.eva % 2 ^ 57), einfo := f.einfo }

/-- SLOTRES (16 Table 16.3). -/
def slotresOf (btgt : Option Nat) (se : BitVec 4) (snap : Bool) (rem slot : Nat) : Word :=
  BitVec.ofNat 64 ((match btgt with | some b => b % 2 ^ 24 * 2 ^ 40 + 2 ^ 39 | none => 0)
    + se.toNat * 1024 + (if snap then 512 else 0) + rem % 8 * 64 + slot % 8)

/-- The context's privileged data accesses of the hardware itself (trap frames, event tables): translated
with the privileged half under ASID 0 by the die's walker, written at the home as LS stores. -/
def privXlate (s : State) (c : CoreId) (va : Nat) (n : Need) : Except XErr (State × Nat × BitVec 64) :=
  walkXlate s (coreDie c) (s.core c).ctx true va n

def frameVa (t : Task) (c : CoreId) : Nat := t.ctx.tfbase.toNat + 512 * c.val

/-- The frame as queued stores to three lines (16 R399). Bit 0 of the predicate byte is a free value (log 6). -/
def frameEntries (g : Regs) (free : Bool) (va pa : Nat) : List WEntry :=
  let ss := (List.finRange 31).flatMap fun i => bitsBytes 8 (g.s.get (Fin.succ i))
  [entryOf (pa + 8) (ss.take 120) false 0 (va + 8), entryOf (pa + 128) (ss.drop 120) false 0 (va + 128),
   entryOf (pa + 256) [(g.sp &&& 0xFE#8) ||| (if free then 1#8 else 0#8)] false 0 (va + 256)]
  ++ (List.finRange 4).map fun i =>
    let x := g.c.get (Fin.castLE (by decide) i)
    entryOf (pa + 272 + 16 * i.val) (bitsBytes 16 x.bits) x.tag 0 (va + 272 + 16 * i.val)

/-- How a trap entry's frame write ends: it is queued, it waits for its translation or for room in the queue, or it
faults. -/
inductive FrameR where
  | queued (s : State)
  | wait (n : HNote)
  | fault
  deriving DecidableEq, Repr
/-- The frame write at trap entry: stores of the LS path, which wait for three free entries (04 R101). -/
def writeFrame (s : State) (c : CoreId) (t : Task) : FrameR :=
  match privXlate s c (frameVa t c) ⟨true, false, false⟩ with
  | .error (.wait n) => .wait n
  | .error (.bad ..) => .fault
  | .ok (s, pa, pte) =>
    if !pteTagc pte then .fault
    else
      match homePrep s (coreDie c) pa with
      | .error (.cause ..) => .fault
      | _ =>
        if 29 < (s.core c).wq.length then .wait .none
        else .queued ((s.modCore c fun k =>
          (frameEntries k.t.regs (Config.freeBit s.fresh) (frameVa t c) pa).foldl enqueue k).tickFresh)

/-- The point of a precise fault (16 R397). -/
def precisePoint (k : Core) (committed : Bool) : TrapPoint :=
  match k.t.fl with
  | some f =>
    let todo := if committed then f.todo.drop 1 else f.todo
    ⟨f.unit, true, f.rep, if committed then f.slot + 1 else f.slot, f.se, f.btgt, some { f with todo := todo }⟩
  | none => ⟨k.t.pc, false, 0, 0, stageEnables k.t k.t.pc, none, none⟩

/-- Trap entry (16 R399), or the mark of a grid-fatal fault, which the next action carries out (16 R396). An entry whose
frame has to wait is tried again by TRAP_ENTRY; the core issues nothing meanwhile. -/
def takeFault (s : State) (c : CoreId) (f : FaultRec) (p : TrapPoint) : State :=
  let s0 := s
  let k := s.core c
  let s := s.modCore c fun k =>
    { k with frozen := false, walkAns := none, trap := none
             t := { k.t with sys := { setCause k.t.sys f with epc := BitVec.ofNat 64 (p.unit % 2 ^ 24)
                                                              slotres := slotresOf p.btgt p.se p.snap p.rem p.slot } } }
  let fatal : State := (s.modCore c fun k => { k with t := { k.t with fatal := some f } }).postCore c .gridFatalFault
  match k.task with
  | none => fatal
  | some t =>
    if !entersHandler k f.cls then fatal
    else match writeFrame s c t with
      | .fault => fatal
      | .wait n => (s0.noted n).modCore c fun k => { k with frozen := false, trap := some (f, p) }
      | .queued s =>
        s.modCore c fun k =>
          let st := k.t.sys.status
          let st := setBit (setBit (setBit st 2 (st.getLsbD 0)) 0 true) 1 true
          let g := k.t.regs
          let fcap := Cap.mk' 0b1100000#7 0 512 (frameVa t c) true
          { k with t := { k.t with
              sys := { k.t.sys with status := st }
              regs := { g with c := (((g.c.set 0 fcap).set 1 t.ctx.hdcap).set 2 Cap.null).set 3 Cap.null }
              aside := some
                { land := k.t.land, loads := k.t.loads, arrived := [], loops := k.t.loops, fl := p.fl, rep := k.t.rep
                  completing := k.t.completing, atPass := k.t.atPass }
              pend := k.t.pend.map fun q => { q with held := true }
              land := [], loads := [], fl := none, loops := Vector.replicate 4 Loop.unbound, pc := 0, rep := none, completing := none
              atPass := false
              -- the handler gives the task a fresh bound (16 R410)
              pbcnt := if f.cls = 16 ∧ f.det = 4 then 0 else k.t.pbcnt } }

/-- How a frame read ends without its registers: it waits, or faults with a class and detail; `lvl` is the level of a
failed translation. -/
inductive FrameErr where
  | wait (n : HNote)
  | bad (n : HNote) (cls det lvl : Nat)
  deriving DecidableEq, Repr
def atFrame {α : Type} (h : HOp α) : Except FrameErr α :=
  match h with
  | .ok a => .ok a
  | .error (.wait n) => .error (.wait n)
  | .error (.cause n cls det) => .error (.bad n cls det 0)
/-- Registers reloaded from the frame at RETT by loads of the LS path, the write queue being empty. -/
def readFrame (s : State) (c : CoreId) (va : Nat) : Except FrameErr (State × Regs) :=
  match privXlate s c va ⟨false, false, false⟩ with
  | .error (.wait n) => .error (.wait n)
  | .error (.bad n det lvl) => .error (.bad n 5 det lvl)
  | .ok (s, pa, _) =>
    if (cutLines pa 336).any fun l => Sparse.get false s.poison (l.1 / 128) then .error (.bad .none 20 1 0)
    else do
      let (s, bs) ← atFrame (lsReadHome s c (pa + 8) 328)
      let (s, tg) ← (List.range 4).foldlM (init := (s, ([] : List Bool))) fun x i => do
        let r ← atFrame (lsRead1 x.1 c (pa + 272 + 16 * i) 16)
        pure (r.1, x.2 ++ [r.2.2])
      let g := (s.core c).t.regs
      let word : Nat → Nat → Nat := fun o n => bytesToNat ((bs.drop o).take n)
      let sv : Vector Word 32 := Vector.ofFn fun i => if i.val = 0 then 0 else BitVec.ofNat 64 (word (8 * (i.val - 1)) 8)
      let cv : Vector Cap 16 := Vector.ofFn fun i =>
        if i.val < 4 then ⟨BitVec.ofNat 128 (word (264 + 16 * i.val) 16), tg.getD i.val false⟩ else g.c.get i
      pure (s, { g with s := sv, sp := (BitVec.ofNat 8 (word 248 1) &&& 0xFE#8) ||| 1#8, c := cv })

/-- A bundle that is re-entered. The registers that name tables, and CHKCTL, are read as they stand then: tables are not in the
snapshot (16 R397, log 62; 10 R245). -/
def Inflight.reenter (f : Inflight) (y : Sys) (now : Nat) : Inflight :=
  { f with sys := { f.sys with chkctl := y.chkctl, ptroot := y.ptroot, rtbase := y.rtbase, rtcnt := y.rtcnt, etbase := y.etbase
                               etcnt := y.etcnt, ptbase := y.ptbase, spbase := y.spbase, spcnt := y.spcnt, albase := y.albase }
           at_ := now, since := none, back := true }
/-- RETT (16 R401): called once the handler's landing queue is empty and no handler load is pending. -/
def rettOp (s : State) (c : CoreId) : Op State :=
  let k := s.core c
  if (List.finRange 4).any fun i => (k.t.loops.get i).act then raise s 16 0
  else
    let va := match k.task with | some t => frameVa t c | none => 512 * c.val
    match readFrame s c va with
    | .error (.wait n) => freeze (s.noted n)
    | .error (.bad n cls det lvl) =>
      raise (s.noted n) cls det (if cls = 20 then 0 else va)
        (if cls = 5 then xlInfo (asidFor k.ctx.asid.toNat va) true false false false lvl else 0)
    | .ok (s, g) =>
      .ok (s.modCore c fun k =>
        let y := k.t.sys
        let a : Aside := k.t.aside.getD ⟨[], [], [], Vector.replicate 4 Loop.unbound, none, none, none, false⟩
        let brk : Bool := y.cause.extractLsb' 4 5 == 22#5
        let st := setBit (setBit (setBit y.status 0 (y.status.getLsbD 2)) 1 false) 3 (y.status.getLsbD 3 || brk)
        let new := y.slotres.getLsbD 14
        let g := a.arrived.foldl (fun g r => r.apply g) g
        let pc := (y.epc.extractLsb' 0 24).toNat
        { k with t := { k.t with
            sys := { y with status := st }, regs := g, aside := none
            land := a.land, loads := a.loads, loops := a.loops
            pc := pc
            fl := if new || !y.slotres.getLsbD 9 then none else a.fl.map fun f => f.reenter y s.now
            completing := a.completing
            pend := k.t.pend.map fun q => { q with held := false }
            rep := if new then none else if y.slotres.getLsbD 9 then none else a.rep
            atPass := !new && !y.slotres.getLsbD 9 && a.atPass }
                 walkAns := none })

/-! ## Meanings -/

/-- A slot whose effect is done leaves the bundle in flight. -/
def commit (s : State) : State :=
  s.modT fun t => { t with fl := t.fl.map fun f => { f with todo := f.todo.drop 1, since := none } }
/-- A slot that waits keeps the cycle in which it began to. -/
def hold (s : State) : State :=
  s.modK fun k =>
    { k with frozen := true, t := { k.t with fl := k.t.fl.map fun f => { f with since := some (f.since.getD s.now) } } }

/-- Turns an operation of the running core's slot into an outcome: commit, freeze, trap. -/
def finish (r : Op State) : Res1 :=
  match r with
  | .ok s => .next (commit s)
  | .error (.freeze s) => .next (hold s)
  | .error (.flt s done f) => .next (takeFault s s.cur f (precisePoint s.k done))
  | .error (.done s) => .next (commit s)

/-- The same for an action that is no slot of a bundle: nothing is committed or trapped. -/
def finishEv (s0 : State) (r : Op State) : Res1 :=
  match r with
  | .ok s => .next s
  | .error (.freeze s) => .next s
  | .error (.flt _ _ _) => .next s0
  | .error (.done s) => .next s

/-- A pending boundary fault of a core (16 R394). -/
def pendFault (s : State) (c : CoreId) (f : FaultRec) : State :=
  s.modCore c fun k => { k with t := { k.t with pend := k.t.pend ++ [⟨f, false⟩] } }

end Sys2Proof.Machine
end

