-- ==== Sys2Proof/Machine/Grids.lean ====
section
/-!
DEFINITION. Grids as the ready queues hold them (spec 08 R186; 09 R211, R223): the tasks of each die's part, and the entry of
a grid that waits for nothing more.
-/

namespace Sys2Proof.Machine

def findGrid (s : State) (gid : Nat) : Option Grid := s.grids.find? fun g => g.gid == gid
def modGrid (s : State) (gid : Nat) (f : Grid → Grid) : State :=
  { s with grids := s.grids.map fun g => if g.gid = gid then f g else g }
def Level.isT (l : Level) : Bool := l.kind == 0
def Level.isD (l : Level) : Bool := l.kind == 2

/-! ## Tasks of a grid (08 R186; 09 R211) -/

def Img.spatial (i : Img) : List Level := i.levels.filter fun l => !l.isT
/-- Iterations a spatial level creates: EXTENT, or the positions drawn of its list. -/
def Grid.effExt (g : Grid) (l : Level) : Nat := if l.list then g.draws.length else l.extent.toNat
def natProd (l : List Nat) : Nat := l.foldl (· * ·) 1
/-- Radices of the tasks that belong to die d, the D digit standing fixed; none when the die has no part. -/
def Grid.partRadices (g : Grid) (d : DieId) : Option (List Nat) :=
  let sp := g.img.spatial
  if g.dieOf < 4 then (if g.dieOf = d.val then some (sp.map g.effExt) else none)
  else match sp.find? Level.isD with
    | some l => if d.val < l.extent.toNat then some (sp.map fun l => if l.isD then 1 else g.effExt l) else none
    | none => if d.val = 0 then some (sp.map g.effExt) else none
def Grid.partSize (g : Grid) (d : DieId) : Nat := match g.partRadices d with | some r => natProd r | none => 0
def Grid.size (g : Grid) : Nat := allDies.foldl (fun n d => n + g.partSize d) 0
def Grid.startedOn (g : Grid) (d : DieId) : Nat := g.started.getD d.val 0
/-- Tasks of a die's part not yet placed. -/
def Grid.remaining (g : Grid) (d : DieId) : Nat := if g.cancelled then 0 else g.partSize d - g.startedOn d
/-- Digits of number n in a mixed radix, the most significant first. -/
def digitsOf : List Nat → Nat → List Nat
  | [], _ => []
  | r :: rs, n => let t := natProd rs; (n / t % max 1 r) :: digitsOf rs n
/-- Digits of the n-th task of a die's part. -/
def Grid.digits (g : Grid) (d : DieId) (n : Nat) : List Nat :=
  let ds := digitsOf ((g.partRadices d).getD []) n
  (g.img.spatial.zip ds).map fun x => if x.1.isD && g.dieOf ≥ 4 then d.val else x.2
/-- TASKID.IDX: the mixed-radix number of the digits, every radix its EXTENT. -/
def linIndex (ls : List Level) (ds : List Nat) : Nat := (ls.zip ds).foldl (fun n x => n * x.1.extent.toNat + x.2) 0
/-- LDIE: the D iteration number. -/
def ldieOf (ls : List Level) (ds : List Nat) : Nat := match (ls.zip ds).find? (fun x => x.1.isD) with | some x => x.2 | none => 0

/-! ## Entering the ready queues (09 R211, R223) -/

def Grid.listLevel (g : Grid) : Option Level := g.img.levels.find? Level.list
/-- STARTEV has reached zero and the queue's previous grid has completed. -/
def Grid.startable (s : State) (g : Grid) : Bool :=
  !g.entered && !g.cancelled && g.waiting.isNone && (match g.prev with | some p => (findGrid s p).isNone | none => true)
/-- The slice that holds a grid's entry for a die: that die's, or while its core domain does not run the one that accepted the
grid (18 R443). -/
def entrySlice (s : State) (g : Grid) (d : DieId) : DieId := if (s.die d).dom = .running then d else g.qdie
/-- The entries of a grid join the ready queues of its dies at the tail of level PRIO. -/
def enterGrid (s : State) (g : Grid) : State :=
  let s := modGrid s g.gid fun g => { g with entered := true, total := g.size }
  allDies.foldl (fun s d =>
    if g.partSize d = 0 then s
    else s.modDie (entrySlice s g d) fun x => { x with ready := x.ready ++ [⟨g.gid, d, none, g.level, s.now⟩] }) s
/-- Every grid that waits for nothing more enters; a list-driven one once its list has been swapped. -/
def enterGrids (s : State) : State :=
  s.grids.foldl (fun s g => if g.startable s && g.listLevel.isNone then enterGrid s g else s) s

end Sys2Proof.Machine
end

