-- ==== Sys2Proof/Machine/Operands.lean ====
section
/-!
DEFINITION. Operand forms (spec 10 R231 to R238, R246; 11 R255, R278; 12 R289; 13 R317): what a slot reads at
issue, guards, vector sources and destinations, stream pops and pushes, random bytes, memory operands.
-/

namespace Sys2Proof.Machine

/-! ## The issue view: a slot of a bundle in flight reads the snapshot taken at issue (10 R231) -/

def State.iregs (s : State) : Regs := match s.k.t.fl with | some f => f.regs | none => s.k.t.regs
def State.isys (s : State) : Sys := s.k.y
/-- Slot number of the running slot; `d` when it stands alone. -/
def State.slotNo (s : State) (d : Nat) : Nat := match s.k.t.fl with | some f => f.slot | none => d
/-- Unit of the bundle in flight. -/
def State.unitNo (s : State) : Nat := match s.k.t.fl with | some f => f.unit | none => s.k.t.pc
/-- Unit after the bundle in flight. -/
def State.nextUnit (s : State) : Nat := match s.k.t.fl with | some f => f.next | none => s.k.t.pc + 1
/-- Whether the running slot is dual (15 R372). -/
def State.dual (s : State) : Bool := match s.k.t.fl with | some f => f.dual | none => s.isys.dualctl.getLsbD 3
/-- DUALCTL.K at issue. -/
def State.dk (s : State) : Nat := min 4 (s.isys.dualctl.extractLsb' 0 3).toNat
/-- Tangents the running slot computes. -/
def State.tk (s : State) : Nat := if s.dual then s.dk else 0
def State.ftz (s : State) : Bool := s.isys.fpctl.getLsbD 3
/-- FPCTL.RM as a mode (02 Table 2.4). -/
def rmOfFpctl (w : Word) : RMode :=
  match (w.extractLsb' 0 3).toNat with | 1 => .rtz | 2 => .rup | 3 => .rdn | 4 => .sr | _ => .rne
def State.mode (s : State) (m : RMode) : RMode := if m = .dyn then rmOfFpctl s.isys.fpctl else m

/-! ## Scalar operands -/

/-- A scalar register as read at issue; s0 reads 0 (10 Table 10.4). -/
def State.sR (s : State) (r : SReg) : Word := if r = 0 then 0 else s.iregs.s.get r.toFin
/-- Tangent k (from 1) of a scalar register; above DUALCTL.K it reads +0 (15 R373). -/
def State.sTan (s : State) (r : SReg) (k : Nat) : BitVec 32 :=
  if r = 0 ∨ k = 0 ∨ s.dk < k then 0 else ((s.iregs.sd.get r.toFin).toList.drop (k - 1)).headD 0
/-- A scalar predicate; sp0 is true. -/
def State.sP (s : State) (p : BitVec 3) : Bool := if p = 0 then true else s.iregs.sp.getLsbD p.toNat
/-- Guard of S and L: bit 3 negates (10 R236). -/
def State.guard (s : State) (g : Guard) : Bool := (s.sP (g.extractLsb' 0 3)) != g.getLsbD 3
def State.cR (s : State) (c : CReg) : Cap := s.iregs.c.get c.toFin
/-- B of an integer form (11 R255). -/
def State.srcB (s : State) : SSrc → Word
  | .reg b => s.sR b
  | .imm v => v.signExtend 64

/-- Runs a guarded S or L slot: guarded off, it commits nothing and raises nothing (10 R247). -/
def guarded (g : Guard) (s : State) (body : Op State) : Res1 := finish (if s.guard g then body else .ok s)

/-- A scalar result of latency n without tangents (15 R380). -/
def State.outS (s : State) (n : Nat) (d : SReg) (x : Word) : State := s.land n (.s d x STan.zero)
def State.outP (s : State) (n : Nat) (p : BitVec 3) (b : Bool) : State := s.land n (.p p b)

/-! ## Memory operands (13 R317, 01 R31) -/

/-- Signed offset s[index] + imm * scale, exact. -/
def State.memOff {w : Nat} (s : State) (idx : SReg) (imm : BitVec w) (scale : Nat) : Int :=
  (s.sR idx).toInt + imm.toInt * scale
/-- Event name of an event operand; raises class 14 detail 0 (11 R278). -/
def State.evName (s : State) (name : Word) : Op Nat :=
  if name.toNat < (s.isys.etcnt.extractLsb' 0 17).toNat then .ok name.toNat else raise s 14 0
def State.evOp (s : State) (e : EvOp) : Word := s.sR e.idx + e.imm.signExtend 64

/-! ## Rows and lanes (02 R42; 12 R289) -/

def lane (r : Row) (i : Nat) : Nat := (r.toNat >>> (32 * i)) % 2 ^ 32
def lanesNat (f : Nat → Nat) : Nat → Nat → Nat
  | 0, _ => 0
  | k + 1, i => f i % 2 ^ 32 + 2 ^ 32 * lanesNat f k (i + 1)
/-- A row from its 128 lanes. -/
def rowOf (f : Nat → Nat) : Row := BitVec.ofNat 4096 (lanesNat f 128 0)
def elem (w x j : Nat) : Nat := x / 2 ^ (w * j) % 2 ^ w
def elemsNat (w : Nat) (f : Nat → Nat) : Nat → Nat → Nat
  | 0, _ => 0
  | k + 1, j => f j % 2 ^ w + 2 ^ w * elemsNat w f k (j + 1)
/-- A 32-bit lane from its elements of width w. -/
def laneOf (w : Nat) (f : Nat → Nat) : Nat := elemsNat w f (32 / w) 0

/-- Enabled lanes of a vector slot: section mask and lane guard (10 R246, 12 R289). -/
def maskLanes (m : BitVec 8) : BitVec 128 :=
  (List.range 8).foldl (fun x i => if m.getLsbD i then x ||| (0xFFFF#128 <<< (16 * i)) else x) 0
def State.vP (s : State) (p : BitVec 3) : BitVec 128 := if p = 0 then BitVec.allOnes 128 else s.iregs.vp.get p.toFin
def State.enabled (s : State) (g : VG) : BitVec 128 := maskLanes g.mask &&& s.vP g.p

/-! ## Streams (10 R235, 13 R340) -/

def getStream (t : TState) (q : BitVec 4) : Stream := t.streams.get q.toFin
def putStream (t : TState) (q : BitVec 4) (x : Stream) : TState := { t with streams := t.streams.set q.toFin x }
/-- A fill whose last row was popped becomes unbound (13 R341). -/
def settleFill (x : Stream) : Stream := if x.bind = .fill ∧ x.rows = [] ∧ x.left = 0 ∧ x.failed = false then Stream.unbound else x

/-- Pops one row: none means issue freezes. -/
def popOne (t : TState) (q : BitVec 4) : Option (TState × Popped) :=
  let x := getStream t q
  match x.bind with
  | .unbound => some (t, ⟨q, some 0, 0⟩)
  | .drain => some (t, ⟨q, some 1, 0⟩)
  | .fill =>
    match x.rows with
    | r :: rest => some (putStream t q (settleFill { x with rows := rest }), ⟨q, none, r⟩)
    | [] => if x.failed then some (t, ⟨q, some 3, 0⟩) else none
def popAll : TState → List (BitVec 4) → Option (TState × List Popped)
  | t, [] => some (t, [])
  | t, q :: qs =>
    match popOne t q with
    | none => none
    | some (t, p) => (popAll t qs).map fun (t, ps) => (t, p :: ps)

/-- Whether pushes to the streams named can be taken without waiting. -/
def pushRoom (t : TState) (qs : List (BitVec 4)) : Bool :=
  qs.all fun q =>
    let x := getStream t q
    x.bind != .drain || x.closed || x.left == 0 || decide (x.rows.length + (qs.filter (· == q)).length ≤ 4)

/-- Pushes one row, or raises class 8 (13 R340, R341). -/
def pushRow (s : State) (q : BitVec 4) (r : Row) : Op State :=
  let x := getStream s.k.t q
  match x.bind with
  | .unbound => raise s 8 q.toNat 0 0
  | .fill => raise s 8 q.toNat 0 1
  | .drain =>
    if x.closed ∨ x.left = 0 then raise s 8 q.toNat 0 2
    else if x.rows.length ≥ 4 then freeze s
    else .ok (s.modT fun t => putStream t q { x with rows := x.rows ++ [r], left := x.left - 1 })

/-! ## Vector sources -/

/-- A vector operand: 128 lanes and their tangents. -/
structure VIn where
  (x : Row) (t : VTan4)
  deriving DecidableEq, Repr

def VSrc.pops : VSrc → List (BitVec 4)
  | .pop q => [q]
  | _ => []

/-- A source operand; pops are taken from those made at issue, in operand order (10 R235). -/
def readV (s : State) (src : VSrc) (ps : List Popped) : Op (VIn × List Popped) :=
  let g := s.iregs
  match src with
  | .reg n => .ok (⟨g.v.get n.toFin, g.vd.get n.toFin⟩, ps)
  | .v0l => .ok (⟨g.vl.get 0, g.vld.get 0⟩, ps)
  | .v1l => .ok (⟨g.vl.get 1, g.vld.get 1⟩, ps)
  | .zero => .ok (⟨0, VTan4.zero⟩, ps)
  | .pop _ =>
    match ps with
    | p :: rest =>
      match p.err with
      | some r => raise s 8 p.q.toNat 0 (r.setWidth 64)
      | none => .ok (⟨p.row, VTan4.zero⟩, rest)
    | [] => freeze s

def readVs (s : State) : List VSrc → List Popped → Op (List VIn × List Popped)
  | [], ps => .ok ([], ps)
  | x :: xs, ps => do
    let (a, ps) ← readV s x ps
    let (as, ps) ← readVs s xs ps
    pure (a :: as, ps)

/-- Tangent k (from 1) of lane i of an operand; above DUALCTL.K it reads +0. -/
def State.vTan (s : State) (a : VIn) (k i : Nat) : Nat :=
  if k = 0 ∨ s.dk < k then 0 else lane ((a.t.toList.drop (k - 1)).headD 0) i

/-! ## Random bytes (02 R51) -/

def rotl8 (b n : Nat) : Nat := (b * 2 ^ (n % 8) + b / 2 ^ (8 - n % 8)) % 256
def randByte (w : BitVec 1024) (l j : Nat) : Nat := rotl8 (w.toNat / 2 ^ (8 * l) % 256) (3 * j)
/-- Pops the RBQ's head word; none while it is empty (12 R314). -/
def popRbq (t : TState) : Option (TState × RWord) :=
  match t.rbq with
  | w :: rest => some ({ t with rbq := rest }, w)
  | [] => none
/-- The word that a bundle in flight took. -/
def Inflight.word (f : Inflight) : BitVec 1024 := match f.rbq with | some w => w.w | none => 0

/-- Whether a rounding code selects SR (10 R238). -/
def State.usesSR (s : State) (m : RMode) : Bool := s.mode m == .sr

/-! ## Running a vector slot -/

/-- What a vector body gets: the operands, the random word, the enabled lanes, the slot's number. -/
structure VArgs where
  (ins : List VIn) (rand : BitVec 1024) (en : BitVec 128) (slot : Nat)
  deriving DecidableEq, Repr
def VArgs.a (x : VArgs) : VIn := x.ins.headD ⟨0, VTan4.zero⟩
def VArgs.b (x : VArgs) : VIn := (x.ins.drop 1).headD ⟨0, VTan4.zero⟩
def VArgs.c (x : VArgs) : VIn := (x.ins.drop 2).headD ⟨0, VTan4.zero⟩

/-- Operands of a slot: those taken at issue when it is in flight, else taken now. -/
def gather (s : State) (srcs : List VSrc) (sr : Bool) : Op (State × List VIn × BitVec 1024) :=
  match s.k.t.fl with
  | some f => do
    let (ins, rest) ← readVs s srcs f.pops
    if sr && f.rbq.isNone then freeze s
    else pure (s.modT fun t => { t with fl := some { f with pops := rest } }, ins, f.word)
  | none =>
    match popAll s.k.t (srcs.flatMap VSrc.pops) with
    | none => freeze s
    | some (t, ps) =>
      match (if sr then (popRbq t).map fun x => (x.1, x.2.w) else some (t, 0)) with
      | none => freeze s
      | some (t, w) => do
        let (ins, _) ← readVs s srcs ps
        pure (s.modT fun _ => t, ins, w)

/-- A slot that faults keeps the rows it popped in its bundle's snapshot (16 R397). -/
def keepPops (s0 : State) (r : Op State) : Op State :=
  match r with
  | .error (.flt s done f) =>
    .error (.flt (s.modT fun t => { t with fl := t.fl.map fun x => { x with pops := (s0.k.t.fl.map Inflight.pops).getD x.pops } }) done f)
  | r => r
/-- Runs a vector slot that reads the sources named: guarded off when no lane is enabled (10 R246). -/
def vecSlot (g : VG) (srcs : List VSrc) (sr : Bool) (s : State) (body : State → VArgs → Op State) : Res1 :=
  finish (if s.enabled g = 0 then .ok s
    else match (do
        let (s', ins, w) ← gather s srcs sr
        body s' ⟨ins, w, s.enabled g, s.slotNo 3⟩ : Op State) with
      | .error (.freeze _) => freeze s
      | r => keepPops s r)

/-- Latch of a vector slot. -/
def latchOf (slot : Nat) : BitVec 1 := if slot = 4 then 1 else 0

/-- Writes a vector result of latency n: register and latch, latch alone, or stream and latch (10 R234, R235).
The lanes of a pushed row that are not enabled are free values (log 22). -/
def outV (s : State) (n : Nat) (d : VDst) (slot : Nat) (en : BitVec 128) (x : Row) (t : VTan4) : Op State :=
  match d with
  | .reg r => .ok (s.land n (.v (some r) (some (latchOf slot)) en x t))
  | .latch => .ok (s.land n (.v none (some (latchOf slot)) en x t))
  | .push q => do
    let s ← pushRow s q (mergeLanes (Config.freeRow s.fresh) x en)
    pure ((s.tickFresh).land n (.v none (some (latchOf slot)) en x t))

/-- The row whose enabled lanes f gives. -/
def rowEn (en : BitVec 128) (f : Nat → Nat) : Row := rowOf fun i => if en.getLsbD i then f i else 0
/-- Tangent rows 1 to k given by f. -/
def tanEn (k : Nat) (en : BitVec 128) (f : Nat → Nat → Nat) : VTan4 :=
  Vector.ofFn fun i => if i.val < k then rowEn en (f (i.val + 1)) else 0

end Sys2Proof.Machine
end

