-- ==== Sys2Proof/Machine/Flags.lean ====
section
/-!
DEFINITION. Flags: compare conditions and predicates (spec 11 R259, R263; 12 R297), and the completion flags f0
to f15 (13 R334): claiming, completing, reporting an error.
-/

namespace Sys2Proof.Machine

/-- Float conditions (11 R263): with a NaN, EQ, LT, LE and ORD are false, NE and UN true. -/
def condF (c : Cond) (a b : NumFmt.XV) : Bool :=
  match NumFmt.cmp a b, c with
  | none, .ne => true | none, .un => true | none, _ => false
  | some o, .eq => o == .eq | some o, .ne => o != .eq | some o, .lt => o == .lt | some o, .le => o != .gt
  | some _, .un => false | some _, .ord => true

/-- Integer conditions of VCMP. -/
def condI (c : Cond) (a b : Int) : Bool :=
  match c with
  | .eq => a == b | .ne => a != b | .lt => decide (a < b) | .le => decide (a ≤ b) | .un => false | .ord => true

/-- Branch conditions (11 Table 11.2). -/
def condB (c : BCond) (a : Word) : Bool :=
  let x := a.toInt
  match c with
  | .eqz => x == 0 | .nez => x != 0 | .ltz => decide (x < 0) | .gez => decide (0 ≤ x) | .gtz => decide (0 < x)
  | .lez => decide (x ≤ 0)

/-! ## Completion flags -/

def getFlag (t : TState) (f : Flag) : FlagSt := t.flags.get f.toFin
def putFlag (t : TState) (f : Flag) (x : FlagSt) : TState := { t with flags := t.flags.set f.toFin x }

/-- A flag can be claimed when idle, or in error under a copy or a collective (13 R334). -/
def claimable (x : FlagSt) : Bool := x.state == 0#2 || (x.state == 3#2 && (x.hold == 1#2 || x.hold == 3#2))
def claimed (hold : BitVec 2) (eng : BitVec 3) (ev : Option (BitVec 16)) : FlagSt := ⟨1, hold, eng, ev, 0, 0, 0⟩

/-- Changes the state of a task, resident or switched out (16 R411). -/
def modTask (s : State) (uid : Nat) (f : TState → TState) : State :=
  match allCores.find? (fun c => match (s.core c).task with | some t => t.uid == uid | none => false) with
  | some c => s.modCore c fun k => { k with t := f k.t }
  | none => { s with saved := s.saved.map fun x => if x.uid = uid then { x with t := f x.t } else x }
def taskState (s : State) (uid : Nat) : Option TState :=
  match allCores.find? (fun c => match (s.core c).task with | some t => t.uid == uid | none => false) with
  | some c => some (s.core c).t
  | none => (s.saved.find? (fun x => x.uid == uid)).map Saved.t

/-- MWTS of an operation of a task that ends: of its copies, or of its collectives (07 R168, R170). -/
def TState.opDone (t : TState) (coll : Bool) (mwts : Nat) : TState :=
  if coll then { t with mwts := max t.mwts mwts, mwcl := max t.mwcl mwts } else { t with mwts := max t.mwts mwts, mwcp := max t.mwcp mwts }
/-- An operation of a task that a grid-fatal fault has ended: its grid completes after it (07 R175). -/
def lagDone (s : State) (uid mwts : Nat) : State :=
  { s with grids := s.grids.map fun g => if g.lag.contains uid then { g with mwts := max g.mwts mwts } else g }
/-- The flag of an operation reads done (13 R338), carrying its MWTS. -/
def flagDone (s : State) (uid : Nat) (f : Option Flag) (mwts : Nat) (coll : Bool := false) : State :=
  modTask (lagDone s uid mwts) uid fun t =>
    let t := t.opDone coll mwts
    match f with
    | some f => putFlag t f { getFlag t f with state := 2, mwts := mwts }
    | none => t
/-- The flag reads error with its cause and address (13 R338). -/
def flagError (s : State) (uid : Nat) (f : Option Flag) (cls det addr mwts : Nat) (coll : Bool := false) : State :=
  modTask (lagDone s uid mwts) uid fun t =>
    let t := t.opDone coll mwts
    match f with
    | some f => putFlag t f { getFlag t f with state := 3, cause := BitVec.ofNat 9 (cls * 16 + det),
                                               addr := BitVec.ofNat 57 addr, mwts := mwts }
    | none => t

/-- The observing wait of 07 R173. -/
def observe (k : Core) (mwts : Nat) : Core := { k with pts := max k.pts mwts }

end Sys2Proof.Machine
end

