-- ==== Sys2Proof/Machine/ScalarFloat.lean ====
section
/-!
DEFINITION. Scalar floating point (spec 11 R260 to R263) with its tangents (15 R375, R376, R379), and the exact
tangent terms the vector forms share.
-/

namespace Sys2Proof.Machine

open Sys2Proof.NumFmt (XV)

/-! ## Tangent terms (15 R375): a zero tangent factor contributes nothing -/

def tterm (d : XV) : List XV := if d.isZero then [] else [d]
def tmul (d x : XV) : List XV := if d.isZero then [] else [NumFmt.mul d x]
def tsum (ts : List XV) : XV := if ts.isEmpty then XV.zero false else NumFmt.sum false ts
/-- A tangent rounded once, RNE, into a format (15 R375). -/
def tround (f : Fmt) (ftz : Bool) (x : XV) : Nat := NumFmt.arith f .rne false ftz 0 x

/-- Raises class 1 with the slot's number and a reason (10 R249). -/
def raise1 {α : Type} (s : State) (slot reason : Nat) : Op α := raise s 1 slot 0 (BitVec.ofNat 64 reason)

/-! ## Scalar values -/

def State.sF (s : State) (f : Fmt) (r : SReg) : XV := NumFmt.decode f (s.sR r).toNat
/-- Tangent k of a scalar register as a value of the format its layout has (15 R374). -/
def State.sdF (s : State) (f : Fmt) (r : SReg) (k : Nat) : XV := NumFmt.decode f (s.sTan r k).toNat

def negIf (b : Bool) (x : XV) : XV := if b then x.neg else x

/-- A scalar float result of latency 4 with tangents 1 to K. -/
def outF (s : State) (d : SReg) (f : Fmt) (rm : RMode) (sat : Bool) (r : XV) (tan : Nat → XV) : State :=
  s.land 4 (.s d (BitVec.ofNat 64 (NumFmt.arith f (s.mode rm) sat s.ftz 0 r))
    (Vector.ofFn fun i => if i.val < s.tk then BitVec.ofNat 32 (tround f s.ftz (tan (i.val + 1))) else 0))

/-- Runs a scalar float slot; DYN while FPCTL.RM selects SR is refused (11 R260). -/
def sfOp (g : Guard) (rm : RMode) (s : State) (body : Op State) : Res1 :=
  guarded g s (if s.usesSR rm then raise1 s 0 3 else body)

def isRdn (s : State) (m : RMode) : Bool := s.mode m == .rdn

def execSfadd (o : SFlt) (s : State) : Res1 :=
  sfOp o.g o.rm s (.ok (outF s o.d o.fmt o.rm o.sat
    (NumFmt.sum (isRdn s o.rm) [s.sF o.fmt o.a, negIf o.np (s.sF o.fmt o.b)])
    fun k => tsum (tterm (s.sdF o.fmt o.a k) ++ tterm (negIf o.np (s.sdF o.fmt o.b k)))))

def execSfmul (o : SFlt) (s : State) : Res1 :=
  sfOp o.g o.rm s (.ok (outF s o.d o.fmt o.rm o.sat
    (negIf o.np (NumFmt.mul (s.sF o.fmt o.a) (s.sF o.fmt o.b)))
    fun k => tsum ((tmul (s.sdF o.fmt o.a k) (s.sF o.fmt o.b) ++ tmul (s.sdF o.fmt o.b k) (s.sF o.fmt o.a)).map (negIf o.np))))

def execSffma (o : SFma) (s : State) : Res1 :=
  sfOp o.g o.rm s (.ok (outF s o.d o.fmt o.rm o.sat
    (NumFmt.sum (isRdn s o.rm) [negIf o.np (NumFmt.mul (s.sF o.fmt o.a) (s.sF o.fmt o.b)), negIf o.nc (s.sF o.fmt o.d)])
    fun k => tsum ((tmul (s.sdF o.fmt o.a k) (s.sF o.fmt o.b) ++ tmul (s.sdF o.fmt o.b k) (s.sF o.fmt o.a)).map (negIf o.np)
                   ++ tterm (negIf o.nc (s.sdF o.fmt o.d k)))))

/-- Format DUALCTL.TFMT names (15 Table 15.1). -/
def tfmt (y : Sys) : Fmt := if y.dualctl.getLsbD 4 then .f32 else .bf16
/-- A tangent decoded and rounded to a format, RNE with FTZ (15 R375, R379, R382). -/
def tanCvt (src dst : Fmt) (ftz : Bool) (dt : Nat) : Nat := (NumFmt.roundTo dst .rne false ftz 0 (NumFmt.decode src dt)).1
/-- Tangent of a conversion (15 R379): dt is the source's tangent in the layout its format has; that of a narrow result is
rounded to TFMT and widened exactly to FP32. -/
def tconv (y : Sys) (ftz : Bool) (src dst : Fmt) (dt : Nat) : Nat :=
  if src.isInt || dst.isInt then 0
  else
    let l := if NumFmt.wide src then src else .f32
    if NumFmt.wide dst then tanCvt l dst ftz dt
    else tanCvt (tfmt y) .f32 false (tanCvt l (tfmt y) ftz dt)

/-- An integer of w bits extended to 64 by the format's signedness (11 R262). -/
def extInt (f : Fmt) (x : Nat) : Word :=
  if NumFmt.signed f then BitVec.ofInt 64 (NumFmt.toSigned (NumFmt.width f) x) else BitVec.ofNat 64 (x % 2 ^ NumFmt.width f)

def execSfcvt (o : SFCvt) (s : State) : Res1 :=
  sfOp o.g o.rm s
    (let r := (NumFmt.convert o.src o.dst (s.mode o.rm) o.sat s.ftz 0 0 (s.sR o.a).toNat).1
     .ok (s.land 4 (.s o.d (if o.dst.isInt then extInt o.dst r else BitVec.ofNat 64 r)
       (Vector.ofFn fun i => if i.val < s.tk
         then BitVec.ofNat 32 (tconv s.isys s.ftz o.src o.dst ((s.sTan o.a (i.val + 1)).toNat)) else 0))))

def execSfcmp (o : SFCmp) (s : State) : Res1 :=
  guarded o.g s (.ok (s.outP 4 o.p (condF o.cond (s.sF o.fmt o.a) (s.sF o.fmt o.b))))

end Sys2Proof.Machine
end

