-- ==== Sys2Proof/Machine/Special.lean ====
section
/-!
DEFINITION. The special functions (spec 12 R294, Table 12.2): the unit's value F, free inside the error bound, and the
special values. The true values are computed in fixed point, far below every bound.
-/

namespace Sys2Proof.NumFmt

/-! ## True values -/

/-- ln 2 in units of 2^-128, and 2 pi in units of 2^-160, rounded down. -/
def lnTwo128 : Int := 235865763225513294137944142764154484399
def twoPi160 : Int := 9182885614096437842769610399486622256908310048836

/-- A nonnegative finite value in units of 2^-k, rounded down. -/
def fixed (k : Nat) : XV → Int
  | .fin _ n e _ => if 0 ≤ e + k then ((n * 2 ^ (e + k).toNat : Nat) : Int) else ((n / 2 ^ (-(e + k)).toNat : Nat) : Int)
  | _ => 0
/-- A fixed-point number as a value that is not exact. -/
def ofFixed (k : Int) (v : Int) : XV := .fin (decide (v < 0)) v.natAbs (-k) true

/-- The series 1 + y (1 + y/2 (1 + y/3 ...)) from term i on, in units of 2^-128. -/
def expSeries (y : Int) : Nat → Nat → Int
  | 0, _ => 2 ^ 128
  | k + 1, i => 2 ^ 128 + y * expSeries y k (i + 1) / (2 ^ 128 * (i : Int))
/-- 2^x of a finite x; beyond every format's range it is 2^1024 or 2^-1024. -/
def exp2True (x : XV) : XV :=
  if cmp x.abs (XV.ofInt 1024) == some .gt then .fin false 1 (if x.sign then -1024 else 1024) false
  else
    let m := fixed 128 x.abs
    let v := if x.sign then -m else m
    let whole := v / 2 ^ 128
    (ofFixed 128 (expSeries (v % 2 ^ 128 * lnTwo128 / 2 ^ 128) 44 1)).scale whole

/-- The series of artanh z = z (1 + z^2/3 + z^4/5 + ...) without its first factor, from term 2i + 1 on. -/
def artanhSeries (z2 : Int) : Nat → Nat → Int
  | 0, _ => 0
  | k + 1, i => 2 ^ 128 / (2 * (i : Int) + 1) + z2 * artanhSeries z2 k (i + 1) / 2 ^ 128
/-- log2 x of a finite x above 0. -/
def log2True : XV → XV
  | .fin _ n e _ =>
    let l := Nat.log2 n
    let m : Int := ((n * 2 ^ 128 / 2 ^ l : Nat) : Int)
    let z := (m - 2 ^ 128) * 2 ^ 128 / (m + 2 ^ 128)
    let ln := 2 * z * artanhSeries (z * z / 2 ^ 128) 44 0 / 2 ^ 128
    if z = 0 then XV.ofInt (e + l) else ofFixed 128 ((e + l) * 2 ^ 128 + ln * 2 ^ 128 / lnTwo128)
  | x => x

/-- The series 1 - y/(i (i+1)) (1 - y/((i+2)(i+3)) ...) in units of 2^-160. -/
def trigSeries (y : Int) : Nat → Nat → Int
  | 0, _ => 2 ^ 160
  | k + 1, i => 2 ^ 160 - y * trigSeries y k (i + 2) / (2 ^ 160 * ((i : Int) * (i + 1)))
/-- sin or cos of a finite x. -/
def trigTrue (cosine : Bool) (x : XV) : XV :=
  let r := fixed 160 x.abs % twoPi160
  let y := r * r / 2 ^ 160
  if cosine then ofFixed 160 (trigSeries y 40 1)
  else
    let v := r * trigSeries y 40 2 / 2 ^ 160
    ofFixed 160 (if x.sign then -v else v)

/-! ## F inside its bound -/

/-- F(x) as a value: sign in bit 63, exponent in bits [62:31] two's complement, 30 fraction bits. -/
def specialVal (fn : Nat) (x32 : Nat) : XV :=
  let w := (Config.specialF fn (BitVec.ofNat 32 x32)).toNat
  .fin (w / 2 ^ 63 == 1) (2 ^ 30 + w % 2 ^ 30) (toSigned 32 (w / 2 ^ 31 % 2 ^ 32) - 30) false

/-- A true value cut to F's 31 significant bits. -/
def cutF : XV → XV
  | .fin s n e _ => let l := Nat.log2 n; if l ≤ 30 then .fin s n e false else .fin s (n / 2 ^ (l - 30)) (e + ((l - 30 : Nat) : Int)) false
  | x => x
/-- The FP32 result under RNE, whose error the bound limits. -/
def fp32Of (x : XV) : XV := decode .f32 (roundTo .f32 .rne false false 0 x).1
/-- One unit in the last place of FP32 at a finite value. -/
def ulp32 (x : XV) : Int := max (x.exp2Floor - 23) (-149)

/-- Keeps f when its FP32 result lies within n * 2^u of the true value, else the true value cut to F's form. Where either
result is infinite both are, or their encodings differ by n at most. -/
def within (n : Nat) (u : Int) (exact f : XV) : XV :=
  let r := fp32Of f
  let q := fp32Of exact
  let ok : Bool :=
    if r.isInf || q.isInf then
      let a := (roundTo .f32 .rne false false 0 exact).1
      let b := (roundTo .f32 .rne false false 0 f).1
      decide (a ≤ b + n) && decide (b ≤ a + n)
    else cmp (sum false [r, exact.neg]).abs (.fin false n u false) != some .gt
  if ok then f else cutF exact
def withinUlps (n : Nat) (exact f : XV) : XV := within n (ulp32 exact) exact f

/-- sin and cos beyond 2^16 lie in [-1, 1] (12 R294). -/
def clampOne (f : XV) : XV := if cmp f.abs (XV.ofInt 1) == some .gt then .fin f.sign 1 0 false else f

/-- The value of a sine or cosine. -/
def trigF (fn : Nat) (x f : XV) : XV :=
  if cmp x.abs (XV.ofInt 65536) == some .gt then clampOne f else within 1 (-22) (trigTrue (fn == 6) x) f

/-- The value a special function rounds (12 Table 12.2): codes 0 VRCP, 1 VRSQRT, 2 VSQRT, 3 VEXP2, 4
VLOG2, 5 VSIN, 6 VCOS. -/
def special (fn : Nat) (x : XV) : XV :=
  let f := specialVal fn (roundTo .f32 .rne false false 0 x).1
  match x with
  | .nan _ => .nan false
  | .inf s =>
    match fn with
    | 0 => XV.zero s
    | 1 => if s then .nan false else XV.zero false
    | 2 => if s then .nan false else .inf false
    | 3 => if s then XV.zero false else .inf false
    | 4 => if s then .nan false else .inf false
    | _ => .nan false
  | .fin s n _ _ =>
    match fn with
    | 0 => if n = 0 then .inf s else withinUlps 1 (div (XV.ofInt 1) x) f
    | 1 => if n = 0 then .inf s else if s then .nan false else withinUlps 1 (sqrt (div (XV.ofInt 1) x)) f
    | 2 => sqrt x
    | 3 => withinUlps 2 (exp2True x) f
    | 4 =>
      if n = 0 then .inf true else if s then .nan false
      else if cmp x (XV.ofInt 1) == some .eq then XV.zero false
      else
        let near := cmp x (XV.ofInt 2) != some .gt && cmp (x.scale 1) (XV.ofInt 1) != some .lt
        if near then within 1 (-22) (log2True x) f else withinUlps 2 (log2True x) f
    | 5 => if n = 0 then XV.zero s else trigF 5 x f
    | _ => trigF 6 x f

end Sys2Proof.NumFmt
end

