-- ==== Sys2Proof/Machine/VectorFloat.lean ====
section
/-!
DEFINITION. Vector floating point (spec 12 R289 to R294): arithmetic, minimum and maximum, sign operations,
special functions, with their tangents (15 R375 to R377).
-/

namespace Sys2Proof.Machine

open Sys2Proof.NumFmt (XV)

/-! ## Elements -/

def vEl (f : Fmt) (a : VIn) (l j : Nat) : XV := NumFmt.decode f (elem (NumFmt.width f) (lane a.x l) j)
/-- Tangent k of an element, in the layout of its format (15 R374). -/
def State.vTel (s : State) (f : Fmt) (a : VIn) (k l j : Nat) : XV := NumFmt.decode f (elem (NumFmt.width f) (s.vTan a k l) j)
/-- Random byte of element j of lane l; 0 when the slot does not use SR. -/
def VArgs.r (x : VArgs) (l j : Nat) : Nat := randByte x.rand l j

/-- A result computed element by element, with tangents 1 to K. -/
def vOut (s : State) (n : Nat) (d : VDst) (x : VArgs) (f : Fmt) (val : Nat → Nat → Nat) (tan : Nat → Nat → Nat → Nat) : Op State :=
  outV s n d x.slot x.en (rowEn x.en fun l => laneOf (NumFmt.width f) (val l))
    (tanEn s.tk x.en fun k l => laneOf (NumFmt.width f) (tan k l))

/-- The arithmetic forms of 12 Table 12.1. `val` takes the element's sources, `tan` their tangents. -/
def vArith (s : State) (x : VArgs) (d : VDst) (f : Fmt) (rm : RMode) (sat na : Bool)
    (val : XV → XV → XV → XV) (tan : XV → XV → XV → XV → XV → XV → List XV) : Op State :=
  let a := fun l j => negIf na (vEl f x.a l j)
  let da := fun k l j => negIf na (s.vTel f x.a k l j)
  vOut s 4 d x f
    (fun l j => NumFmt.arith f (s.mode rm) sat s.ftz (x.r l j) (val (a l j) (vEl f x.b l j) (vEl f x.c l j)))
    (fun k l j => tround f s.ftz (tsum (tan (a l j) (vEl f x.b l j) (vEl f x.c l j) (da k l j) (s.vTel f x.b k l j) (s.vTel f x.c k l j))))

def vBinOp (o : VBin) (s : State) (val : Bool → XV → XV → XV) (tan : XV → XV → XV → XV → List XV) : Res1 :=
  vecSlot o.g [o.a, o.b] (s.usesSR o.rm) s fun s x =>
    vArith s x o.d o.fmt o.rm o.sat o.na (fun a b _ => val (isRdn s o.rm) a b) (fun a b _ da db _ => tan a b da db)
def vTerOp (o : VTer) (s : State) (val : Bool → XV → XV → XV → XV) (tan : XV → XV → XV → XV → XV → XV → List XV) : Res1 :=
  vecSlot o.g [o.a, o.b, o.c] (s.usesSR o.rm) s fun s x =>
    vArith s x o.d o.fmt o.rm o.sat o.na (fun a b c => val (isRdn s o.rm) a b c) tan

/-- Tangent terms of a product. -/
def tprod (a b da db : XV) : List XV := tmul da b ++ tmul db a

def execVadd (o : VBin) (s : State) : Res1 :=
  vBinOp o s (fun r a b => NumFmt.sum r [a, b]) (fun _ _ da db => tterm da ++ tterm db)
def execVsub (o : VBin) (s : State) : Res1 :=
  vBinOp o s (fun r a b => NumFmt.sum r [a, b.neg]) (fun _ _ da db => tterm da ++ (tterm db).map XV.neg)
def execVmul (o : VBin) (s : State) : Res1 :=
  vBinOp o s (fun _ a b => NumFmt.mul a b) tprod
def execVfma (o : VTer) (s : State) : Res1 :=
  vTerOp o s (fun r a b c => NumFmt.sum r [NumFmt.mul a b, c]) (fun a b _ da db dc => tprod a b da db ++ tterm dc)
def execVfms (o : VTer) (s : State) : Res1 :=
  vTerOp o s (fun r a b c => NumFmt.sum r [NumFmt.mul a b, c.neg]) (fun a b _ da db dc => tprod a b da db ++ (tterm dc).map XV.neg)
def execVfnma (o : VTer) (s : State) : Res1 :=
  vTerOp o s (fun r a b c => NumFmt.sum r [(NumFmt.mul a b).neg, c])
    (fun a b _ da db dc => (tprod a b da db).map XV.neg ++ tterm dc)

/-! ## Minimum, maximum and sign (12 R293) -/

/-- FTZ of an encoding that was not rounded (02 R55). -/
def flushEnc (f : Fmt) (ftz : Bool) (b : Nat) : Nat :=
  let m := (NumFmt.fp f).m
  let w := NumFmt.width f
  if ftz ∧ b / 2 ^ m % 2 ^ (w - 1 - m) = 0 then b / 2 ^ (w - 1) % 2 * 2 ^ (w - 1) else b

/-- Which of two values is returned: `some false` the first, `some true` the second, none with a NaN. -/
def pick2 (max : Bool) (a b : XV) : Option Bool :=
  match NumFmt.cmp a b with
  | none => none
  | some .eq => some false
  | some .lt => some max
  | some .gt => some (!max)

def vMM (mx : Bool) (o : VMinMax) (s : State) : Res1 :=
  vecSlot o.g [o.a, o.b] false s fun s x =>
    let w := NumFmt.width o.fmt
    let p := fun l j => pick2 mx (vEl o.fmt x.a l j) (vEl o.fmt x.b l j)
    vOut s 4 o.d x o.fmt
      (fun l j => match p l j with
        | none => NumFmt.nanEnc o.fmt
        | some sec => flushEnc o.fmt s.ftz (elem w (lane (if sec then x.b else x.a).x l) j))
      (fun k l j => match p l j with
        | none => NumFmt.nanEnc o.fmt
        | some sec => tround o.fmt s.ftz (tsum (tterm (s.vTel o.fmt (if sec then x.b else x.a) k l j))))
def execVmin (o : VMinMax) (s : State) : Res1 := vMM false o s
def execVmax (o : VMinMax) (s : State) : Res1 := vMM true o s

/-- Sign operations: bits by `enc`, tangents by `tan` of the element's sign. -/
def vSignOp (o : VSign) (s : State) (enc : Nat → Nat → Nat) (flip : Bool → Bool) : Res1 :=
  vecSlot o.g [o.a] false s fun s x =>
    let w := NumFmt.width o.fmt
    vOut s 4 o.d x o.fmt
      (fun l j => flushEnc o.fmt s.ftz (enc w (elem w (lane x.a.x l) j)))
      (fun k l j => tround o.fmt s.ftz (tsum ((tterm (s.vTel o.fmt x.a k l j)).map
        (negIf (flip (elem w (lane x.a.x l) j / 2 ^ (w - 1) == 1))))))
def execVabs (o : VSign) (s : State) : Res1 := vSignOp o s (fun w b => b % 2 ^ (w - 1)) id
def execVneg (o : VSign) (s : State) : Res1 :=
  vSignOp o s (fun w b => if b / 2 ^ (w - 1) = 1 then b % 2 ^ (w - 1) else b + 2 ^ (w - 1)) (fun _ => true)

/-! ## Special functions (12 R294; 15 R377) -/

/-- ln 2 as 15 R377 gives it. -/
def lnTwo : XV := NumFmt.decode .f32 0x3F31_7218

/-- Tangent of function fn at x with rounded result r; `other` is what VCOS (for VSIN) or VSIN (for VCOS)
returns. -/
def specTan (fn : Nat) (x r other d : XV) : XV :=
  if d.isZero then XV.zero false
  else match fn with
    | 0 => (NumFmt.mul (NumFmt.mul r r) d).neg
    | 1 => (NumFmt.mul (NumFmt.mul r (NumFmt.mul r r)) d).neg.scale (-1)
    | 2 => NumFmt.div d (r.scale 1)
    | 3 => NumFmt.mul (NumFmt.mul lnTwo r) d
    | 4 => NumFmt.div d (NumFmt.mul x lnTwo)
    | 5 => NumFmt.mul other d
    | _ => (NumFmt.mul other d).neg

def vSpecOp (fn : Nat) (o : VSpec) (s : State) : Res1 :=
  vecSlot o.g [o.a] (s.usesSR o.rm) s fun s x =>
    let val := fun (n l j : Nat) => NumFmt.arith o.fmt (s.mode o.rm) o.sat s.ftz (x.r l j) (NumFmt.special n (vEl o.fmt x.a l j))
    vOut s 8 o.d x o.fmt (val fn)
      (fun k l j => tround o.fmt s.ftz (specTan fn (vEl o.fmt x.a l j) (NumFmt.decode o.fmt (val fn l j))
        (NumFmt.decode o.fmt (val (if fn = 5 then 6 else 5) l j)) (s.vTel o.fmt x.a k l j)))
def execVrcp (o : VSpec) (s : State) : Res1 := vSpecOp 0 o s
def execVrsqrt (o : VSpec) (s : State) : Res1 := vSpecOp 1 o s
def execVsqrt (o : VSpec) (s : State) : Res1 := vSpecOp 2 o s
def execVexp2 (o : VSpec) (s : State) : Res1 := vSpecOp 3 o s
def execVlog2 (o : VSpec) (s : State) : Res1 := vSpecOp 4 o s
def execVsin (o : VSpec) (s : State) : Res1 := vSpecOp 5 o s
def execVcos (o : VSpec) (s : State) : Res1 := vSpecOp 6 o s

end Sys2Proof.Machine
end

