-- ==== Sys2Proof/Machine/VectorInt.lean ====
section
/-!
DEFINITION. Vector integer and bit operations (spec 12 R295, R296), compare and select (R297, R298), group
reductions (R299) and lane moves (R300 to R302).
-/

namespace Sys2Proof.Machine

open Sys2Proof.NumFmt (XV)

/-! ## Elements -/

def vRaw (f : Fmt) (a : VIn) (l j : Nat) : Nat := elem (NumFmt.width f) (lane a.x l) j
/-- An element as an integer by the format's signedness. -/
def vIntV (f : Fmt) (b : Nat) : Int := if NumFmt.signed f then NumFmt.toSigned (NumFmt.width f) b else ((b % 2 ^ NumFmt.width f : Nat) : Int)
/-- Low w bits of an integer, or with SAT its clamp (02 R43). -/
def fitInt (f : Fmt) (sat : Bool) (v : Int) : Nat :=
  if sat then (NumFmt.roundToInt f .rtz 0 (XV.ofInt v)).1 else (v % ((2 ^ NumFmt.width f : Nat) : Int)).toNat

/-- Integer results have +0 tangents (15 R380). -/
def vIntOut (s : State) (n : Nat) (d : VDst) (x : VArgs) (f : Fmt) (val : Nat → Nat → Nat) : Op State :=
  vOut s n d x f val (fun _ _ _ => 0)

def vIntOp (f : Fmt) (g : VG) (d : VDst) (a b : VSrc) (s : State) (val : Nat → Nat → Nat) : Res1 :=
  vecSlot g [a, b] false s fun s x => vIntOut s 2 d x f fun l j => val (vRaw f x.a l j) (vRaw f x.b l j)

def execViadd (o : VInt) (s : State) : Res1 :=
  vIntOp o.fmt o.g o.d o.a o.b s fun a b => fitInt o.fmt o.sat (vIntV o.fmt a + vIntV o.fmt b)
def execVisub (o : VInt) (s : State) : Res1 :=
  vIntOp o.fmt o.g o.d o.a o.b s fun a b => fitInt o.fmt o.sat (vIntV o.fmt a - vIntV o.fmt b)
def execVimul (o : VInt) (s : State) : Res1 :=
  vIntOp o.fmt o.g o.d o.a o.b s fun a b => fitInt o.fmt o.sat (vIntV o.fmt a * vIntV o.fmt b)
def execVimulh (o : VIntP) (s : State) : Res1 :=
  vIntOp o.fmt o.g o.d o.a o.b s fun a b =>
    fitInt o.fmt false ((vIntV o.fmt a * vIntV o.fmt b) / ((2 ^ NumFmt.width o.fmt : Nat) : Int))
def execVimin (o : VIntP) (s : State) : Res1 :=
  vIntOp o.fmt o.g o.d o.a o.b s fun a b => if vIntV o.fmt b < vIntV o.fmt a then b else a
def execVimax (o : VIntP) (s : State) : Res1 :=
  vIntOp o.fmt o.g o.d o.a o.b s fun a b => if vIntV o.fmt a < vIntV o.fmt b then b else a
def execVand (o : VIntP) (s : State) : Res1 := vIntOp o.fmt o.g o.d o.a o.b s fun a b => a &&& b
def execVor (o : VIntP) (s : State) : Res1 := vIntOp o.fmt o.g o.d o.a o.b s fun a b => a ||| b
def execVxor (o : VIntP) (s : State) : Res1 := vIntOp o.fmt o.g o.d o.a o.b s fun a b => a ^^^ b
def execVandn (o : VIntP) (s : State) : Res1 :=
  vIntOp o.fmt o.g o.d o.a o.b s fun a b => a &&& (b ^^^ (2 ^ NumFmt.width o.fmt - 1))
def execVshl (o : VIntP) (s : State) : Res1 :=
  vIntOp o.fmt o.g o.d o.a o.b s fun a b => a * 2 ^ (b % NumFmt.width o.fmt)
def execVshr (o : VIntP) (s : State) : Res1 :=
  vIntOp o.fmt o.g o.d o.a o.b s fun a b => a / 2 ^ (b % NumFmt.width o.fmt)
/-- The top bit is copied whatever the signedness (12 R295). -/
def execVshra (o : VIntP) (s : State) : Res1 :=
  vIntOp o.fmt o.g o.d o.a o.b s fun a b =>
    fitInt o.fmt false (NumFmt.toSigned (NumFmt.width o.fmt) a / ((2 ^ (b % NumFmt.width o.fmt) : Nat) : Int))

/-- Funnel shifts (12 Table 12.3). -/
def vFunnel (left : Bool) (o : VInt3) (s : State) : Res1 :=
  vecSlot o.g [o.a, o.b, o.c] false s fun s x =>
    vIntOut s 2 o.d x o.fmt fun l j =>
      let w := NumFmt.width o.fmt
      let a := vRaw o.fmt x.a l j
      let b := vRaw o.fmt x.b l j
      let n := vRaw o.fmt x.c l j % w
      if n = 0 then (if left then a else b)
      else if left then (a * 2 ^ n) ||| (b / 2 ^ (w - n)) else (b / 2 ^ n) ||| (a * 2 ^ (w - n))
def execVfshl (o : VInt3) (s : State) : Res1 := vFunnel true o s
def execVfshr (o : VInt3) (s : State) : Res1 := vFunnel false o s

/-- Bit counts (12 R296). -/
def vCount (f : Nat → Nat → Nat) (o : VSign) (s : State) : Res1 :=
  vecSlot o.g [o.a] false s fun s x => vIntOut s 2 o.d x o.fmt fun l j => f (NumFmt.width o.fmt) (vRaw o.fmt x.a l j)
def clzE (w x : Nat) : Nat := let y := x % 2 ^ w; if y = 0 then w else w - 1 - Nat.log2 y
def ctzE (w x : Nat) : Nat := ((List.range w).find? fun i => x.testBit i).getD w
def popcE (w x : Nat) : Nat := ((List.range w).filter fun i => x.testBit i).length
def execVclz (o : VSign) (s : State) : Res1 := vCount clzE o s
def execVctz (o : VSign) (s : State) : Res1 := vCount ctzE o s
def execVpopc (o : VSign) (s : State) : Res1 := vCount popcE o s

/-! ## Compare and select -/

/-- A mask of the enabled lanes for which f holds. -/
def laneBits (en : BitVec 128) (f : Nat → Bool) : BitVec 128 :=
  (List.range 128).foldl (fun m l => if en.getLsbD l && f l then m ||| (1#128 <<< l) else m) 0

def execVcmp (o : VCmpOp) (s : State) : Res1 :=
  vecSlot o.g [o.a, o.b] false s fun s x =>
    .ok (s.land 2 (.vp o.p x.en (laneBits x.en fun l =>
      if o.fmt = .f32 then condF o.cond (vEl .f32 x.a l 0) (vEl .f32 x.b l 0)
      else condI o.cond (vIntV o.fmt (vRaw o.fmt x.a l 0)) (vIntV o.fmt (vRaw o.fmt x.b l 0)))))

/-- A lane-moving result: each lane takes a lane of an operand, with its shadows (15 R378). -/
def vMove (s : State) (n : Nat) (d : VDst) (x : VArgs) (from_ : Nat → VIn × Nat) : Op State :=
  outV s n d x.slot x.en (rowEn x.en fun l => let (a, i) := from_ l; lane a.x i)
    (tanEn s.tk x.en fun k l => let (a, i) := from_ l; s.vTan a k i)

def execVsel (o : VSelOp) (s : State) : Res1 :=
  vecSlot o.g [o.a, o.b] false s fun s x =>
    vMove s 2 o.d x fun l => if (s.vP o.p).getLsbD l then (x.a, l) else (x.b, l)

/-! ## Group reductions -/

def grpSize (g : BitVec 2) : Nat := 2 ^ (g.toNat + 1)
/-- Lane whose encoding VGMAX or VGMIN returns for position j, none with a NaN. -/
def grpPick (mx : Bool) (f : Fmt) (a : VIn) (base n j : Nat) : Option Nat :=
  if f.isInt then
    some ((List.range n).foldl (fun b i =>
      let x := vIntV f (vRaw f a (base + i) j)
      let y := vIntV f (vRaw f a b j)
      if (if mx then y < x else x < y) then base + i else b) base)
  else if (List.range n).any fun i => (vEl f a (base + i) j).isNan then none
  else
    some ((List.range n).foldl (fun b i =>
      match NumFmt.cmp (vEl f a (base + i) j) (vEl f a b j) with
      | some o => if o = (if mx then .gt else .lt) then base + i else b
      | none => b) base)

def vGMM (mx : Bool) (o : VGrp) (s : State) : Res1 :=
  vecSlot o.g [o.a] false s fun s x =>
    let n := grpSize o.gsz
    let p := fun l j => grpPick mx o.fmt x.a (l - l % n) n j
    vOut s 4 o.d x o.fmt
      (fun l j => match p l j with
        | none => NumFmt.nanEnc o.fmt
        | some i => if o.fmt.isInt then vRaw o.fmt x.a i j else flushEnc o.fmt s.ftz (vRaw o.fmt x.a i j))
      (fun k l j => if o.fmt.isInt then 0 else match p l j with
        | none => NumFmt.nanEnc o.fmt
        | some i => elem (NumFmt.width o.fmt) (s.vTan x.a k i) j)
def execVgmax (o : VGrp) (s : State) : Res1 := vGMM true o s
def execVgmin (o : VGrp) (s : State) : Res1 := vGMM false o s

def execVgsum (o : VGrp) (s : State) : Res1 :=
  vecSlot o.g [o.a] (!o.fmt.isInt && s.usesSR o.rm) s fun s x =>
    let n := grpSize o.gsz
    let base := fun (l : Nat) => l - l % n
    if o.fmt.isInt then
      vIntOut s 4 o.d x o.fmt fun l j =>
        fitInt o.fmt o.sat ((List.range n).foldl (fun v i => v + vIntV o.fmt (vRaw o.fmt x.a (base l + i) j)) 0)
    else
      vOut s 4 o.d x o.fmt
        (fun l j => NumFmt.arith o.fmt (s.mode o.rm) o.sat s.ftz (x.r (base l) j)
          (NumFmt.sum (isRdn s o.rm) ((List.range n).map fun i => vEl o.fmt x.a (base l + i) j)))
        (fun k l j => tround o.fmt s.ftz (tsum ((List.range n).flatMap fun i => tterm (s.vTel o.fmt x.a k (base l + i) j))))

/-! ## Moving lanes -/

def execVperm (o : VBinPlain) (s : State) : Res1 :=
  vecSlot o.g [o.a, o.b] false s fun s x => vMove s 6 o.d x fun l => (x.a, l - l % 16 + lane x.b.x l % 16)
def execVbcastl (o : VBcast) (s : State) : Res1 :=
  vecSlot o.g [o.a] false s fun s x =>
    let i := o.lane.toNat
    vMove s 6 o.d x fun l => (x.a, if o.sec then l - l % 16 + i % 16 else i)
def execVxsec (o : VXsecOp) (s : State) : Res1 :=
  vecSlot o.g (if o.mode = .rot then [o.a] else [o.a, o.b]) false s fun s x =>
    let n := o.n.toNat
    vMove s 6 o.d x fun l =>
      match o.mode with
      | .up => if n ≤ l then (x.a, l - n) else (x.b, 128 - n + l)
      | .down => if l + n ≤ 127 then (x.a, l + n) else (x.b, l + n - 128)
      | .rot => (x.a, 16 * ((l / 16 + n) % 8) + l % 16)

end Sys2Proof.Machine
end

