-- ==== Sys2Proof/Machine/Buffers.lean ====
section
/-!
DEFINITION. Typed buffers (spec 01 R21, R22; 04 R106 to R116): rows, transposed reads, filling frames, tile busy
bits and residency; then VLDB, VSTB and VSTBM (12 R303 to R306).
-/

namespace Sys2Proof.Machine

/-! ## Rows -/

def bufRows : Buf → Nat
  | .cbuf => 4096
  | _ => 8192
def getBuf (k : Core) : Buf → Sparse Row
  | .abuf => k.abuf | .wbuf => k.wbuf | .cbuf => k.cbuf
def bufRow (k : Core) (b : Buf) (r : Nat) : Row := Sparse.get 0 (getBuf k b) r
def putRow (k : Core) (b : Buf) (r : Nat) (x : Row) : Core :=
  match b with
  | .abuf => { k with abuf := Sparse.set 0 k.abuf r x }
  | .wbuf => { k with wbuf := Sparse.set 0 k.wbuf r x }
  | .cbuf => { k with cbuf := Sparse.set 0 k.cbuf r x }

def rowByte (r : Row) (b : Nat) : Nat := (r.toNat >>> (8 * b)) % 256
def rowOfBytes (f : Nat → Nat) : Row := BitVec.ofNat 4096 (elemsNat 8 f 512 0)

/-- Row r read transposed within its square of element width w, 8 or 16 (04 R114). -/
def transRow (w : Nat) (get : Nat → Row) (r : Nat) : Row :=
  let rows := if w = 8 then 32 else 16
  let wb := w / 8
  let base := r - r % rows
  rowOfBytes fun b =>
    let o := 512 * (r % rows) + b
    let i := o / 128
    let j := o % 128 / wb
    let src := 128 * j + wb * i + o % wb
    rowByte (get (base + src / 512)) (src % 512)
def readRow (k : Core) (b : Buf) (t : Option Fmt) (r : Nat) : Row :=
  match t with
  | none => bufRow k b r
  | some f => transRow (NumFmt.width f) (bufRow k b) r

/-! ## Frames and tiles -/

def frameCount (y : Sys) : Nat := (y.abft.extractLsb' 0 9).toNat
/-- A row lies in a frame whose fill is in flight (04 R113). -/
def frameBusy (k : Core) (r : Nat) : Bool :=
  decide (r < 32 * frameCount k.t.sys) && ((k.t.frames.toList.drop (r / 32)).headD Frame.invalid).f

/-- Accumulators of a tile as CBUF holds them, row by row. -/
def tileRows (k : Core) (t : Nat) : List (BitVec 32) :=
  (List.range 128).flatMap fun m => let r := bufRow k .cbuf (128 * t + m); (List.range 128).map fun n => BitVec.ofNat 32 (lane r n)
/-- Writes accumulators into a tile's rows. -/
def writeTile (k : Core) (t : Nat) (acc : List (BitVec 32)) : Core :=
  (List.range 128).foldl (fun k m =>
    let row := (acc.drop (128 * m)).take 128
    putRow k .cbuf (128 * t + m) (BitVec.ofNat 4096 (row.foldr (fun x n => x.toNat + 2 ^ 32 * n) 0))) k
def tileBusy (k : Core) (t : Nat) : Bool := k.mat.busy.getLsbD t
def setTile (k : Core) (t : Nat) (b : Bool) : Core :=
  { k with mat := { k.mat with busy := if b then k.mat.busy ||| (1#32 <<< t) else k.mat.busy &&& ~~~(1#32 <<< t) } }
def MKind.usesTile : MKind → Bool
  | .draws _ | .norm => false
  | _ => true
/-- Tiles an operation writes: its own and, dual, the paired tangent tiles (15 R385, R387). -/
def MOp.tiles (o : MOp) : List Nat :=
  if !o.kind.usesTile then []
  else o.tile :: (if o.dual then (List.range o.k).map fun i => if o.k = 1 then o.tile + 16 else o.tile + 8 * (i + 1) else [])
/-- An operation on a tile is queued or running. -/
def tileQueued (k : Core) (t : Nat) : Bool :=
  k.mat.queue.any (fun o => o.tiles.contains t) || (match k.mat.run with | some r => r.op.tiles.contains t | none => false)
/-- Ends the residency of the resident tile (04 R116, 14 R358). -/
def endResidency (k : Core) : Core :=
  match k.mat.resident with
  | some (t, acc) =>
    let k := writeTile k t acc
    let k := if tileQueued k t then k else setTile k t false
    { k with mat := { k.mat with resident := none } }
  | none => k
/-- An access by VB or CP to a tile: none while its bit stays set (04 R115, R116). -/
def tileAccess (k : Core) (t : Nat) : Option Core :=
  if !tileBusy k t then some k
  else
    match k.mat.resident with
    | some (r, _) => if r = t ∧ !tileQueued k t then some (endResidency k) else none
    | none => none

/-- What stands against a VB access of a row, now: none means it waits. -/
def vbReady (k : Core) (b : Buf) (r : Nat) : Option Core :=
  match b with
  | .abuf => if frameBusy k r then none else some k
  | .wbuf => some k
  | .cbuf => tileAccess k (r / 128)

/-! ## VLDB, VSTB, VSTBM -/

def State.rowOp (s : State) (base : RowBase) (off : BitVec 10) : Nat :=
  (match base with | .reg n => lane (s.iregs.v.get n.toFin) 0 % 2 ^ 13 | .zero => 0) + off.toNat

/-- The row of a typed-buffer slot: class 1 reason 6 beyond the buffer. A busy tile and a filling frame are tested before the
bundle issues, and not again for a slot of it (12 R306). -/
def rowReady (s : State) (slot : Nat) (b : Buf) (r : Nat) : Op State :=
  if bufRows b ≤ r then raise1 s slot 6
  else match vbReady s.k b r with
    | some k => .ok (s.setCore s.cur k)
    | none => if s.k.t.fl.isSome then .ok s else freeze s

def execVldb (o : VLdbOp) (s : State) : Res1 :=
  vecSlot o.g [] false s fun s x => do
    let r := s.rowOp o.base o.off
    let s ← rowReady s x.slot o.buf r
    outV s 5 o.d x.slot x.en (readRow s.k o.buf o.t r) VTan4.zero

/-- Writes the bytes of a row that a byte mask names. -/
def storeRow (s : State) (b : Buf) (r : Nat) (x : Row) (m : Nat → Bool) : State :=
  s.modK fun k => let old := bufRow k b r; putRow k b r (rowOfBytes fun i => if m i then rowByte x i else rowByte old i)

def execVstb (o : VStbOp) (s : State) : Res1 :=
  vecSlot o.g [o.src] false s fun s x => do
    let r := s.rowOp o.base o.off
    let s ← rowReady s x.slot o.buf r
    pure (storeRow s o.buf r x.a.x fun i => x.en.getLsbD (i / 4))
def execVstbm (o : VStbmOp) (s : State) : Res1 :=
  vecSlot o.g [o.src] false s fun s x => do
    let r := s.rowOp o.base o.off
    let vm := s.iregs.v.get o.vm.toFin
    let s ← rowReady s x.slot o.buf r
    pure (storeRow s o.buf r x.a.x fun i => x.en.getLsbD (i / 4) && (lane vm (i / 4)).testBit (i % 4))

end Sys2Proof.Machine
end

