-- ==== Sys2Proof/Machine/VectorCvt.lean ====
section
/-!
DEFINITION. Vector conversion, the scale latch, packing (spec 12 R307 to R311) with tangents by 15 R379, and the
tangent instructions (12 R315).
-/

namespace Sys2Proof.Machine

open Sys2Proof.NumFmt (XV)

/-! ## Tangents of conversions (15 R379) -/

/-- Tangent k of element p of lane l, in the layout its format has; a narrow one is the lane's shadow. -/
def State.srcTan (s : State) (f : Fmt) (a : VIn) (k l p : Nat) : Nat :=
  if f.narrow then s.vTan a k l else elem (NumFmt.width f) (s.vTan a k l) p
/-- The tangent a conversion gives (15 R379). -/
def State.cvtTan (s : State) (src dst : Fmt) (dt : Nat) : Nat := tconv s.isys s.ftz src dst dt

/-! ## VCVT (12 R309) -/

def sclCode (y : Sys) (l : Nat) : Nat := y.scl.toNat / 2 ^ (8 * (l / 32)) % 256
/-- A lane with element p of width w replaced. -/
def putEl (w x p e : Nat) : Nat := laneOf w fun j => if j = p then e else elem w x j

/-- The conversion of one element under a scale code; where no scale changes its value it is that of SFCVT (02 R62). -/
def cvtEl (src dst : Fmt) (mode : RMode) (sat ftz : Bool) (r code b : Nat) : Nat :=
  if (src.narrow || dst.narrow) && code == 255 && !(NumFmt.decode src b).isNan then (NumFmt.roundTo dst mode sat ftz r (.nan false)).1
  else
    let e : Int := (code : Int) - 127
    let k : Int := (if src.narrow then e else 0) - (if dst.narrow then e else 0)
    (NumFmt.convert src dst mode sat ftz r k b).1

def execVcvt (o : VCvtOp) (s : State) : Res1 :=
  vecSlot o.g [o.a, o.b] (s.usesSR o.rm) s fun s x =>
    let ws := NumFmt.width o.src
    let wd := NumFmt.width o.dst
    let sp := o.sp.toNat
    let dp := o.dp.toNat
    outV s 3 o.d x.slot x.en
      (rowEn x.en fun l => putEl wd (lane x.b.x l) dp
        (cvtEl o.src o.dst (s.mode o.rm) o.sat s.ftz (x.r l dp) (sclCode s.isys l) (elem ws (lane x.a.x l) sp)))
      (tanEn s.tk x.en fun k l =>
        let d := s.cvtTan o.src o.dst (s.srcTan o.src x.a k l sp)
        if o.dst.isInt then 0
        else if o.dst.narrow then d
        else putEl wd (s.vTan x.b k l) dp d)

/-! ## VMAXEXP (12 R308) -/

/-- EMAXF (03 Table 3.2). -/
def emaxf : Fmt → Int
  | .e4m3 => 8 | .e5m2 => 15 | .mxf4 => 2 | .ps2 => 1 | .f16 => 15 | _ => 127

def maxexpCode (f : Fmt) (h : Int) (vs : List XV) : Nat :=
  if vs.any XV.isNan then 255
  else match NumFmt.groupExp vs with
    | some e => NumFmt.e8m0Of (e - emaxf f + h)
    | none => 0

def execVmaxexp (o : VMaxexpOp) (s : State) : Res1 :=
  vecSlot o.g [o.a] false s fun s x =>
    let en := fun g => (List.range 32).filter fun i => x.en.getLsbD (32 * g + i)
    let groups : BitVec 4 := (List.range 4).foldl (fun m g => if (en g).isEmpty then m else m ||| (1#4 <<< g)) 0
    let codes := elemsNat 8 (fun g => maxexpCode o.fmt o.h.toInt ((en g).map fun i => vEl .f32 x.a (32 * g + i) 0)) 4 0
    .ok (s.land 3 (.scl groups (BitVec.ofNat 32 codes)))

/-! ## VQPS2 (12 R310) -/

/-- BJUMP of FPCTL (02 Table 2.4). -/
def bjumpOf (y : Sys) : Nat := (y.fpctl.extractLsb' 4 4).toNat
/-- Start bit and scale code of each group of eight values in ascending k (02 R47). -/
def ps2Blocks (bj : Nat) (groups : List (List XV)) : List (Bool × Nat) :=
  let st := NumFmt.ps2Starts bj none 0 (groups.map NumFmt.groupExp)
  st.zip (NumFmt.ps2Codes (st.zip groups))
/-- One PS2 element under its block's code. -/
def ps2El (code : Nat) (v : XV) : Nat := if code = 255 then 0x77 else (NumFmt.ps2Quant (v.scale (127 - (code : Int)))).1

def execVqps2 (o : VQps2Op) (s : State) : Res1 :=
  vecSlot o.g [o.a] false s fun s x =>
    if s.usesSR o.rm then raise1 s x.slot 3
    else
      let v := fun l => vEl .f32 x.a l 0
      let bl := ps2Blocks (bjumpOf s.isys) ((List.range 16).map fun g => (List.range 8).map fun i => v (8 * g + i))
      outV s 3 o.d x.slot x.en
        (rowEn x.en fun l =>
          let (st, code) := (bl.drop (l / 8)).headD (false, 0)
          (if st ∧ l % 8 = 0 then 2 ^ 16 else 0) + code * 256 + ps2El code (v l))
        (tanEn s.tk x.en fun k l => s.cvtTan .f32 .ps2 (s.srcTan .f32 x.a k l 0))

/-! ## VPACK, VUNPACK (12 R311) -/

def execVpack (o : VPackOp) (s : State) : Res1 :=
  vecSlot o.g [o.a, o.b] false s fun s x =>
    let w := NumFmt.width o.fmt
    let n := 32 / w
    let base := 128 / n * o.p.toNat
    let inside : Nat → Bool := fun l => decide (base ≤ l) && decide (l < base + 128 / n)
    outV s 3 o.d x.slot x.en
      (rowEn x.en fun l => if inside l then laneOf w fun j => elem w (lane x.a.x (n * (l - base) + j)) 0 else lane x.b.x l)
      (tanEn s.tk x.en fun k l =>
        if w != 16 then 0
        else if inside l then laneOf w fun j => elem w (s.vTan x.a k (n * (l - base) + j)) 0 else s.vTan x.b k l)

def execVunpack (o : VUnpackOp) (s : State) : Res1 :=
  vecSlot o.g [o.a] false s fun s x =>
    let w := NumFmt.width o.fmt
    let n := 32 / w
    let base := 128 / n * o.p.toNat
    outV s 3 o.d x.slot x.en
      (rowEn x.en fun l =>
        let e := elem w (lane x.a.x (base + l / n)) (l % n)
        if o.fmt = .i8 ∨ o.fmt = .i16 then (NumFmt.toSigned w e % ((2 ^ 32 : Nat) : Int)).toNat else e)
      (tanEn s.tk x.en fun k l => if w != 16 then 0 else elem w (s.vTan x.a k (base + l / n)) (l % n))

/-! ## Tangent access (12 R315) -/

def execVtget (o : VTan) (s : State) : Res1 :=
  vecSlot o.g [o.a] false s fun s x =>
    if s.dk < o.k.toNat then raise s 13 1
    else .ok (s.land 2 (.v (some o.d) (some (latchOf x.slot)) x.en (rowEn x.en fun l => s.vTan x.a o.k.toNat l) VTan4.zero))
def execVtset (o : VTan) (s : State) : Res1 :=
  vecSlot o.g [o.a] false s fun s x =>
    if s.dk < o.k.toNat then raise s 13 1
    else .ok (s.land 2 (.vtan o.d o.k.toNat (latchOf x.slot) x.en x.a.x))
def execVtzero (o : VTan0) (s : State) : Res1 :=
  vecSlot o.g [] false s fun s x => .ok (s.land 2 (.vtz o.d (latchOf x.slot) x.en))

end Sys2Proof.Machine
end

