-- ==== Sys2Proof/Machine/Records.lean ====
section
/-!
DEFINITION. Tensor records (spec 03): the record and its sidecar, resolution, versions and granules, the encoders
of the store paths, statistics, norms and policies. All memory here is reached on the GV path.
-/

namespace Sys2Proof.Machine

open Sys2Proof.NumFmt (XV Ev)

/-! ## GV accesses: translated by a die's walker, served at the home (06 R150, 07 R168) -/

/-- A GV access that waits, or fails with a class and detail; `eva` and `info` where the fault names its own address and
EINFO. The caller keeps the state it had, with the note. -/
inductive GErr where
  | wait (n : HNote)
  | bad (n : HNote) (cls det : Nat) (eva : Option Nat := none) (info : Option Word := none)
  deriving DecidableEq, Repr
abbrev GOp (α : Type) := Except GErr α
/-- A GV access that fails with a class and detail. -/
def gBad {α : Type} (cls det : Nat) (eva : Option Nat := none) : GOp α := .error (.bad .none cls det eva)

/-- Translates an address on the GV path; a fault of a translation carries EINFO (06 R155). -/
def gAddr (s : State) (d : DieId) (ctx : Ctx) (priv : Bool) (va : Nat) (n : Need) : GOp (State × Nat) :=
  match walkXlate s d ctx priv va n with
  | .error (.wait n) => .error (.wait n)
  | .error (.bad m det lvl) =>
    .error (.bad m 5 det (some va) (some (xlInfo (asidFor ctx.asid.toNat va) priv n.fetch n.write true lvl)))
  | .ok (s, pa, _) => .ok (s, pa)
def liftH {α : Type} (h : HOp α) : GOp α :=
  match h with
  | .ok a => .ok a
  | .error (.wait n) => .error (.wait n)
  | .error (.cause n c d) => .error (.bad n c d)

def gRead (s : State) (d : DieId) (ctx : Ctx) (rb : Bool) (va n : Nat) : GOp (State × List Byte) :=
  (cutPages va n).foldlM (init := (s, ([] : List Byte))) fun (s, acc) (a, len) => do
    let (s, pa) ← gAddr s d ctx true a ⟨false, false, rb⟩
    let (s, bs) ← liftH (homeRead s d pa len)
    pure (s, acc ++ bs)
/-- Writes bytes on the GV path, at a timestamp of at least `base`; State.hts keeps the largest (07 R168). -/
def gWrite (s : State) (d : DieId) (ctx : Ctx) (rb : Bool) (va : Nat) (bs : List Byte) (base : Nat := 0) : GOp State :=
  (cutPages va bs.length).foldlM (init := s) fun s (a, len) => do
    let (s, pa) ← gAddr s d ctx true a ⟨true, false, rb⟩
    let (s, _) ← liftH (homeWrite s d pa ((bs.drop (a - va)).take len) base)
    pure s

/-! ## The record (03 Table 3.1) -/

abbrev RecBits := BitVec 512
def RecBits.f (w : RecBits) (byte lo len : Nat) : Nat := (w.toNat >>> (8 * byte + lo)) % 2 ^ len
def RecBits.put (w : RecBits) (byte lo len x : Nat) : RecBits :=
  let m : RecBits := BitVec.ofNat 512 ((2 ^ len - 1) * 2 ^ (8 * byte + lo))
  (w &&& ~~~m) ||| BitVec.ofNat 512 (x % 2 ^ len * 2 ^ (8 * byte + lo))
def RecBits.bit (w : RecBits) (i : Nat) : Bool := w.getLsbD i
def RecBits.vnum (w : RecBits) : Nat := w.f 0 48 16
def RecBits.binbase (w : RecBits) : Int := NumFmt.toSigned 8 (w.f 0 40 8)
def RecBits.clean (w : RecBits) : Nat := w.f 0 32 8
def RecBits.policy (w : RecBits) : Nat := w.f 0 28 4
def RecBits.live (w : RecBits) : Nat := w.f 0 26 2
def RecBits.auto (w : RecBits) : Bool := w.bit 25
def RecBits.frozen (w : RecBits) : Bool := w.bit 24
def RecBits.shadow (w : RecBits) : Bool := w.bit 23
def RecBits.tangent (w : RecBits) : Bool := w.bit 22
/-- Tangent planes: TK + 1 with TANGENT, else none. -/
def RecBits.planes (w : RecBits) : Nat := if w.tangent then w.f 0 20 2 + 1 else 0
def RecBits.tfmt (w : RecBits) : Fmt := if w.bit 19 then .f32 else .bf16
def RecBits.kmaj (w : RecBits) : Bool := w.bit 18
def RecBits.step (w : RecBits) : Bool := w.bit 17
def RecBits.over (w : RecBits) : Bool := w.bit 16
def RecBits.cmt (w : RecBits) : Nat := w.f 0 10 2
def RecBits.fmt (w : RecBits) : Nat := w.f 0 0 4
def RecBits.refh (w : RecBits) (i : Nat) : Nat := w.f 8 (16 * i) 4
def RecBits.sfmt (w : RecBits) (i : Nat) : Nat := w.f 8 (16 * i + 4) 4
def RecBits.sigma (w : RecBits) (i : Nat) : Int := NumFmt.toSigned 8 (w.f 8 (16 * i + 8) 8)
def RecBits.dbase (w : RecBits) : Nat := w.f 16 0 57
def RecBits.len (w : RecBits) : Nat := w.f 24 0 40
def RecBits.krows (w : RecBits) : Nat := w.f 24 40 24
def RecBits.hist (w : RecBits) (i : Nat) : Nat := w.f (32 + i) 0 8
def RecBits.satn (w : RecBits) : Nat := w.f 56 48 16
def RecBits.undn (w : RecBits) : Nat := w.f 56 32 16
def RecBits.nann (w : RecBits) : Nat := w.f 56 24 8
def RecBits.samp (w : RecBits) : Nat := w.f 56 0 16
/-- MAXE; 0x80 is none. -/
def RecBits.maxe (w : RecBits) : Option Int := if w.f 56 16 8 = 0x80 then none else some (NumFmt.toSigned 8 (w.f 56 16 8))

/-- Formats of 03 Table 3.2. -/
def recFmt : Nat → Fmt
  | 0 => .e4m3 | 1 => .e5m2 | 2 => .mxf4 | 3 => .ps2 | 4 => .bf16 | 5 => .f16 | _ => .f32
/-- Pitch (13 R320). -/
def pitchOf (code : Nat) : Nat := if code ≤ 3 then 1 else if code ≤ 5 then 2 else 4
def RecBits.pitch (w : RecBits) : Nat := pitchOf w.fmt
def RecBits.perGran (w : RecBits) : Nat := 4096 / w.pitch
def RecBits.count (w : RecBits) : Nat := w.len / w.pitch
def RecBits.grans (w : RecBits) : Nat := (w.len + 4095) / 4096
def RecBits.blocked (w : RecBits) : Bool := decide (w.fmt ≤ 3)

/-- Malformed records (03 R65); a referenced slot is LIVE or one with granules. -/
def RecBits.malformed (w : RecBits) : Bool :=
  decide (7 ≤ w.fmt) || (List.range 4).any (fun i => (i == w.live || w.refh i != 0) && decide (7 ≤ w.sfmt i)) || w.cmt == 3
    || w.f 0 4 6 != 0 || w.f 16 57 7 != 0 || w.dbase % 4096 != 0
    || (w.kmaj && (w.krows == 0 || w.count % w.krows != 0))

/-- A resolved record: handle, virtual and physical address, bits as read. -/
structure RecRef where
  (handle va pa : Nat) (w : RecBits)
  deriving DecidableEq, Repr

/-! ## Sidecar (03 Table 3.5) -/

def up4k (x : Nat) : Nat := (x + 4095) / 4096 * 4096
structure Side where
  (vcount vtag svtag state norms bscale bmap tplanes shdata shscale shmap : Nat)
  deriving DecidableEq, Repr
def RecBits.side (w : RecBits) : Side :=
  let g := w.grans
  let tags := (g + 3) / 4
  let vcount := up4k (w.dbase + w.len)
  let vtag := vcount + 4096
  let svtag := up4k (vtag + tags)
  let state := if w.shadow then up4k (svtag + tags) else svtag
  let norms := if w.shadow then up4k (state + tags) else svtag
  let bscale := if w.kmaj then up4k (norms + 4 * w.krows) else norms
  let bmap := if w.blocked then up4k (bscale + 512 * g) else bscale
  let tplanes := if w.blocked then up4k (bmap + 64 * g) else bmap
  let shdata := if w.tangent then up4k (tplanes + w.planes * w.count * (NumFmt.width w.tfmt / 8)) else tplanes
  { vcount := vcount, vtag := vtag, svtag := svtag, state := state, norms := norms, bscale := bscale, bmap := bmap
    tplanes := tplanes, shdata := shdata, shscale := shdata + 4096 * g, shmap := shdata + 4608 * g }

/-! ## Resolution (01 R26) -/

/-- A failed GV access is class 20 detail 2 in the core that owns the record (01 R20); a poisoned line is detail 1
(18 R439). -/
def asGv {α : Type} (g : GOp α) : GOp α :=
  match g with
  | .error (.bad n 11 d e i) => .error (.bad n 11 d e i)
  | .error (.bad n 4 d e i) => .error (.bad n 4 d e i)
  | .error (.bad n 20 d _ _) => .error (.bad n 20 d)
  | .error (.bad n ..) => .error (.bad n 20 2)
  | r => r
def unresolved {α : Type} (n : HNote := .none) : GOp α := .error (.bad n 4 10)

def rtEntry (ctx : Ctx) (h : Nat) : Nat := (BitVec.extractLsb' 0 57 ctx.rtbase).toNat + 8 * h
/-- Whether a task of a context holds a capability that bears a handle (01 R28). -/
def holdsHandle (s : State) (asid : BitVec 16) (h : Nat) : Bool :=
  let inRegs : Regs → Bool := fun g =>
    let hit : Cap → Bool := fun c => c.tag && c.handle == h
    g.c.toList.any hit || g.md.toList.any (fun m => hit m.cap) || g.cd.toList.any fun d => hit d.src || hit d.dst
  s.cores.toList.any (fun k => (match k.task with | some t => t.ctx.asid == asid | none => false) && inRegs k.t.regs)
    || s.saved.any fun x => x.task.ctx.asid == asid && inRegs x.t.regs
/-- The entry an access uses: the one it reads; but where software changed a valid one while a task of the context holds a
capability with its handle, the old or the new one, a free choice at each access (01 R28; log 37). -/
def seenEntry (s : State) (ctx : Ctx) (h pa : Nat) (e : Word) : State × Word :=
  let old := Sparse.get 0 s.rtSeen pa
  if old.getLsbD 63 && old != e && holdsHandle s ctx.asid h then
    (s.tickFresh, if Config.freeBit s.fresh then old else e)
  else ({ s with rtSeen := Sparse.set 0 s.rtSeen pa e }, e)
/-- The record at a virtual address of its page, as it stands: class 4 detail 10 when the page does not translate as
record-bearing (01 R26), class 20 detail 2 when the memory fails. -/
def recOfVa (s : State) (d : DieId) (ctx : Ctx) (h va : Nat) : GOp (State × RecRef) :=
  match gAddr s d ctx true va ⟨false, false, true⟩ with
  | .error (.wait n) => .error (.wait n)
  | .error (.bad n ..) => unresolved n
  | .ok (s, pa) => do
    let (s, bs) ← asGv (liftH (homeRead s d pa 64))
    pure (s, ⟨h, va, pa, BitVec.ofNat 512 (bytesToNat bs)⟩)
/-- Reads the table entry of a handle: the virtual address of its record. Class 4 detail 10 when the handle is out of range
or its entry invalid, class 20 detail 2 when the entry cannot be reached. -/
def recVa (s : State) (d : DieId) (ctx : Ctx) (h : Nat) : GOp (State × Nat) :=
  if h = 0 ∨ (BitVec.extractLsb' 0 24 ctx.rtcnt).toNat ≤ h then unresolved
  else do
    let (s, pa) ← asGv (gAddr s d ctx true (rtEntry ctx h) ⟨false, false, false⟩)
    let (s, bs) ← asGv (liftH (homeRead s d pa 8))
    let (s, e) := seenEntry s ctx h pa (BitVec.ofNat 64 (bytesToNat bs))
    if !e.getLsbD 63 then unresolved
    else pure (s, e.toNat / 64 % 2 ^ 51 * 64)
/-- Reads the record of a handle: class 4 detail 10 when it does not resolve, class 20 detail 2 when its table entry or the
memory cannot be reached. -/
def recAt (s : State) (d : DieId) (ctx : Ctx) (h : Nat) : GOp (State × RecRef) := do
  let (s, va) ← recVa s d ctx h
  recOfVa s d ctx h va
/-- A record read for an access that engages it: class 11 detail 3 when it is malformed (03 R65). -/
def wellFormed (g : GOp (State × RecRef)) : GOp (State × RecRef) := do
  let (s, r) ← g
  if r.w.malformed then gBad 11 3 else pure (s, r)
def engage (s : State) (d : DieId) (ctx : Ctx) (h : Nat) : GOp (State × RecRef) := wellFormed (recAt s d ctx h)
/-- The later part of an access that engaged the record at an address: it uses that record, whatever the table holds by now
(01 R28). -/
def engageVa (s : State) (d : DieId) (ctx : Ctx) (h va : Nat) : GOp (State × RecRef) := wellFormed (recOfVa s d ctx h va)
/-- Tells an L slot how a GV access of its own ended: a wait freezes; a failed access is held for the next
boundary and the slot ends without its effect (01 R20); other causes are precise. -/
def gvOp {α : Type} (s : State) (h va : Nat) (g : GOp α) : Op α :=
  match g with
  | .ok a => .ok a
  | .error (.wait n) => freeze (s.noted n)
  | .error (.bad n 20 d ..) => .error (.done (pendFault (s.noted n) s.cur ⟨20, d, 0, BitVec.ofNat 64 h⟩))
  | .error (.bad n 11 d e i) => raise (s.noted n) 11 d (e.getD va) (i.getD (BitVec.ofNat 64 h))
  | .error (.bad n c d e i) => raise (s.noted n) c d (e.getD 0) (i.getD 0)

/-! ## Versions and granules (03 R71 to R73, R87) -/

/-- Where GV accesses of a record come from. -/
structure Gv where
  (d : DieId) (ctx : Ctx)
  deriving DecidableEq, Repr
def Gv.rd (v : Gv) (s : State) (va n : Nat) : GOp (State × List Byte) := asGv (gRead s v.d v.ctx true va n)
def Gv.wr (v : Gv) (s : State) (va : Nat) (bs : List Byte) (base : Nat := 0) : GOp State := asGv (gWrite s v.d v.ctx true va bs base)

/-- Writes a record back whole, as one GV update. -/
def Gv.putRec (v : Gv) (s : State) (r : RecRef) (base : Nat := 0) : GOp State := v.wr s r.va (bitsBytes 64 r.w) base

def Gv.pair (v : Gv) (s : State) (base g : Nat) : GOp (State × Nat) := do
  let (s, bs) ← v.rd s (base + g / 4) 1
  pure (s, bytesToNat bs / 4 ^ (g % 4) % 4)
def Gv.putPair (v : Gv) (s : State) (base g x : Nat) : GOp State := do
  let (s, bs) ← v.rd s (base + g / 4) 1
  let o := bytesToNat bs
  v.wr s (base + g / 4) [BitVec.ofNat 8 (o - o / 4 ^ (g % 4) % 4 * 4 ^ (g % 4) + x % 4 * 4 ^ (g % 4))]

def tagBase (sd : Side) (sh : Bool) : Nat := if sh then sd.svtag else sd.vtag
/-- The committed copy of a granule (03 R87, R89): false the data, true the shadow. -/
def Gv.committed (v : Gv) (s : State) (r : RecRef) (g : Nat) : GOp (State × Bool × Bool) :=
  if !r.w.shadow then .ok (s, false, false)
  else do
    let (s, st) ← v.pair s r.w.side.state g
    let sel := st % 2 == 1
    let pend := st / 2 == 1
    pure (s, (if r.w.cmt = 1 then sel != pend else sel), pend)
def Gv.tag (v : Gv) (s : State) (r : RecRef) (sh : Bool) (g : Nat) : GOp (State × Nat) := v.pair s (tagBase r.w.side sh) g

/-- Moves one reference between ring slots and updates REFH (03 R71). -/
def Gv.moveRef (v : Gv) (s : State) (r : RecRef) (old new : Nat) : GOp (State × RecRef) :=
  if old = new then .ok (s, r)
  else do
    let vc := r.w.side.vcount
    let (s, a) ← v.rd s (vc + 8 * old) 8
    let (s, b) ← v.rd s (vc + 8 * new) 8
    let na := bytesToNat a - 1
    let nb := bytesToNat b + 1
    let s ← v.wr s (vc + 8 * old) (natToBytes 8 na)
    let s ← v.wr s (vc + 8 * new) (natToBytes 8 nb)
    let w := (r.w.put 8 (16 * old) 4 (min 15 na)).put 8 (16 * new) 4 (min 15 nb)
    let r := { r with w := w }
    let s ← v.putRec s r
    pure (s, r)
/-- Adds or drops one reference to a ring slot (03 R71, R89). -/
def Gv.addRef (v : Gv) (s : State) (r : RecRef) (slot : Nat) (up : Bool) : GOp (State × RecRef) := do
  let va := r.w.side.vcount + 8 * slot
  let (s, a) ← v.rd s va 8
  let n := if up then bytesToNat a + 1 else bytesToNat a - 1
  let s ← v.wr s va (natToBytes 8 n)
  let r := { r with w := r.w.put 8 (16 * slot) 4 (min 15 n) }
  let s ← v.putRec s r
  pure (s, r)
/-- Retags a granule's copy. -/
def Gv.retag (v : Gv) (s : State) (r : RecRef) (sh : Bool) (g tag : Nat) : GOp (State × RecRef) := do
  let (s, old) ← v.tag s r sh g
  if old = tag then pure (s, r)
  else
    let s ← v.putPair s (tagBase r.w.side sh) g tag
    v.moveRef s r old tag

def granVa (r : RecRef) (sh : Bool) (g : Nat) : Nat := if sh then r.w.side.shdata + 4096 * g else r.w.dbase + 4096 * g
def scaleVa (r : RecRef) (sh : Bool) (g : Nat) : Nat := (if sh then r.w.side.shscale else r.w.side.bscale) + 512 * g
def mapVa (r : RecRef) (sh : Bool) (g : Nat) : Nat := (if sh then r.w.side.shmap else r.w.side.bmap) + 64 * g

/-- Copies the committed granule with its scales and map into the other copy (03 R87). -/
def Gv.copyGran (v : Gv) (s : State) (r : RecRef) (from_ : Bool) (g : Nat) : GOp State := do
  let (s, bs) ← asGv (gRead s v.d v.ctx from_ (granVa r from_ g) 4096)
  let s ← asGv (gWrite s v.d v.ctx (!from_) (granVa r (!from_) g) bs)
  if r.w.blocked then do
    let (s, sc) ← v.rd s (scaleVa r from_ g) 512
    let s ← v.wr s (scaleVa r (!from_) g) sc
    let (s, mp) ← v.rd s (mapVa r from_ g) 64
    v.wr s (mapVa r (!from_) g) mp
  else pure s

/-- Readies granule g for a write: the copy it goes to, R73 against the granule's version, the tag LIVE, the
references, PEND. `cover` says the write covers the whole granule. -/
def Gv.readyWrite (v : Gv) (s : State) (r : RecRef) (g : Nat) (cover : Bool) : GOp (State × RecRef × Bool) := do
  let (s, c, pend) ← v.committed s r g
  let sh := if r.w.step then !c else c
  let copies := r.w.step && !pend
  let (s, t) ← v.tag s r (if copies then c else sh) g
  if t != r.w.live && !cover then gBad 11 1
  else
    let s ← if copies && !cover then v.copyGran s r c g else pure s
    -- a copy not yet pending holds no reference (log 25)
    let (s, r) ← if copies then do
        let s ← v.putPair s (tagBase r.w.side sh) g r.w.live
        v.addRef s r r.w.live true
      else v.retag s r sh g r.w.live
    let s ← if r.w.step then do
        let (s, st) ← v.pair s r.w.side.state g
        v.putPair s r.w.side.state g (st % 2 + 2)
      else pure s
    pure (s, r, sh)

/-! ## Reading elements (03 R72, 13 R320) -/

/-- How a granule reads: the copy, its slot, and its block scales and boundary bits. -/
structure GranView where
  (sh : Bool) (slot : Nat) (scales map : List Byte)
  deriving DecidableEq, Repr
def Gv.viewCopy (v : Gv) (s : State) (r : RecRef) (c : Bool) (g : Nat) : GOp (State × GranView) := do
  let (s, t) ← v.tag s r c g
  if 7 ≤ r.w.sfmt t then gBad 11 3
  else
    let f := r.w.sfmt t
    if f = 2 ∨ f = 3 then do
      let (s, sc) ← v.rd s (scaleVa r c g) 512
      let (s, mp) ← if f = 3 then v.rd s (mapVa r c g) 64 else pure (s, [])
      pure (s, ⟨c, t, sc, mp⟩)
    else pure (s, ⟨c, t, [], []⟩)
/-- The committed copy as it reads. -/
def Gv.view (v : Gv) (s : State) (r : RecRef) (g : Nat) : GOp (State × GranView) := do
  let (s, c, _) ← v.committed s r g
  v.viewCopy s r c g

def GranView.fmt (x : GranView) (r : RecRef) : Fmt := recFmt (r.w.sfmt x.slot)
/-- Byte offset of element e inside its granule. -/
def elByte (f : Fmt) (p e : Nat) : Nat := if f = .mxf4 then e % 4096 / 2 else e * p % 4096
def byteAt (l : List Byte) (i : Nat) : Nat := ((l.drop i).headD 0).toNat
/-- Group starting the block of group n of a granule (02 R47). DESIGN CHOICE (log 52): the bit of group g is bit g mod 8 of
byte g div 8. -/
def blockStart (map : List Byte) : Nat → Nat
  | 0 => 0
  | n + 1 => if (byteAt map ((n + 1) / 8)).testBit ((n + 1) % 8) then n + 1 else blockStart map n
/-- Block scale code of element e of its granule; 127 where the format has none. -/
def GranView.code (x : GranView) (r : RecRef) (e : Nat) : Nat :=
  match x.fmt r with
  | .mxf4 => byteAt x.scales (e % 4096 / 32)
  | .ps2 => byteAt x.scales (blockStart x.map (e % 4096 / 8))
  | _ => 127
/-- Decode and ScaleOf of an element whose encoded bits are given (02 R49, R58). -/
def GranView.value (x : GranView) (r : RecRef) (e bits : Nat) : XV :=
  (NumFmt.byE8m0 (x.code r e) (NumFmt.decode (x.fmt r) bits)).scale (r.w.sigma x.slot)
/-- An element from the bytes of its granule, byte 0 of `bs` standing at offset `base`. -/
def GranView.elem (x : GranView) (r : RecRef) (bs : List Byte) (base e : Nat) : XV :=
  let f := x.fmt r
  let o := elByte f r.w.pitch e - base
  let n := bytesToNat ((bs.drop o).take (max 1 (NumFmt.width f / 8)))
  x.value r e (if f = .mxf4 then n / 16 ^ (e % 2) % 16 else n)

/-! ## Encoding elements (03 R76; 02 R45, R47) -/

/-- Encoded elements with their events, the block codes and start bits of the run. -/
structure Enc where
  (els : List (Nat × Ev)) (codes : List Nat) (starts : List Bool)
  deriving DecidableEq, Repr

/-- Splits a list into runs of n. -/
def chunks {α : Type} (n : Nat) : Nat → List α → List (List α)
  | 0, _ => []
  | fuel + 1, l => if l.isEmpty ∨ n = 0 then [] else l.take n :: chunks n fuel (l.drop n)

/-- SAT and FTZ as a conversion between floats uses them when no tensor scale acts (02 Table 2.6): the same format copies
the bits, a wider one is never flushed. `k` is the change of tensor scale. -/
def cvtFlags (src dst : Fmt) (k : Int) (sat ftz : Bool) : Bool × Bool :=
  if k != 0 || src.isInt then (sat, ftz)
  else if src == dst then (false, false)
  else (sat, ftz && !decide (NumFmt.width src < NumFmt.width dst))
/-- Whether the group of eight elements from element e on holds the first element of a k-row of a KMAJ record, whose KROWS
k-rows have equal lengths (03 R70; 02 R47). -/
def RecBits.kStart (w : RecBits) (e : Nat) : Bool :=
  let n := w.count / w.krows
  w.kmaj && n != 0 && decide ((e + n - 1) / n * n < e + 8)
/-- The k-rows of a run of groups: a group that begins one starts a new list (02 R47). -/
def kRows {α : Type} (brk : Nat → Bool) (gs : List α) : List (List α) :=
  gs.zipIdx.foldr (fun x acc =>
    match acc with
    | [] => [[x.1]]
    | l :: t => if brk (x.2 + 1) then [x.1] :: l :: t else (x.1 :: l) :: t) []
/-- Encodes values already divided by 2^sigma; `rnd` gives each element's random byte. PS2 blocks start with the run, and at
each group that `brk` says begins a k-row (02 R47; log 52). -/
def encodeRun (f : Fmt) (mode : RMode) (sat ftz : Bool) (bj : Nat) (brk : Nat → Bool) (rnd : Nat → Nat) (ys : List XV) : Enc :=
  match f with
  | .mxf4 =>
    let blocks := (chunks 32 (ys.length / 32 + 1) ys).zipIdx
    let one := fun (b : List XV × Nat) =>
      let c := NumFmt.mxCode b.1
      if c = 255 then b.1.map fun y => (0, (⟨false, false, y.isNan⟩ : Ev))
      else b.1.zipIdx.map fun (y, i) => NumFmt.roundTo .mxf4 mode true ftz (rnd (32 * b.2 + i)) (y.scale (127 - (c : Int)))
    ⟨blocks.flatMap one, blocks.map fun b => NumFmt.mxCode b.1, []⟩
  | .ps2 =>
    let groups := chunks 8 (ys.length / 8 + 1) ys
    let bl := (kRows brk groups).flatMap (ps2Blocks bj)
    let one := fun (x : List XV × (Bool × Nat)) =>
      if x.2.2 = 255 then x.1.map fun y => (0x77, (⟨false, false, y.isNan⟩ : Ev))
      else x.1.map fun y => NumFmt.ps2Quant (y.scale (127 - (x.2.2 : Int)))
    ⟨(groups.zip bl).flatMap one, bl.map Prod.snd, bl.map Prod.fst⟩
  | _ => ⟨ys.zipIdx.map fun (y, i) => NumFmt.roundTo f mode sat ftz (rnd i) y, [], []⟩

/-- Bytes of encoded elements of a width, the last one whole. -/
def packBits (w : Nat) (els : List Nat) : List Byte := natToBytes ((els.length * w + 7) / 8) (els.foldr (fun x n => x + 2 ^ w * n) 0)

/-! ## Statistics (03 R76 to R79) -/

def StatEnt.fresh (ctx : Ctx) (uid : Nat) (r : RecRef) : StatEnt :=
  { ctx := ctx, uid := uid, handle := r.handle, bins := List.replicate 24 0, samp := 0, sat := 0, und := 0, nan := 0, maxe := none
    base := r.w.satn, above := false, recOver := r.w.over, evict := false, clean := true, reply := none }
/-- Bin (03 R76). -/
def StatEnt.bin (binbase : Int) (e : StatEnt) (x : XV) : StatEnt :=
  if x.isNan || x.isZero then e
  else
    let k : Int := if x.isInf then 127 else max (-127) (min 127 x.exp2Floor)
    let i := (max 0 (min 23 (k - binbase))).toNat
    { e with bins := e.bins.set i (e.bins.getD i 0 + 1), samp := e.samp + 1,
             maxe := some (match e.maxe with | none => k | some m => max m k) }
def StatEnt.events (e : StatEnt) (ev : Ev) : StatEnt :=
  { e with sat := e.sat + (if ev.sat then 1 else 0), und := e.und + (if ev.under then 1 else 0),
           nan := e.nan + (if ev.nan then 1 else 0) }
def satCount (els : List (Nat × Ev)) : Nat := (els.filter fun x => x.2.sat).length

/-- A policy entry (03 Table 3.4). -/
def Gv.policy (v : Gv) (s : State) (r : RecRef) : GOp (State × BitVec 128) := do
  let (s, bs) ← asGv (gRead s v.d v.ctx false ((BitVec.extractLsb' 8 49 v.ctx.ptbase).toNat * 256 + 16 * r.w.policy) 16)
  let p : BitVec 128 := BitVec.ofNat 128 (bytesToNat bs)
  if (p.extractLsb' 56 8).slt (p.extractLsb' 48 8) then gBad 11 3 else pure (s, p)
def polSmax (p : BitVec 128) : Int := (p.extractLsb' 56 8).toInt
def polSmin (p : BitVec 128) : Int := (p.extractLsb' 48 8).toInt
def polOvlim (p : BitVec 128) : Nat := (p.extractLsb' 32 16).toNat
def polHunit (p : BitVec 128) : Nat := (p.extractLsb' 123 5).toNat
def polLoss (p : BitVec 128) : Bool := p.getLsbD 104

/-- Excess saturation (03 R79). -/
def satFaults (e : StatEnt) (ovlim new : Nat) : Bool :=
  new != 0 && !e.above && ((ovlim != 0xFFFF && decide (ovlim < e.base + e.sat + new)) || e.recOver)

/-- An entry one of whose counts has reached 2^31 is to be flushed (03 R77). -/
def StatEnt.heavy (e : StatEnt) : Bool := !e.clean && (e.samp :: e.sat :: e.und :: e.nan :: e.bins).any fun n => decide (2 ^ 31 ≤ n)
/-- Whether an entry is a record's: handles belong to a context. -/
def StatEnt.is (e : StatEnt) (asid : BitVec 16) (h : Nat) : Bool := e.handle == h && e.ctx.asid == asid
/-- A core's entry for a record of a task's context, made anew when it has none; none while the entry is to be flushed, or
the buffer is full, and then the oldest entry is marked to be flushed (03 R77). -/
def statEntry (k : Core) (ctx : Ctx) (uid : Nat) (r : RecRef) : Core × Option StatEnt :=
  match k.stats.find? (fun e => e.is ctx.asid r.handle && !e.evict) with
  | some e => (k, if e.heavy then none else some { e with ctx := ctx, uid := uid })
  | none =>
    if k.stats.length < 16 then (k, some (StatEnt.fresh ctx uid r))
    else if k.stats.any (fun e => e.evict) then (k, none)
    else
      match k.stats with
      | e :: t => ({ k with stats := { e with evict := true } :: t }, none)
      | [] => (k, none)
/-- A full buffer's oldest entry is marked to be flushed, unless one is already. -/
def evictOldest (k : Core) : Core :=
  if k.stats.length < 16 || k.stats.any (fun e => e.evict) then k
  else match k.stats with
    | e :: t => { k with stats := { e with evict := true } :: t }
    | [] => k
/-- Puts an entry back as the most recently used. -/
def putStat (k : Core) (e : StatEnt) : Core :=
  { k with stats := (k.stats.filter fun x => !x.is e.ctx.asid e.handle || x.evict) ++ [e] }

/-- What the statistics side of a store path decides before anything is written. -/
inductive SatRes where
  | ok (k : Core)
  | wait (k : Core)
  | excess (k : Core)
  deriving DecidableEq, Repr
/-- Binning, counting and the excess check of one write of values xs encoded as els, for a task of a context. -/
def statStore (k : Core) (ctx : Ctx) (uid : Nat) (r : RecRef) (ovlim : Nat) (xs : List XV) (els : List (Nat × Ev)) : SatRes :=
  if !r.w.auto then .ok k
  else match statEntry k ctx uid r with
    | (k, none) => .wait k
    | (k, some e) =>
      if satFaults e ovlim (satCount els) then .excess (putStat k { e with above := true })
      else .ok (putStat k { (els.map Prod.snd).foldl StatEnt.events (xs.foldl (StatEnt.bin r.w.binbase) e) with clean := false })

/-! ## Norms and the finite flag (03 R70, R88) -/

def Gv.addNorm (v : Gv) (s : State) (r : RecRef) (e : Nat) (x : XV) : GOp State := do
  let va := r.w.side.norms + 4 * (e / (r.w.count / r.w.krows))
  let (s, bs) ← v.rd s va 4
  let y := NumFmt.arith .f32 .rne false false 0 (NumFmt.sum false [NumFmt.decode .f32 (bytesToNat bs), NumFmt.mul x x])
  v.wr s va (natToBytes 4 y)
/-- Adds the squares of elements e0, e0 + 1, … as stored, without 2^sigma (log 24). -/
def Gv.addNorms (v : Gv) (s : State) (r : RecRef) (e0 : Nat) (vals : List XV) : GOp State :=
  if !r.w.kmaj then .ok s
  else vals.zipIdx.foldlM (init := s) fun s (x, i) => v.addNorm s r (e0 + i) x
/-- Values of encoded elements with their block scales. -/
def encValues (f : Fmt) (e : Enc) : List XV :=
  e.els.zipIdx.map fun (x, i) =>
    let y := NumFmt.decode f x.1
    match f with
    | .mxf4 => NumFmt.byE8m0 (e.codes.getD (i / 32) 127) y
    | .ps2 => NumFmt.byE8m0 (e.codes.getD (i / 8) 127) y
    | _ => y

/-- Sets the step finite flag of a context's open set. -/
def setFinite (s : State) (asid : BitVec 16) : State :=
  { s with steps := s.steps.map fun x => if x.asid = asid then { x with finite := true } else x }
def stepWrite (s : State) (asid : BitVec 16) (r : RecRef) (xs : List XV) (els : List (Nat × Ev)) : State :=
  if r.w.step && (els.any (fun x => x.2.nan) || xs.any XV.isInf) then setFinite s asid else s

/-! ## Tangent planes (15 R381) -/

def planeVa (r : RecRef) (k e : Nat) : Nat := r.w.side.tplanes + ((k - 1) * r.w.count + e) * (NumFmt.width r.w.tfmt / 8)

end Sys2Proof.Machine
end

