-- ==== Sys2Proof/Machine/Memory.lean ====
section
/-!
DEFINITION. Loads and stores of the memory slot (spec 13 R317 to R324; 04 R101 to R104; 15 R382). A load is checked
and translated at issue and waits among the core's pending loads; a store enters the write queue.
-/

namespace Sys2Proof.Machine

open Sys2Proof.NumFmt (XV Ev)

/-! ## Targets of an LS access (13 R318; 01 R20; 05 R131; 18 R439) -/

/-- Checks the target of one line's part: class 6 details 1, 3 and 4, class 19, and class 20 detail 1 for a
read of a poisoned line. A line held by a registered pull is no error: the access waits at the home. -/
def lsTarget (s : State) (pa va : Nat) (mmioOk read : Bool) : Op Unit :=
  match target pa with
  | .mmio .. => if mmioOk then reach else raise s 6 1 va
  | _ => if read && Sparse.get false s.poison (pa / 128) then raise s 20 1 else reach
where
  reach : Op Unit :=
    match homePrep s (coreDie s.cur) pa with
    | .error (.cause n c d) => raise (s.noted n) c d va
    | _ => .ok ()

/-- A run of an access inside one page: its nominal address and length, the address translated (in another copy
for a granule of a step member), whether that page needs its RB bit, and the granule of the record. -/
structure Piece where
  (va len at_ : Nat) (rb : Bool) (g : Option Nat)
  deriving DecidableEq, Repr

def plainPieces (va n : Nat) : List Piece := (cutPages va n).map fun (a, len) => ⟨a, len, a, false, none⟩

/-- The granule of a record's tensor that holds an address. -/
def granOf (r : RecRef) (a : Nat) : Option Nat :=
  if r.w.dbase ≤ a ∧ a < r.w.dbase + r.w.len then some ((a - r.w.dbase) / 4096) else none
/-- Cuts a run at granules and at the tensor's end. -/
def recCuts (r : RecRef) (va n : Nat) : List (Nat × Nat × Option Nat) :=
  let e := r.w.dbase + r.w.len
  (cutPages va n).flatMap fun (a, len) =>
    if a < e ∧ e < a + len then [(a, e - a, granOf r a), (e, a + len - e, none)] else [(a, len, granOf r a)]

/-- GV accesses made for the running core. -/
def State.gvOf (s : State) : Gv := ⟨coreDie s.cur, s.k.ctx⟩

/-- Pieces of an access to a record's tensor: reads go to the committed copy, writes to a step member to the
other one (03 R87). An atomic on a member takes its old value from the copy it writes: DESIGN CHOICE (log 61). -/
def recPieces (v : Gv) (s : State) (r : RecRef) (write : Bool) (va n : Nat) : GOp (State × List Piece) :=
  (recCuts r va n).foldlM (init := (s, ([] : List Piece))) fun (s, ps) (a, len, g) =>
    match g with
    | none => .ok (s, ps ++ [⟨a, len, a, false, none⟩])
    | some i => do
      let (s, c, _) ← v.committed s r i
      let sh := if write && r.w.step then !c else c
      pure (s, ps ++ [⟨a, len, if sh then granVa r true i + (a - r.w.dbase) % 4096 else a, sh, some i⟩])

def State.lsAsid (s : State) : Nat := (s.isys.asid.extractLsb' 0 16).toNat

/-- Translates every piece, then makes the tag-capability check of CLD and CST (01 R31, order 7), then checks every
line's target: answers each piece with its physical address and leaf. -/
def xlatePieces (s : State) (write mmioOk : Bool) (ps : List Piece) (tagc : Bool := false) : Op (List (Piece × Nat × BitVec 64)) := do
  let xs ← ps.mapM fun p => do
    let (_, pa, pte) ← lsXlate s s.lsAsid (privMode s.k) p.at_ ⟨write, false, p.rb⟩
    pure (p, pa, pte)
  if tagc && xs.any (fun x => !pteTagc x.2.2) then raise s 4 11
  else do
    for x in xs do
      for l in cutLines x.2.1 x.1.len do
        lsTarget s l.1 (x.1.va + (l.1 - x.2.1)) mmioOk (!write)
    pure xs

/-! ## Loads -/

/-- Pieces of a load: through a capability whose record holds a shadow copy, each granule's committed copy (03 R87). The
load is placed after the record's last update, so that it follows a commit it has seen (03 R90). -/
def loadPieces (s : State) (c : Cap) (va n : Nat) : Op (State × List Piece) :=
  if c.handle = 0 then .ok (s, plainPieces va n)
  else
    let v := s.gvOf
    match recAt s v.d v.ctx c.handle with
    | .error (.wait n) => freeze (s.noted n)
    | .error (.bad n 20 d e i) => gvOp s c.handle va (.error (.bad n 20 d e i))
    | .error _ => .ok (s, plainPieces va n)
    | .ok (s', r) =>
      if !r.w.shadow then .ok (s, plainPieces va n)
      else if r.w.malformed then raise s 11 3 va (BitVec.ofNat 64 c.handle)
      else do
        let (s', ps) ← gvOp s c.handle va (recPieces v s' r false va n)
        pure (s'.modK fun k => { k with pts := max k.pts (lineSt s' (r.pa / 128)).wts }, ps)

def pushLoad (s : State) (dst : LdDst) (segs : List (Nat × Nat)) (va : Nat) (cvt : Option LdCvt) : State :=
  s.modT fun t => { t with loads := t.loads ++ [⟨dst, segs, [], va, cvt, s.k.wq.length, s.now, false⟩] }

/-- A load of n bytes at a checked virtual address. -/
def lsLoad (s : State) (c : Cap) (va n : Nat) (dst : LdDst) (mmioOk : Bool := false) (tagc : Bool := false) : Op State := do
  let (s, ps) ← loadPieces s c va n
  let xs ← xlatePieces s false mmioOk ps tagc
  pure (pushLoad s dst (xs.flatMap fun x => cutLines x.2.1 x.1.len) va none)

/-- The bytes of translated pieces with the tags of their granules, by LS loads at their lines (11 R281, R287). -/
def readTagged (s : State) (xs : List (Piece × Nat × BitVec 64)) : HOp (State × List Byte × List Bool) :=
  (xs.flatMap fun x => cutAt 16 (x.1.len / 16 + 2) x.2.1 x.1.len).foldlM (init := (s, ([] : List Byte), ([] : List Bool))) fun x a => do
    let r ← lsRead1 x.1 s.cur a.1 a.2
    pure (r.1, x.2.1 ++ r.2.1, x.2.2 ++ [r.2.2])

/-- MMIO takes only naturally aligned accesses of 4 or 8 bytes (13 Table 13.2). -/
def mmioFit (va n : Nat) : Bool := (n == 4 || n == 8) && va % n == 0

/-- LD (13 R319). -/
def ldOp (n : Nat) (sx : Bool) (o : LScal) (s : State) : Res1 :=
  guarded o.g s (do
    let c := s.cR o.m.cap
    let va ← capCheck s c .rd (s.memOff o.m.idx o.m.imm n) n
    lsLoad s c va n (.s o.d n sx) (mmioFit va n))
def execLdI8 (o : LScal) (s : State) : Res1 := ldOp 1 true o s
def execLdN8 (o : LScal) (s : State) : Res1 := ldOp 1 false o s
def execLdI16 (o : LScal) (s : State) : Res1 := ldOp 2 true o s
def execLdN16 (o : LScal) (s : State) : Res1 := ldOp 2 false o s
def execLdI32 (o : LScal) (s : State) : Res1 := ldOp 4 true o s
def execLdN32 (o : LScal) (s : State) : Res1 := ldOp 4 false o s
def execLdI64 (o : LScal) (s : State) : Res1 := ldOp 8 true o s

/-- LDV with CV = 0 (13 R321). -/
def execLdv (o : LVec) (s : State) : Res1 :=
  guarded o.g s (do
    let c := s.cR o.m.cap
    let va ← capCheck s c .rd (s.memOff o.m.idx o.m.imm 64) 512
    if va % 512 ≠ 0 then raise s 6 0 va
    else lsLoad s c va 512 (.v o.d))
/-- Destination of an LDVU: a register, or a stream that is to take its row when it arrives (10 Table 10.5; log 53). A
push is checked now (13 R340). -/
def ldvuDst (s : State) : VDst → Op LdDst
  | .reg r => .ok (.v r)
  | .push q => do
    let _ ← pushRow s q 0
    pure (.push q)
  | .latch => raise1 s (s.slotNo 1) 1
/-- LDVU (13 R323). -/
def execLdvu (o : LVecU) (s : State) : Res1 :=
  guarded o.g s (do
    let c := s.cR o.m.cap
    let va ← capCheck s c .rd (s.memOff o.m.idx o.m.imm 1) 512
    let d ← ldvuDst s o.d
    lsLoad s c va 512 d)
/-- CLD (13 R324; 01 R31 orders 6 and 7). -/
def execCld (o : LCap) (s : State) : Res1 :=
  guarded o.g s (do
    let c := s.cR o.m.cap
    let va ← capCheck s c .rd (s.memOff o.m.idx o.m.imm 16) 16
    if va % 16 ≠ 0 then raise s 4 12
    else lsLoad s c va 16 (.c o.c) false true)

/-! ## Stores -/

/-- The record a store through a capability engages; none without a handle. -/
def storeRec (s : State) (c : Cap) (va : Nat) : Op (State × Option RecRef) :=
  if c.handle = 0 then .ok (s, none)
  else do
    let v := s.gvOf
    let (s, r) ← gvOp s c.handle va (engage s v.d v.ctx c.handle)
    pure (s, some r)

/-- Order 5 of 01 Table 1.7 alone, for an access whose later check fails. -/
def resolves (s : State) (c : Cap) (va : Nat) : Op Unit :=
  if c.handle = 0 then .ok ()
  else do
    let _ ← gvOp s c.handle va (recAt s s.gvOf.d s.gvOf.ctx c.handle)
    pure ()

/-- Bytes that hold a granule's elements (03 R73): half as many in MXFP4. -/
def granBytes (r : RecRef) (g : Nat) : Nat :=
  let n := min r.w.perGran (r.w.count - g * r.w.perGran)
  if r.w.fmt = 2 then (n + 1) / 2 else n * r.w.pitch
/-- Whether a bit write covers granule g (03 R73). -/
def covers (r : RecRef) (g : Nat) (p : Piece) : Bool :=
  decide (p.va = r.w.dbase + 4096 * g) && decide (granBytes r g ≤ p.len)

/-- Readies every granule the pieces write. -/
def readyAll (s : State) (r : RecRef) (vec : Bool) (ps : List Piece) : Op (State × RecRef) :=
  ps.foldlM (init := (s, r)) fun (s', r) p =>
    match p.g with
    | none => .ok (s', r)
    | some g =>
      match s.gvOf.readyWrite s' r g (!vec && covers r g p) with
      | .ok (s', r, _) => .ok (s', r)
      | .error e => gvOp s r.handle p.va (.error e)

/-- Bytes of the runs from an address on. -/
def runBytes (runs : List (Nat × List Byte)) (va len : Nat) : List Byte :=
  match runs.find? (fun x => decide (x.1 ≤ va) && decide (va < x.1 + x.2.length)) with
  | some x => (x.2.drop (va - x.1)).take len
  | none => []

/-- Entries of one store for one line become one, the later bytes over the earlier. -/
def joinLines : List WEntry → List WEntry
  | [] => []
  | e :: t =>
    match joinLines t with
    | [] => [e]
    | x :: r => if x.line = e.line then e.merge x :: r else e :: x :: r

/-- Queues a store's entries, or freezes while they do not fit (04 R101). `s0` is the state before the slot acted. -/
def enqueueAll (s0 s : State) (es : List WEntry) : Op State :=
  let k := enqueueStore s.k es
  if 32 < k.wq.length then freeze s0 else .ok (s.setCore s.cur k)

/-- A store of byte runs at checked virtual addresses: one entry for each line that holds a written byte. `blockOk` admits
MXFP4 and PS2 records (13 R319, R321); a vector store never covers a granule. `cap` is the tag a CST writes, whose address
is aligned to its granule (01 Table 1.7, order 6). -/
def lsStore (s : State) (c : Cap) (runs : List (Nat × List Byte)) (vec blockOk : Bool) (mmioOk : Bool := false)
    (cap : Option Bool := none) : Op State := do
  let s0 := s
  let va := (runs.headD (0, [])).1
  if cap.isSome && va % 16 != 0 then do
    resolves s c va
    raise s 4 12
  else do
    let (s, r?) ← storeRec s c va
    let (s, ps) ← match r? with
      | none => pure (s, runs.flatMap fun x => plainPieces x.1 x.2.length)
      | some r => do
        let (s, ps) ← runs.foldlM (init := (s, ([] : List Piece))) fun y x => do
          let z ← gvOp y.1 c.handle va (recPieces y.1.gvOf y.1 r true x.1 x.2.length)
          pure (z.1, y.2 ++ z.2)
        if !blockOk && (r.w.fmt == 2 || r.w.fmt == 3) && ps.any (fun p => p.g.isSome) then
          raise s 11 7 va (BitVec.ofNat 64 c.handle)
        else pure (s, ps)
    let xs ← xlatePieces s true mmioOk ps cap.isSome
    let s1 ← match r? with
      | none => pure s
      | some r => (readyAll s r vec ps).map Prod.fst
    enqueueAll s0 s1 (joinLines (xs.flatMap fun x =>
      (cutLines x.2.1 x.1.len).map fun l =>
        let a := x.1.va + (l.1 - x.2.1)
        entryOf l.1 (runBytes runs a l.2) (cap.getD false) 0 a))

/-- ST (13 R319). -/
def stOp (n : Nat) (o : LScal) (s : State) : Res1 :=
  guarded o.g s (do
    let c := s.cR o.m.cap
    let va ← capCheck s c .wr (s.memOff o.m.idx o.m.imm n) n
    lsStore s c [(va, bitsBytes n (s.sR o.d))] false false (mmioFit va n))
def execStI8 (o : LScal) (s : State) : Res1 := stOp 1 o s
def execStI16 (o : LScal) (s : State) : Res1 := stOp 2 o s
def execStI32 (o : LScal) (s : State) : Res1 := stOp 4 o s
def execStI64 (o : LScal) (s : State) : Res1 := stOp 8 o s

/-- The vector source of an STV, which takes no stream (13 R321). -/
def State.memV (s : State) : VSrc → VIn
  | .reg n => ⟨s.iregs.v.get n.toFin, s.iregs.vd.get n.toFin⟩
  | .v0l => ⟨s.iregs.vl.get 0, s.iregs.vld.get 0⟩
  | .v1l => ⟨s.iregs.vl.get 1, s.iregs.vld.get 1⟩
  | .zero => ⟨0, VTan4.zero⟩
  | .pop _ => ⟨0, VTan4.zero⟩

/-- STV with CV = 0 (13 R321). -/
def execStv (o : LStv) (s : State) : Res1 :=
  guarded o.g s (do
    let c := s.cR o.m.cap
    let va ← capCheck s c .wr (s.memOff o.m.idx o.m.imm 64) 512
    if va % 512 ≠ 0 then raise s 6 0 va
    else lsStore s c [(va, bitsBytes 512 (s.memV o.src).x)] true true)

/-- Consecutive selected positions as runs (start, length). -/
def runsOf (sel : Nat → Bool) : Nat → Nat → List (Nat × Nat)
  | 0, _ => []
  | n + 1, i =>
    let rest := runsOf sel n (i + 1)
    if !sel i then rest
    else
      match rest with
      | (a, len) :: t => if a = i + 1 then (i, len + 1) :: t else (i, 1) :: rest
      | [] => [(i, 1)]

/-- Byte runs of an STVM that its mask selects, from byte 0 of its row (13 R323). -/
def stvmRuns (vm : Row) : List (Nat × Nat) := runsOf (fun b => (lane vm (b / 4)).testBit (b % 4)) 512 0
/-- STVM (13 R323): its source may pop a stream (10 Table 10.5). -/
def execStvm (o : LStvm) (s : State) : Res1 :=
  guarded o.g s (
    match (do
      let (s1, ins, _) ← gather s [o.src] false
      let c := s1.cR o.m.cap
      let x := (ins.headD ⟨0, VTan4.zero⟩).x
      let runs := stvmRuns (s1.iregs.v.get o.vm.toFin)
      match runs.head?, runs.getLast? with
      | some f, some l => do
        let va ← capCheck s1 c .wr (s1.memOff o.m.idx o.m.imm 1 + f.1) (l.1 + l.2 - f.1)
        lsStore s1 c (runs.map fun r => (va + (r.1 - f.1), (List.range r.2).map fun i => BitVec.ofNat 8 (rowByte x (r.1 + i)))) true false
      | _, _ => pure s1 : Op State) with
    | .error (.freeze _) => freeze s
    | r => keepPops s r)

/-- CST (13 R324). -/
def execCst (o : LCap) (s : State) : Res1 :=
  guarded o.g s (do
    let c := s.cR o.m.cap
    let va ← capCheck s c .wr (s.memOff o.m.idx o.m.imm 16) 16
    let x := s.cR o.c
    lsStore s c [(va, bitsBytes 16 x.bits)] false false false (some x.tag))

/-! ## Converting loads and stores (13 R320, R322; 15 R382) -/

/-- Checks of R322: answers the record, the nominal virtual address and element e0. -/
def cvtCheck (s : State) (c : Cap) (n : CapNeed) (off : Int) : Op (State × RecRef × Nat × Nat) :=
  match capErr3 c n off with
  | some d => raise s 4 d
  | none =>
    if c.handle = 0 then raise s 4 10
    else do
      let v := s.gvOf
      let va := ((c.base : Int) + off).toNat
      let (s, r) ← gvOp s c.handle va (engage s v.d v.ctx c.handle)
      let size := 128 * r.w.pitch
      match capErr4 c off size with
      | some d => raise s 4 d
      | none =>
        if va < r.w.dbase ∨ r.w.dbase + r.w.count * r.w.pitch < va + size then raise s 4 9
        else if (va - r.w.dbase) % size ≠ 0 then raise s 6 0 va
        else pure (s, r, va, (va - r.w.dbase) / r.w.pitch)

/-- A slot's random word; freezes when SR finds none. -/
def slotRand (s : State) (rm : RMode) : Op (BitVec 1024) :=
  if !s.usesSR rm then .ok 0
  else match s.k.t.fl with
    | some f => match f.rbq with | some w => .ok w.w | none => freeze s
    | none => match s.k.t.rbq with | w :: _ => .ok w.w | [] => freeze s
/-- A slot that stands alone takes its word itself. -/
def takeRand (s : State) (rm : RMode) : State :=
  if s.usesSR rm && s.k.t.fl.isNone then s.modT fun t => { t with rbq := t.rbq.drop 1 } else s

/-- Tangent planes that a converting access of 128 elements moves, with their runs (15 R382). -/
def planeRuns (r : RecRef) (e0 n : Nat) : List (Nat × Nat × Nat) :=
  (List.range (min n r.w.planes)).map fun i => (i + 1, planeVa r (i + 1) e0, 128 * (NumFmt.width r.w.tfmt / 8))
/-- The places of a sidecar run, translated for a converting access of the running core. -/
def lookRun (s : State) (write rb : Bool) (run : Nat × Nat) : Op (List (Piece × Nat × BitVec 64)) :=
  xlatePieces s write false ((cutPages run.1 run.2).map fun (a, len) => ⟨a, len, a, rb, none⟩)

/-- LDV with CV = 1: checked and translated now, its tangent planes with it, in the copy committed now (03 R90); decoded when
its value arrives, from the record engaged now. -/
def execLdvCvt (o : LVecCvt) (s : State) : Res1 :=
  guarded o.g s (do
    let s0 := s
    let c := s.cR o.m.cap
    let (s, r, va, e0) ← cvtCheck s c .rd (s.memOff o.m.idx o.m.imm 64)
    match slotRand s o.rm with
    | .error _ => freeze s0
    | .ok w => do
      let g := e0 / r.w.perGran
      let (s, sh, _) ← gvOp s c.handle va (s.gvOf.committed s r g)
      let (s, t) ← gvOp s c.handle va (s.gvOf.tag s r sh g)
      let f := recFmt (r.w.sfmt t)
      let a := granVa r sh g + elByte f r.w.pitch e0
      let xs ← xlatePieces s false false [⟨va, if f = .mxf4 then 64 else 128 * r.w.pitch, a, sh, some g⟩]
      let planes ← (planeRuns r e0 (if s.dual then s.dk else 0)).mapM fun p => lookRun s false true p.2
      pure (pushLoad (takeRand s o.rm) (.v o.d) [] va
        (some ⟨c.handle, r.va, r.pa, e0, (xs.headD (⟨0, 0, 0, false, none⟩, 0, 0)).2.1 / 4096 * 4096, sh,
          planes.map fun l => l.map fun x => (x.2.1, x.1.len), s.mode o.rm, o.sat, s.ftz, w⟩)))

/-- Data bytes of encoded elements e0 … of a granule copy, as entries' runs (offset in the granule, bytes). -/
def elemRun (f : Fmt) (p e0 : Nat) (els : List (Nat × Ev)) : Nat × List Byte :=
  (elByte f p (e0 % (4096 / p)), packBits (NumFmt.width f) (els.map Prod.fst))

/-- The values an STV with CV = 1 stores from element e0 on, and their codes in the record's format (13 R322). -/
def stvEnc (s : State) (o : LStvCvt) (r : RecRef) (e0 : Nat) (w : BitVec 1024) : List XV × Enc :=
  let f := recFmt r.w.fmt
  let sg := r.w.sigma r.w.live
  let fl := cvtFlags .f32 f sg o.sat s.ftz
  let xs : List XV := (List.range 128).map fun l => NumFmt.decode .f32 (lane (s.memV o.src).x l)
  (xs, encodeRun f (s.mode o.rm) fl.1 fl.2 (bjumpOf s.isys) (fun g => r.w.kStart (e0 + 8 * g)) (fun l => randByte w l 0) (xs.map fun x => x.scale (-sg)))
/-- Byte runs of an STV with CV = 1: the data, the block scale codes, the boundary bits, the tangent planes. -/
structure StvRuns where
  (data : Nat × List Byte) (codes maps planes : List (Nat × List Byte))
  deriving DecidableEq, Repr
/-- The runs, in the granule's copy `sh` (13 R322; 15 R382). -/
def stvRuns (s : State) (o : LStvCvt) (r : RecRef) (e0 g : Nat) (sh : Bool) (enc : Enc) : StvRuns :=
  let f := recFmt r.w.fmt
  let tw := NumFmt.width r.w.tfmt / 8
  let src := s.memV o.src
  { data := let d := elemRun f r.w.pitch e0 enc.els; (granVa r sh g + d.1, d.2)
    codes :=
      if f = .mxf4 then [(scaleVa r sh g + e0 % 4096 / 32, enc.codes.map (BitVec.ofNat 8))]
      else if f = .ps2 then
        ((enc.codes.zip enc.starts).zipIdx.filter fun x => x.1.2).map fun x => (scaleVa r sh g + e0 % 4096 / 8 + x.2, [BitVec.ofNat 8 x.1.1])
      else []
    maps :=
      if f = .ps2 then [(mapVa r sh g + e0 % 4096 / 64, packBits 1 (enc.starts.map fun b => if b then 1 else 0))] else []
    planes := (List.range r.w.planes).map fun i =>
      (planeVa r (i + 1) e0, (List.range 128).flatMap fun l => natToBytes tw
        (if s.dual && decide (i + 1 ≤ s.dk) then (NumFmt.roundTo r.w.tfmt .rne false s.ftz 0 (NumFmt.decode .f32 (s.vTan src (i + 1) l))).1 else 0)) }
/-- Entries of one run, at the places its pieces translate to. -/
def runEntries (grp : Nat) (run : Nat × List Byte) (xs : List (Piece × Nat × BitVec 64)) : List WEntry :=
  xs.flatMap fun x => (cutLines x.2.1 x.1.len).map fun l =>
    let a := x.1.va + (l.1 - x.2.1)
    entryOf l.1 ((run.2.drop (a - run.1)).take l.2) false grp a
/-- Places of the four kinds of runs. -/
structure StvPlaces where
  (data : List (Piece × Nat × BitVec 64)) (codes maps planes : List (List (Piece × Nat × BitVec 64)))
/-- The store's entries: data, codes and boundary bits drain as one write, the planes after it (13 R322; 15 R382). -/
def stvEntries (grp : Nat) (x : StvRuns) (p : StvPlaces) : List WEntry :=
  joinLines (runEntries grp x.data p.data
    ++ ((x.codes ++ x.maps).zip (p.codes ++ p.maps)).flatMap fun y => runEntries grp y.1 y.2)
  ++ (x.planes.zip p.planes).flatMap fun y => runEntries 0 y.1 y.2
/-- Translates every run. -/
def stvPlaces (s : State) (sh : Bool) (x : StvRuns) : Op StvPlaces := do
  let look := fun (rb : Bool) (run : Nat × List Byte) => lookRun s true rb (run.1, run.2.length)
  let d ← look sh x.data
  let c ← x.codes.mapM (look true)
  let m ← x.maps.mapM (look true)
  let p ← x.planes.mapM (look true)
  pure ⟨d, c, m, p⟩

/-- STV with CV = 1. -/
def stvCvtBody (o : LStvCvt) (s0 : State) : Op State := do
  let c := s0.cR o.m.cap
  let (s, r, va, e0) ← cvtCheck s0 c .wr (s0.memOff o.m.idx o.m.imm 64)
  if s.usesSR o.rm && recFmt r.w.fmt == .ps2 then raise1 s (s.slotNo 1) 3
  else match slotRand s o.rm with
  | .error _ => freeze s0
  | .ok w => do
    let v := s.gvOf
    let enc := stvEnc s o r e0 w
    let g := (va - r.w.dbase) / 4096
    let (s, ps) ← gvOp s c.handle va (recPieces v s r true va (128 * r.w.pitch))
    let _ ← xlatePieces s true false ps
    let sh := ps.any fun q => q.rb
    let runs := stvRuns s o r e0 g sh enc.2
    let places ← stvPlaces s sh runs
    -- R73 against the granule, then the statistics, then the effects
    let (s1, r1, _) ← gvOp s c.handle va (v.readyWrite s r g false)
    let (s2, ov) ← if r.w.auto then do
        let (s2, pol) ← gvOp s c.handle va (v.policy s1 r)
        pure (s2, polOvlim pol)
      else pure (s1, 0)
    match statStore s.k v.ctx (taskUid s.k) r ov enc.1 enc.2.els with
    | .wait k => freeze ((s0.modK fun k0 => { k0 with stats := k.stats }).postCore s0.cur .statsFlush)
    | .excess k => raise (s.modK fun k0 => { k0 with stats := k.stats }) 11 0 va (BitVec.ofNat 64 c.handle)
    | .ok k => do
      let s3 := s2.modK fun k2 => { k2 with stats := k.stats, wgrp := k2.wgrp + 1 }
      let s4 ← gvOp s c.handle va (v.addNorms s3 r1 e0 (encValues (recFmt r.w.fmt) enc.2))
      enqueueAll s0 (takeRand (stepWrite s4 v.ctx.asid r1 enc.1 enc.2.els) o.rm) (stvEntries s3.k.wgrp runs places)

def execStvCvt (o : LStvCvt) (s : State) : Res1 := guarded o.g s (stvCvtBody o s)

end Sys2Proof.Machine
end

