-- ==== Sys2Proof/Machine/Events.lean ====
section
/-!
DEFINITION. Events (spec 09 R212 to R214; 11 R278 to R280): the operations on an event entry at its home, the release
of waiters, the signals of operations that complete, and EVQUERY.
-/

namespace Sys2Proof.Machine

/-! ## Ready queues and causes -/

def findTask (s : State) (uid : Nat) : Option Task :=
  match allCores.find? (fun c => match (s.core c).task with | some t => t.uid == uid | none => false) with
  | some c => (s.core c).task
  | none => (s.saved.find? fun x => x.uid == uid).map Saved.task
def levelOf (s : State) (gid : Nat) : Nat := match findGrid s gid with | some g => g.level | none => 0
/-- A task enters the tail of its level on a die (09 R214). -/
def readyTask (s : State) (d : DieId) (t : Task) : State :=
  s.modDie d fun x => { x with ready := x.ready ++ [⟨t.gid, d, some t.uid, levelOf s t.gid, s.now⟩] }
/-- A saved task enters the ready queues of the die that holds it. -/
def readySaved (s : State) (x : Saved) : State := readyTask s x.die x.task
/-- The first cause recorded of a grid stands (09 R210). -/
def gridCause (s : State) (gid cls det : Nat) (info : Word) : State :=
  modGrid s gid fun g => if g.cause.isSome then g else { g with cause := some (BitVec.ofNat 9 (cls * 16 + det), info, 0) }

/-! ## Waiter tokens: even numbers name tasks, odd ones grids (09 R212) -/

def taskToken (uid : Nat) : Nat := 2 * uid % 2 ^ 32
def gridToken (gid : Nat) : Nat := (2 * gid + 1) % 2 ^ 32

/-- A waiter goes on, past its WAITEV. A task that has not left its core yet enters its level all the same, and is placed once it
is saved (08 Table 8.5; 09 R218). -/
def release (s : State) (tok ts : Nat) : State :=
  if tok % 2 = 1 then enterGrids (modGrid s (tok / 2) fun g => { g with waiting := none, mwts := max g.mwts ts })
  else
    let uid := tok / 2
    match s.saved.find? (fun x => x.uid == uid) with
    | some x => readySaved { s with saved := s.saved.map fun y => if y.uid = uid then { y with pts := max y.pts ts } else y } x
    | none =>
      match allCores.find? (fun c => match (s.core c).task with | some t => t.uid == uid | none => false) with
      | some c =>
        match (s.core c).task with
        | some t =>
          if (s.core c).parking = .parked then
            readyTask (s.modCore c fun k => { k with parking := .released, pts := max k.pts ts }) (coreDie c) t
          else s
        | none => s
      | none => s

/-! ## Entries and spill blocks -/

/-- How an event operation ends without effect. -/
inductive EvErr where
  | wait (n : HNote)
  | bad (n : HNote) (cls det eva : Nat) (einfo : Word)
  deriving DecidableEq, Repr
abbrev EvR (α : Type) := Except EvErr α

/-- Where event accesses come from: the die whose walker translates, the context, the timestamp base. -/
structure EvAt where
  (d : DieId) (ctx : Ctx) (base : Nat)
  deriving DecidableEq, Repr

/-- Translation of an event access, privileged (11 R278). -/
def EvAt.xl (v : EvAt) (s : State) (va : Nat) (write : Bool) : EvR (State × Nat) :=
  match walkXlate s v.d v.ctx true va ⟨write, false, false⟩ with
  | .error (.wait n) => .error (.wait n)
  | .error (.bad n det lvl) => .error (.bad n 5 det va (xlInfo (asidFor v.ctx.asid.toNat va) true false write false lvl))
  | .ok (s, pa, _) => .ok (s, pa)
def evLift {α : Type} (va : Nat) (h : HOp α) : EvR α :=
  match h with
  | .ok a => .ok a
  | .error (.wait n) => .error (.wait n)
  | .error (.cause n c d) => .error (.bad n c d va 0)
def EvAt.rd (v : EvAt) (s : State) (va n : Nat) : EvR (State × Nat) := do
  let (s, pa) ← v.xl s va false
  let (s, bs) ← evLift va (homeRead s v.d pa n)
  pure (s, bytesToNat bs)
def EvAt.wr (v : EvAt) (s : State) (va n x : Nat) : EvR (State × Nat) := do
  let (s, pa) ← v.xl s va true
  evLift va (homeWrite s v.d pa (natToBytes n x) v.base)

def evVa (ctx : Ctx) (name : Nat) : Nat := (BitVec.extractLsb' 0 57 ctx.etbase).toNat + 32 * name
def spVa (ctx : Ctx) (b : Nat) : Nat := (BitVec.extractLsb' 0 57 ctx.spbase).toNat + 64 * b
/-- A free index at or above SPCNT.COUNT is taken as 0 (09 R214). -/
def spIdx (ctx : Ctx) (b : Nat) : Nat := if (ctx.spcnt.extractLsb' 0 32).toNat ≤ b then 0 else b

/-- An event entry (09 Table 9.5). -/
structure EvEntry where
  (count : Int) (nwait sphead sptail : Nat) (w : List Nat)
  deriving DecidableEq, Repr
def EvEntry.ofNat (x : Nat) : EvEntry :=
  { count := NumFmt.toSigned 32 (x / 2 ^ 32), nwait := x / 2 ^ 16 % 2 ^ 16, sphead := x / 2 ^ 64 % 2 ^ 32, sptail := x / 2 ^ 96 % 2 ^ 32
    w := (List.range 4).map fun i => x / 2 ^ (128 + 32 * i) % 2 ^ 32 }
def EvEntry.toNat (e : EvEntry) : Nat :=
  e.nwait % 2 ^ 16 * 2 ^ 16 + (BitVec.ofInt 32 e.count).toNat * 2 ^ 32 + e.sphead * 2 ^ 64 + e.sptail * 2 ^ 96
    + (e.w.foldr (fun y n => y + 2 ^ 32 * n) 0) * 2 ^ 128

/-- Waiters in a spill chain, block by block. -/
def EvAt.chain (v : EvAt) : Nat → State → Nat → Nat → EvR (State × List Nat)
  | 0, s, _, _ => .ok (s, [])
  | fuel + 1, s, b, n =>
    if n = 0 then .ok (s, [])
    else do
      let (s, x) ← v.rd s (spVa v.ctx b) 64
      let here := (List.range (min 15 n)).map fun i => x / 2 ^ (32 + 32 * i) % 2 ^ 32
      let (s, rest) ← v.chain fuel s (x % 2 ^ 32) (n - here.length)
      pure (s, here ++ rest)

/-- Signal(e, n) of 09 R213: answers the state, with its waiters released, and the timestamp taken. -/
def EvAt.signal (v : EvAt) (s : State) (name n : Nat) : EvR (State × Nat) := do
  let va := evVa v.ctx name
  let (s, x) ← v.rd s va 32
  let e := EvEntry.ofNat x
  if e.count - n < 0 then .error (.bad .none 14 1 0 0)
  else if e.count = n ∧ 0 < e.nwait then do
    let (s, sp) ← v.chain 4400 s e.sphead (e.nwait - 4)
    let s ← if e.sphead = 0 then pure s else do
      let (s, free) ← v.rd s (spVa v.ctx 0) 4
      let s ← if spIdx v.ctx e.sptail = 0 then pure s else (v.wr s (spVa v.ctx e.sptail) 4 free).map Prod.fst
      if spIdx v.ctx e.sphead = 0 then pure s else (v.wr s (spVa v.ctx 0) 4 e.sphead).map Prod.fst
    let (s, ts) ← v.wr s va 32 { e with count := 0, nwait := 0, sphead := 0, sptail := 0 : EvEntry }.toNat
    pure ((e.w.take e.nwait ++ sp).foldl (fun s t => release s t ts) s, ts)
  else
    v.wr s va 32 { e with count := e.count - n : EvEntry }.toNat

/-- Park(e, token) of 09 R213: none when the waiter is parked, else the timestamp of the entry it proceeds on (07 R174). -/
def EvAt.park (v : EvAt) (s : State) (name tok : Nat) : EvR (State × Option Nat) := do
  let va := evVa v.ctx name
  let (s, pa) ← v.xl s va false
  let (s, bs) ← evLift va (homeRead s v.d pa 32)
  let e := EvEntry.ofNat (bytesToNat bs)
  if e.count ≤ 0 then pure (s, some (lineSt s (resolvePa pa / 128)).wts)
  else if e.nwait = 65535 then .error (.bad .none 14 2 0 (BitVec.ofNat 64 name))
  else if e.nwait < 4 then do
    let (s, _) ← v.wr s va 32 { e with nwait := e.nwait + 1, w := e.w.set e.nwait tok : EvEntry }.toNat
    pure (s, none)
  else
    let pos := (e.nwait - 4) % 15
    if pos ≠ 0 then
      -- no block at or beyond SPCNT.COUNT is written (09 R214)
      if spIdx v.ctx e.sptail = 0 then .error (.bad .none 14 2 0 (BitVec.ofNat 64 name)) else do
      let (s, _) ← v.wr s (spVa v.ctx e.sptail + 4 + 4 * pos) 4 tok
      let (s, _) ← v.wr s va 32 { e with nwait := e.nwait + 1 : EvEntry }.toNat
      pure (s, none)
    else do
      let (s, free) ← v.rd s (spVa v.ctx 0) 4
      let b := spIdx v.ctx free
      if b = 0 then .error (.bad .none 14 2 0 (BitVec.ofNat 64 name))
      else do
        let (s, nx) ← v.rd s (spVa v.ctx b) 4
        let (s, _) ← v.wr s (spVa v.ctx 0) 4 (spIdx v.ctx nx)
        let (s, _) ← v.wr s (spVa v.ctx b) 8 (tok % 2 ^ 32 * 2 ^ 32)
        let s ← if e.sphead = 0 ∨ spIdx v.ctx e.sptail = 0 then pure s else (v.wr s (spVa v.ctx e.sptail) 4 b).map Prod.fst
        let (s, _) ← v.wr s va 32
          { e with nwait := e.nwait + 1, sphead := if e.sphead = 0 then b else e.sphead, sptail := b : EvEntry }.toNat
        pure (s, none)

/-- EVINIT at the entry's home (11 Table 11.7). -/
def EvAt.init (v : EvAt) (s : State) (name : Nat) (c : Int) : EvR (State × Nat) := do
  let va := evVa v.ctx name
  let (s, x) ← v.rd s va 32
  let e := EvEntry.ofNat x
  if e.nwait ≠ 0 then .error (.bad .none 14 3 0 0)
  else v.wr s va 32 { e with count := c, sphead := 0, sptail := 0 : EvEntry }.toNat

/-- The signal by 1 of an operation that has completed, carrying its MWTS; a failure is recorded in the grid's
completion record (09 R213). While the entry's home waits it answers the note of the wait. -/
def opSignal (s : State) (d : DieId) (ctx : Ctx) (uid name mwts : Nat) : Except HNote State :=
  match (EvAt.mk d ctx mwts).signal s name 1 with
  | .ok (s, _) => .ok s
  | .error (.wait n) => .error n
  | .error (.bad n c det _ info) =>
    match findTask s uid with
    | some t => .ok (gridCause (s.noted n) t.gid c det info)
    | none => .ok (s.noted n)
def opSignal? (s : State) (d : DieId) (ctx : Ctx) (uid : Nat) (ev : Option (BitVec 16)) (mwts : Nat) : Except HNote State :=
  match ev with
  | some e => opSignal s d ctx uid e.toNat mwts
  | none => .ok s

/-! ## EVQUERY -/

/-- EVQUERY (11 Table 11.7): word 0 of the entry, as an LS load in privileged mode through the core's TLBs. -/
def execEvquery (o : LEvReg) (s : State) : Res1 :=
  guarded o.g s (do
    let n ← s.evName (s.evOp o.e)
    let va := evVa s.k.ctx n
    let (_, pa, _) ← lsXlate s 0 true va ⟨false, false, false⟩
    lsTarget s pa va false true
    pure (pushLoad s (.s o.d 8 false) [(pa, 8)] va none))

end Sys2Proof.Machine
end

