-- ==== Sys2Proof/Machine/Atomics.lean ====
section
/-!
DEFINITION. Atomics (spec 07 R178 to R180; 13 R328, R329), SIGNAL and EVINIT (11 R279, R280), PFENCE (07 R169 to R171)
and TLBINV (06 R157 to R160).
-/

namespace Sys2Proof.Machine

/-! ## The request -/

/-- Every older store has drained and every older load has its value (04 R104; 07 R164). -/
def lsQuiet (k : Core) : Bool := k.wq.isEmpty && (allLoads k).isEmpty

/-- Sends an atomic once the core's LS path is quiet, and waits. -/
def sendAtomic (s0 s : State) (a : Atomic) : Op State :=
  if !lsQuiet s.k then freeze s0
  else freeze (s.modK fun k => { k with atom := some { a with tx := k.txn }, txn := (k.txn + 1) % 1024 })

/-- How a slot whose atomic is on its way goes on (07 R180). -/
def awaitAtomic (s : State) (a : Atomic) (done : State → Word → State) : Op State :=
  let s' := s.modK fun k => { k with atom := none }
  match a.phase with
  | .sent => freeze s
  | .answered old ts => .ok (done (s'.modK fun k => { k with pts := max k.pts ts }) old)
  | .lost => raise s' 17 2 a.va
  | .failed f => if f.cls = 20 ∧ f.det = 2 then .error (.done (pendFault s' s.cur f)) else raise s' f.cls f.det f.eva f.einfo

/-- An atomic slot (13 R329). -/
def amoSlot (op : AmoOp) (wide : Bool) (o : LAtom) (s : State) : Res1 :=
  guarded o.g s (
    match s.k.atom with
    | some a => awaitAtomic s a fun s old => s.modRegs fun g => (Res.s o.d old STan.zero).apply g
    | none => do
      let n := if wide then 8 else 4
      let c := s.cR o.m.cap
      let va ← capCheck s c .atm (s.memOff o.m.idx o.m.imm n) n
      if va % n ≠ 0 then do
        resolves s c va
        raise s 17 0
      else do
        let s0 := s
        let (s, r?) ← storeRec s c va
        let (s, ps) ← match r? with
          | none => pure (s, plainPieces va n)
          | some r => do
            let (s, ps) ← gvOp s c.handle va (recPieces s.gvOf s r true va n)
            if (r.w.fmt == 2 || r.w.fmt == 3) && ps.any (fun p => p.g.isSome) then raise s 11 7 va (BitVec.ofNat 64 c.handle)
            else pure (s, ps)
        let (_, pa, _) ← lsXlate s s.lsAsid (privMode s.k) ((ps.headD ⟨va, n, va, false, none⟩).at_) ⟨true, false, (ps.headD ⟨va, n, va, false, none⟩).rb⟩
        match target pa with
        | .mmio .. => raise s 17 3
        | _ =>
          -- a route that fails is the home's answer (07 R180); an address without a target is a fault here
          if target pa == .none then raise s 6 3 va
          else do
            let s1 ← match r? with
              | none => pure s
              | some r => (readyAll s r false ps).map Prod.fst
            -- a compare that fails writes nothing: its granule is readied at the home
            let s1 := if op = .cas then s else s1
            let gran := if op = .cas then (match r?, (ps.headD ⟨va, n, va, false, none⟩).g with
              | some r, some g => some (r.handle, r.va, g)
              | _, _ => none) else none
            let m := 2 ^ (8 * n)
            sendAtomic s0 s1
              { op := op, wide := wide, pa := pa, va := va, v := BitVec.ofNat 64 ((s.sR o.b).toNat % m)
                c := BitVec.ofNat 64 ((s.sR o.d).toNat % m), ftz := s.ftz, tx := 0, phase := .sent, gran := gran })

def execAmoaddI32 (o : LAtom) (s : State) : Res1 := amoSlot .add false o s
def execAmoaddI64 (o : LAtom) (s : State) : Res1 := amoSlot .add true o s
def execAmominI32 (o : LAtom) (s : State) : Res1 := amoSlot .min false o s
def execAmominI64 (o : LAtom) (s : State) : Res1 := amoSlot .min true o s
def execAmomaxI32 (o : LAtom) (s : State) : Res1 := amoSlot .max false o s
def execAmomaxI64 (o : LAtom) (s : State) : Res1 := amoSlot .max true o s
def execAmominnI32 (o : LAtom) (s : State) : Res1 := amoSlot .minn false o s
def execAmominnI64 (o : LAtom) (s : State) : Res1 := amoSlot .minn true o s
def execAmomaxnI32 (o : LAtom) (s : State) : Res1 := amoSlot .maxn false o s
def execAmomaxnI64 (o : LAtom) (s : State) : Res1 := amoSlot .maxn true o s
def execAmoandI32 (o : LAtom) (s : State) : Res1 := amoSlot .and false o s
def execAmoandI64 (o : LAtom) (s : State) : Res1 := amoSlot .and true o s
def execAmoorI32 (o : LAtom) (s : State) : Res1 := amoSlot .or false o s
def execAmoorI64 (o : LAtom) (s : State) : Res1 := amoSlot .or true o s
def execAmoxorI32 (o : LAtom) (s : State) : Res1 := amoSlot .xor false o s
def execAmoxorI64 (o : LAtom) (s : State) : Res1 := amoSlot .xor true o s
def execAmoswpI32 (o : LAtom) (s : State) : Res1 := amoSlot .swp false o s
def execAmoswpI64 (o : LAtom) (s : State) : Res1 := amoSlot .swp true o s
def execAmocasI32 (o : LAtom) (s : State) : Res1 := amoSlot .cas false o s
def execAmocasI64 (o : LAtom) (s : State) : Res1 := amoSlot .cas true o s
def execAmofaddF32 (o : LAtom) (s : State) : Res1 := amoSlot .fadd false o s
def execAmobaddI32 (o : LAtom) (s : State) : Res1 := amoSlot .badd false o s
def execAmobaddI64 (o : LAtom) (s : State) : Res1 := amoSlot .badd true o s

/-! ## At the home -/

/-- New value of an atomic (13 Table 13.3); none: no write. -/
def amoNew (op : AmoOp) (w old v c : Nat) (ftz : Bool) : Option Nat :=
  let sgn := NumFmt.toSigned w
  let fadd := fun (f : Fmt) (a b : Nat) => NumFmt.arith f .rne false ftz 0 (NumFmt.sum false [NumFmt.decode f a, NumFmt.decode f b])
  match op with
  | .add => some ((old + v) % 2 ^ w)
  | .min => some (if sgn v < sgn old then v else old)
  | .max => some (if sgn old < sgn v then v else old)
  | .minn => some (Nat.min old v)
  | .maxn => some (Nat.max old v)
  | .and => some (old &&& v)
  | .or => some (old ||| v)
  | .xor => some (old ^^^ v)
  | .swp => some v
  | .cas => if old = c then some v else none
  | .fadd => some (fadd .f32 old v)
  | .badd => some (elemsNat 16 (fun j => fadd .bf16 (elem 16 old j) (elem 16 v j)) (w / 16) 0)
  | .signal | .evinit => none

/-- How an atomic's request ends without effect: it waits at the home, or an error response gives its fault. -/
inductive AtomErr where
  | wait (n : HNote)
  | bad (n : HNote) (f : FaultRec)
  deriving DecidableEq, Repr
def ofEv {α : Type} (r : EvR α) : Except AtomErr α :=
  match r with
  | .ok x => .ok x
  | .error (.wait n) => .error (.wait n)
  | .error (.bad n cl d e i) => .error (.bad n ⟨cl, d, e, i⟩)
def ofHome {α : Type} (va : Nat) (h : HOp α) : Except AtomErr α :=
  match h with
  | .ok x => .ok x
  | .error (.wait n) => .error (.wait n)
  | .error (.cause n cl d) => .error (.bad n ⟨cl, d, va, 0⟩)

/-- The granule of a compare-and-swap through a record, readied for its write (03 R73, R87). -/
def readyAtom (s : State) (c : CoreId) (a : Atomic) : Except AtomErr State :=
  match a.gran with
  | none => .ok s
  | some (h, rva, g) =>
    let v : Gv := ⟨coreDie c, (s.core c).ctx⟩
    match (do let (s, r) ← engageVa s v.d v.ctx h rva
              v.readyWrite s r g false : GOp (State × RecRef × Bool)) with
    | .ok x => .ok x.1
    | .error (.wait n) => .error (.wait n)
    | .error (.bad n cl d e i) => .error (.bad n ⟨cl, d, e.getD a.va, i.getD (BitVec.ofNat 64 h)⟩)
/-- Applies an atomic at its home: the state, the old value and the timestamp. -/
def applyAtomic (s : State) (c : CoreId) (a : Atomic) : Except AtomErr (State × Word × Nat) :=
  let pts := (s.core c).pts
  let ev : EvAt := ⟨coreDie c, (s.core c).ctx, pts⟩
  match a.op with
  | .signal => do
    let (s, ts) ← ofEv (ev.signal s a.c.toNat a.v.toNat)
    pure (s, 0, ts)
  | .evinit => do
    let (s, ts) ← ofEv (ev.init s a.c.toNat (NumFmt.toSigned 32 a.v.toNat))
    pure (s, 0, ts)
  | op => do
    let n := if a.wide then 8 else 4
    if Sparse.get false s.poison (a.pa / 128) then throw (.bad .none ⟨20, 1, 0, 0⟩)
    else
      let s0 := s
      let s ← readyAtom s c a
      let (s, bs) ← ofHome a.va (homeRead s (coreDie c) a.pa n)
      let old := bytesToNat bs
      match amoNew op (8 * n) old a.v.toNat a.c.toNat a.ftz with
      | some x => do
        let (s, ts) ← ofHome a.va (homeWrite s (coreDie c) a.pa (natToBytes n x) pts)
        pure (s, BitVec.ofNat 64 old, ts)
      | none => do
        -- nothing is written: the state before the granule was readied
        let (s, _) ← ofHome a.va (homeRead s0 (coreDie c) a.pa n)
        let ts := max pts ((lineSt s (a.pa / 128)).rts + 1)
        pure (setLineSt s (a.pa / 128) ⟨ts, ts, none⟩, BitVec.ofNat 64 old, ts)

/-- The home that an atomic of a core reaches. -/
def atomHome (s : State) (c : CoreId) (a : Atomic) : DieId := homeDie s (coreDie c) a.pa
/-- A home's stored result of a transaction number (07 R179). -/
def applied? (s : State) (h : DieId) (c : CoreId) (tx : Nat) : Option Applied :=
  s.homeTab.find? fun e => e.home == h && e.core == c && e.tx == tx
/-- A home keeps the last 32 results of each core (07 R179). -/
def remember (s : State) (e : Applied) : State :=
  let mine := s.homeTab.filter fun x => x.home == e.home && x.core == e.core
  let rest := s.homeTab.filter fun x => !(x.home == e.home && x.core == e.core)
  { s with homeTab := rest ++ (mine ++ [e]).drop (mine.length - 31) }
def setPhase (s : State) (c : CoreId) (p : AtomPhase) : State :=
  s.modCore c fun k => { k with atom := k.atom.map fun a => { a with phase := p } }

/-- ATOMIC_AT_HOME (07 R178, R179): the request of the core named reaches the home of its line. The issuer's leased copy
goes when the atomic is applied, so that no later load of its own reads the value before it, whatever becomes of the
response (07 R165). -/
def execAtomicAtHome (s : State) : Res1 :=
  match s.k.atom with
  | none => .next s
  | some a =>
    let h := atomHome s s.cur a
    if a.phase != .sent || (applied? s h s.cur a.tx).isSome then .next s
    else match applyAtomic s s.cur a with
      | .ok (s', old, ts) => .next (remember (s'.modK fun k => dropL1 k (a.pa / 128)) ⟨h, s.cur, a.tx, old, ts⟩)
      | .error (.wait n) => .next (s.noted n)
      | .error (.bad n f) => .next (setPhase (s.noted n) s.cur (.failed f))

/-- ATOMIC_RESPONSE_ARRIVAL (07 R180): the result arrives, or its loss is reported by the route. -/
def execAtomicResponseArrival (s : State) : Res1 :=
  match s.k.atom with
  | none => .next s
  | some a =>
    match a.phase, applied? s (atomHome s s.cur a) s.cur a.tx with
    | .sent, some e =>
      .next (setPhase s s.cur (match routeErr s (coreDie s.cur) e.home false with
        | some _ => .lost
        | none => .answered e.old e.ts))
    | _, _ => .next s

/-! ## SIGNAL and EVINIT -/

/-- The slot of an event operation: translates the entry in privileged mode (11 R278), sends, waits. -/
def evSlot (s : State) (name : Nat) (op : AmoOp) (v : Word) : Op State := do
  let va := evVa s.k.ctx name
  let (_, pa, _) ← lsXlate s 0 true va ⟨true, false, false⟩
  if target pa == .none then raise s 6 3 va
  else if (match target pa with | .mmio .. => true | _ => false) then raise s 6 1 va
  else sendAtomic s s { op := op, wide := true, pa := pa, va := va, v := v, c := BitVec.ofNat 64 name, ftz := false, tx := 0, phase := .sent }

def execSignal (o : LEvReg) (s : State) : Res1 :=
  guarded o.g s (
    match s.k.atom with
    | some a => awaitAtomic s a fun s _ => s
    | none => do
      let name ← s.evName (s.evOp o.e)
      let n := if o.d = 0 then 1#64 else s.sR o.d
      if n.toNat = 0 ∨ 2 ^ 31 ≤ n.toNat then raise1 s (s.slotNo 1) 5
      else evSlot s name .signal n)

def execEvinit (o : LEvReg) (s : State) : Res1 :=
  guarded o.g s (
    match s.k.atom with
    | some a => awaitAtomic s a fun s _ => s
    | none => do
      let name ← s.evName (s.evOp o.e)
      evSlot s name .evinit ((s.sR o.d) &&& 0xFFFF_FFFF))

/-! ## PFENCE -/

/-- Largest timestamp of a die's cache (07 Table 7.5). -/
def highWater (s : State) (d : DieId) : Nat :=
  let e := (s.die d).evts.toList.foldl max 0
  s.lines.foldl (fun m x => match x.2 with
    | some l => if homeDie s d (x.1 * 128) = d then max m (max l.wts l.rts) else m
    | none => m) e
/-- Dies whose caches a scope holds (07 Table 7.4). -/
def scopeDies (c : CoreId) (scope : BitVec 3) : List DieId :=
  match scope.toNat with
  | 0 | 1 => []
  | 2 => [coreDie c]
  | _ => allDies

/-- Whether every predecessor of a class has completed (07 Table 7.5). -/
def fenceDone (s : State) (p : BitVec 8) : Bool :=
  let k := s.k
  (!p.getLsbD 0 || lsQuiet k)
  && (!p.getLsbD 1 || allEngines.all (fun e => (s.engine e).all fun o => o.core != s.cur || o.paused))
  && (!p.getLsbD 2 || (k.mat.queue.isEmpty && k.mat.run.isNone))
  && (!p.getLsbD 4 || (s.die (coreDie s.cur)).coll.all (fun o => o.core != s.cur || o.fault.isSome))
  && (!p.getLsbD 5 || k.stats.all (fun e => e.clean && e.reply.isNone))
  && (!p.getLsbD 7 || allDies.all (fun d => (s.die d).ptr.all fun u => u.core != s.cur))

/-- Largest MWTS of the core's predecessors of the classes in a set (07 Table 7.5): its copies, collectives and GV
operations. -/
def predMwts (t : TState) (p : BitVec 8) : Nat :=
  max (if p.getLsbD 1 then t.mwcp else 0) (max (if p.getLsbD 4 then t.mwcl else 0) (if p.getLsbD 5 then t.mwgv else 0))

/-- The address a frame of the die-interleaved alias names a byte by (01 R19). -/
def aliasOf (pa : Nat) : Nat :=
  0x100_0000_0000 + (pa % 0x40_0000_0000 / 4096 * 4 + pa / 0x40_0000_0000) * 4096 + pa % 4096
/-- Whether a cached translation maps to a physical address. -/
def tlbMaps (e : TlbEnt) (pa : Nat) : Bool :=
  let lo := ptePa e.pte
  let inside : Nat → Bool := fun a => decide (lo ≤ a) && decide (a < lo + 2 ^ e.bits)
  inside pa || (inDev pa && inside (aliasOf pa))

/-- The leased copies of record-bearing pages go (07 Table 7.5): those of the lines that a leaf with RB maps, and of lines
whose leaf the TLB no longer holds. A pinned one stays and is renewed at its next use (04 R100). -/
def dropRecordCopies (k : Core) : Core :=
  let hit : L1Line → Bool := fun l =>
    let on := k.tlb.filter fun e => tlbMaps e (l.line * 128)
    !l.owned && (on.isEmpty || on.any fun e => pteRb e.pte)
  { k with l1 := (k.l1.filter fun l => !hit l || pinned k l.line).map fun l => if hit l then { l with lend := 0 } else l
           pts := max 1 k.pts }

/-- PFENCE (07 R170, R171). A collective that its group's fault has ended counts for the first fence after it that names CL,
also when it ended before the fence issued, and for no later one: DESIGN CHOICE (log 62). -/
def execPfence (o : LFence) (s : State) : Res1 :=
  guarded o.g s (
    if o.pred = 0 ∨ o.succ = 0 then raise s 18 0
    else if 5 ≤ o.scope.toNat then raise s 18 1
    else if (o.pred.getLsbD 6 ∨ o.succ.getLsbD 6) ∧ o.scope.toNat ≠ 4 then raise s 18 2
    else
      let passed : State → State := fun s => if o.pred.getLsbD 4 then s.modT fun t => { t with collFault := false } else s
      if !fenceDone s o.pred then
        freeze (if o.pred.getLsbD 5 && s.k.stats.any (fun e => !e.clean) then s.postCore s.cur .statsFlush else s)
      else if o.pred.getLsbD 4 && (s.k.t.collFault
          || (s.die (coreDie s.cur)).coll.any fun c => c.core == s.cur && c.fault.isSome) then raise (passed s) 18 3
      else
        let s := if o.succ.getLsbD 0 && o.pred != 1 then
            s.modK fun k =>
              { k with pts := (scopeDies s.cur o.scope).foldl (fun m d => max m (highWater s d)) (max k.pts (predMwts k.t o.pred)) }
          else s
        .ok (passed (if o.succ.getLsbD 5 then s.modK dropRecordCopies else s)))

/-! ## TLBINV -/

def allAgents : List Agent := allCores.map Agent.core ++ allEngines.map Agent.engine ++ allDies.map Agent.walker
def agentDie : Agent → DieId
  | .core c => coreDie c | .engine e => engineDie e | .walker d => d

/-- Whether an entry of an ASID covering a range goes (06 R157). -/
def invHits (f : InvForm) (asid lo hi : Nat) : Bool :=
  match f with
  | .rng b n a => asid == a.toNat && decide (n ≠ 0) && decide (lo < b + n) && decide (b < hi)
  | .asid a => asid == a.toNat
  | .all => true
/-- A cached leaf covers its page; one with CH its whole 64 KiB run (06 R147, R157). -/
def tlbHits (f : InvForm) (e : TlbEnt) : Bool :=
  let b := if pteCh e.pte then max 16 e.bits else e.bits
  let lo := e.page * 2 ^ e.bits / 2 ^ b * 2 ^ b
  invHits f e.asid lo (lo + 2 ^ b)
/-- Range of a walk-cache entry: what its subtree maps. -/
def wcHits (f : InvForm) (e : WcEnt) : Bool :=
  invHits f e.asid (e.idx * 2 ^ (12 + 9 * e.level)) ((e.idx + 1) * 2 ^ (12 + 9 * e.level))

/-- How many of a list's oldest members reach to the last one that a test picks. -/
def upTo {α : Type} (p : α → Bool) : List α → Nat
  | [] => 0
  | x :: t => if t.any p then upTo p t + 1 else if p x then 1 else 0
/-- Physical addresses that a pending load still reads at: its runs, and of a converting one its data, its record and its
tangent planes. -/
def PLoad.reads (l : PLoad) : List Nat :=
  l.segs.map Prod.fst ++ (match l.cvt with
    | some x => [x.page, x.rpa] ++ (x.planes.flatMap fun p => p.map Prod.fst)
    | none => [])
/-- The accesses of a core on their way that were translated with one of the entries removed, or by a walk for a page that the
form names, as a trap frame's stores are (06 R158, R159). -/
def invWaitOf (issuer : CoreId) (f : InvForm) (k : Core) (gone : List TlbEnt) : InvWait :=
  let on : Nat → Bool := fun pa => gone.any fun e => tlbMaps e pa
  let named : Nat → Bool := fun va => invHits f (asidFor k.ctx.asid.toNat va) va (va + 1)
  { issuer := issuer
    loads := upTo (fun l => l.reads.any on || named l.va || (match l.cvt with | some x => named x.rva | none => false)) (allLoads k)
    stores := upTo (fun e => named e.va || (List.range 128).any fun i => e.mask.getLsbD i && on (e.line * 128 + i)) k.wq
    atom := match k.atom with | some a => if on a.pa || named a.va then some a.tx else none | none => none }
/-- An agent removes the entries that match; a core notes the accesses it translated with them. -/
def invAgent (s : State) (issuer : CoreId) (f : InvForm) : Agent → State
  | .core c => s.modCore c fun k =>
      { k with tlb := k.tlb.filter (fun e => !tlbHits f e), walkAns := none
               invw := (k.invw.filter fun w => w.issuer != issuer) ++ [invWaitOf issuer f k (k.tlb.filter (tlbHits f))] }
  | .engine e => { s with engTlb := s.engTlb.set e ((s.engTlb.get e).filter fun x => !tlbHits f x) }
  | .walker d => s.modDie d fun x => { x with walkCache := x.walkCache.filter fun e => !wcHits f e }

/-- TLBINV in its three forms: drains the write queue, sends the request, waits for its completion (06 R158). -/
def tlbinvSlot (g : Guard) (s : State) (form : Op InvForm) : Res1 :=
  guarded g s (
    if !privMode s.k then raise s 3 0
    else match s.k.tlbinv with
      | some _ => freeze s
      | none => do
        let f ← form
        if !s.k.wq.isEmpty || s.invs.any (fun i => i.core == s.cur) then freeze s
        else freeze { s.modK fun k => { k with tlbinv := some s.now } with
                      invs := s.invs ++ [⟨s.cur, f, allAgents, [], none⟩] })

def execTlbinvRng (o : LInvRng) (s : State) : Res1 :=
  let a := (s.sR o.a).toNat
  let n := (s.sR o.b).toNat
  tlbinvSlot o.g s (if 2 ^ 57 < a + n then raise1 s (s.slotNo 1) 5 else .ok (.rng a n ((s.sR o.c).setWidth 16)))
def execTlbinvAsid (o : LInvAsid) (s : State) : Res1 := tlbinvSlot o.g s (.ok (.asid ((s.sR o.c).setWidth 16)))
def execTlbinvAll (o : LGuard) (s : State) : Res1 := tlbinvSlot o.g s (.ok .all)

def modInv (s : State) (c : CoreId) (f : InvOp → InvOp) : State :=
  { s with invs := s.invs.map fun i => if i.core = c then f i else i }

/-- TLBINV_AGENT_REQUEST (06 R158, R160): the request of the running core reaches an agent. Of several agents that cannot be
reached, the first one met gives the fault's detail: DESIGN CHOICE (log 62). The first to be reached on a
die has its walker drop the matching entries, so that no agent refills from an older walk (06 R159). -/
def execTlbinvAgentRequest (a : Agent) (s : State) : Res1 :=
  match s.invs.find? (fun i => i.core == s.cur) with
  | none => .next s
  | some i =>
    if !i.toReach.contains a then .next s
    else
      let left := fun (i : InvOp) => i.toReach.filter (· != a)
      let from_ := coreDie s.cur
      match (if agentDie a = from_ then none else routeErr s from_ (agentDie a) false) with
      | some e => .next (modInv s s.cur fun i => { i with toReach := left i, err := some (i.err.getD e) })
      | none =>
        let s' := invAgent (invAgent s s.cur i.form (.walker (agentDie a))) s.cur i.form a
        .next (modInv s' s.cur fun i => { i with toReach := left i, waiting := i.waiting ++ [a] })

/-- Every access that an agent translated with an entry removed for the issuer has been performed (06 R158): a core's are
those it noted; engines and walkers move and read with translations made at that moment (log 15). -/
def agentQuiet (s : State) (issuer : CoreId) : Agent → Bool
  | .core c => (s.core c).invw.all fun w => w.issuer != issuer || (w.loads == 0 && w.stores == 0
      && (match w.atom, (s.core c).atom with | some tx, some a => a.tx != tx | _, _ => true))
  | _ => true

/-- TLBINV_AGENT_ACK. -/
def execTlbinvAgentAck (a : Agent) (s : State) : Res1 :=
  .next (if agentQuiet s s.cur a then
      let s' := modInv s s.cur fun i => { i with waiting := i.waiting.filter (· != a) }
      match a with
      | .core c => s'.modCore c fun k => { k with invw := k.invw.filter fun w => w.issuer != s.cur }
      | _ => s'
    else s)

/-- TLBINV_COMPLETE: every acknowledgement is in and 300 cycles have passed; the slot commits, or raises class 19
with its slot committed (06 R160). -/
def execTlbinvComplete (s : State) : Res1 :=
  match s.invs.find? (fun i => i.core == s.cur) with
  | none => .next s
  | some i =>
    if !i.toReach.isEmpty || !i.waiting.isEmpty then .next s
    else
      let s1 := { s.modK fun k => { k with tlbinv := none } with invs := s.invs.filter fun x => x.core != s.cur }
      match s.k.tlbinv with
      | none => .next s1
      | some t0 =>
        if s.now < t0 + 300 then .next s
        else match i.err with
          | none => .next (commit (s1.modK fun k => { k with frozen := false }))
          | some d => finish (raiseDone s1 19 d)

end Sys2Proof.Machine
end

