-- ==== Sys2Proof/Machine/ScalarInt.lean ====
section
/-!
DEFINITION. Scalar integer instructions (spec 11 R255 to R259): arithmetic, logic, shifts, bit counts, constants,
moves and compares.
-/

namespace Sys2Proof.Machine

/-- A one-result integer form with operand B (11 R255). -/
def aluOp (n : Nat) (f : Word → Word → Word) (o : SAlu) (s : State) : Res1 :=
  guarded o.g s (.ok (s.outS n o.d (f (s.sR o.a) (s.srcB o.b))))
/-- A form of two registers. -/
def regOp (n : Nat) (f : Word → Word → Word) (o : SReg3) (s : State) : Res1 :=
  guarded o.g s (.ok (s.outS n o.d (f (s.sR o.a) (s.sR o.b))))
/-- A form of one register under a width (11 R258). -/
def widOp (f : Nat → Word → Word) (o : SWid) (s : State) : Res1 :=
  guarded o.g s (.ok (s.outS 1 o.d (f (match o.w with | .w8 => 8 | .w16 => 16 | .w32 => 32 | .w64 => 64) (s.sR o.a))))
/-- A compare (11 R259). -/
def cmpOp (f : Word → Word → Bool) (o : SCmp) (s : State) : Res1 :=
  guarded o.g s (.ok (s.outP 1 o.p (f (s.sR o.a) (s.srcB o.b))))

/-! ## Values (11 Table 11.1, R257, R258) -/

def mulhV (a b : Word) : Word := ((a.signExtend 128 * b.signExtend 128) >>> 64).setWidth 64
def mulhnV (a b : Word) : Word := ((a.setWidth 128 * b.setWidth 128) >>> 64).setWidth 64
/-- Signed division truncating toward zero; by 0 all ones; -2^63 by -1 wraps (11 R257). -/
def divV (a b : Word) : Word := if b = 0 then BitVec.allOnes 64 else a.sdiv b
def divnV (a b : Word) : Word := if b = 0 then BitVec.allOnes 64 else a / b
def modV (a b : Word) : Word := if b = 0 then a else a - a.sdiv b * b
def modnV (a b : Word) : Word := if b = 0 then a else a % b
def fshlV (n : Nat) (a b : Word) : Word := if n = 0 then a else (a <<< n) ||| (b >>> (64 - n))
def fshrV (n : Nat) (a b : Word) : Word := if n = 0 then b else (b >>> n) ||| (a <<< (64 - n))
/-- Zero bits above the highest set bit of the low w bits. -/
def clzN (w x : Nat) : Nat := let y := x % 2 ^ w; if y = 0 then w else w - 1 - Nat.log2 y
/-- Zero bits below the lowest set bit of the low w bits. -/
def ctzN (w x : Nat) : Nat := ((List.range w).find? fun i => x.testBit i).getD w
def popcN (w x : Nat) : Nat := ((List.range w).filter fun i => x.testBit i).length
def clzV (w : Nat) (x : Word) : Word := BitVec.ofNat 64 (clzN w x.toNat)
def ctzV (w : Nat) (x : Word) : Word := BitVec.ofNat 64 (ctzN w x.toNat)
def popcV (w : Nat) (x : Word) : Word := BitVec.ofNat 64 (popcN w x.toNat)
def sextV (w : Nat) (x : Word) : Word := (x.setWidth w).signExtend 64
def zextV (w : Nat) (x : Word) : Word := (x.setWidth w).setWidth 64
/-- A with 16-bit chunk k replaced. -/
def lihV (a : Word) (imm : BitVec 16) (k : BitVec 2) : Word :=
  (a &&& ~~~(0xFFFF#64 <<< (16 * k.toNat))) ||| (imm.setWidth 64 <<< (16 * k.toNat))

/-- Shadows of a register carried to a destination in a dual bundle (15 R375, R378). -/
def State.carryT (s : State) (r : SReg) : STan :=
  Vector.ofFn fun i => if i.val < s.tk then s.sTan r (i.val + 1) else 0

/-! ## Meanings -/

def execAdd (o : SAlu) (s : State) : Res1 := aluOp 1 (· + ·) o s
def execAddi (o : SAddi) (s : State) : Res1 := guarded o.g s (.ok (s.outS 1 o.d (s.sR o.a + o.imm.signExtend 64)))
def execSub (o : SAlu) (s : State) : Res1 := aluOp 1 (· - ·) o s
def execMul (o : SReg3) (s : State) : Res1 := regOp 3 (· * ·) o s
def execMulh (o : SReg3) (s : State) : Res1 := regOp 3 mulhV o s
def execMulhn (o : SReg3) (s : State) : Res1 := regOp 3 mulhnV o s
def execDiv (o : SReg3) (s : State) : Res1 := regOp 18 divV o s
def execDivn (o : SReg3) (s : State) : Res1 := regOp 18 divnV o s
def execMod (o : SReg3) (s : State) : Res1 := regOp 18 modV o s
def execModn (o : SReg3) (s : State) : Res1 := regOp 18 modnV o s
def execAnd (o : SAlu) (s : State) : Res1 := aluOp 1 (· &&& ·) o s
def execOr (o : SAlu) (s : State) : Res1 := aluOp 1 (· ||| ·) o s
def execXor (o : SAlu) (s : State) : Res1 := aluOp 1 (· ^^^ ·) o s
def execAndn (o : SAlu) (s : State) : Res1 := aluOp 1 (fun a b => a &&& ~~~b) o s
def execShl (o : SAlu) (s : State) : Res1 := aluOp 1 (fun a b => a <<< (b.toNat % 64)) o s
def execShr (o : SAlu) (s : State) : Res1 := aluOp 1 (fun a b => a >>> (b.toNat % 64)) o s
def execShra (o : SAlu) (s : State) : Res1 := aluOp 1 (fun a b => a.sshiftRight (b.toNat % 64)) o s
def execRotl (o : SAlu) (s : State) : Res1 := aluOp 1 (fun a b => a.rotateLeft (b.toNat % 64)) o s
def execFshl (o : SFun) (s : State) : Res1 := guarded o.g s (.ok (s.outS 1 o.d (fshlV o.n.toNat (s.sR o.a) (s.sR o.b))))
def execFshr (o : SFun) (s : State) : Res1 := guarded o.g s (.ok (s.outS 1 o.d (fshrV o.n.toNat (s.sR o.a) (s.sR o.b))))
def execClz (o : SWid) (s : State) : Res1 := widOp clzV o s
def execCtz (o : SWid) (s : State) : Res1 := widOp ctzV o s
def execPopc (o : SWid) (s : State) : Res1 := widOp popcV o s
def execMin (o : SAlu) (s : State) : Res1 := aluOp 1 (fun a b => if a.slt b then a else b) o s
def execMax (o : SAlu) (s : State) : Res1 := aluOp 1 (fun a b => if b.slt a then a else b) o s
def execMinn (o : SAlu) (s : State) : Res1 := aluOp 1 (fun a b => if a.ult b then a else b) o s
def execMaxn (o : SAlu) (s : State) : Res1 := aluOp 1 (fun a b => if b.ult a then a else b) o s
def execSext (o : SWid) (s : State) : Res1 := widOp sextV o s
def execZext (o : SWid) (s : State) : Res1 := widOp zextV o s
def execLi (o : SLi) (s : State) : Res1 := guarded o.g s (.ok (s.outS 1 o.d (o.imm.signExtend 64)))
def execLih (o : SLih) (s : State) : Res1 := guarded o.g s (.ok (s.outS 1 o.d (lihV (s.sR o.a) o.imm o.k)))
def execMov (o : SMov) (s : State) : Res1 := guarded o.g s (.ok (s.land 1 (.s o.d (s.sR o.a) (s.carryT o.a))))
def execSel (o : SSel) (s : State) : Res1 :=
  guarded o.g s (.ok (if s.guard o.p then s.land 1 (.s o.d (s.sR o.a) (s.carryT o.a))
                      else s.land 1 (.s o.d (s.sR o.b) (s.carryT o.b))))
def execCmpeq (o : SCmp) (s : State) : Res1 := cmpOp (· == ·) o s
def execCmpne (o : SCmp) (s : State) : Res1 := cmpOp (· != ·) o s
def execCmplt (o : SCmp) (s : State) : Res1 := cmpOp BitVec.slt o s
def execCmple (o : SCmp) (s : State) : Res1 := cmpOp BitVec.sle o s
def execCmpltn (o : SCmp) (s : State) : Res1 := cmpOp BitVec.ult o s
def execCmplen (o : SCmp) (s : State) : Res1 := cmpOp BitVec.ule o s

end Sys2Proof.Machine
end

