-- ==== Sys2Proof/Machine/Control.lean ====
section
/-!
DEFINITION. Control flow (spec 11 R264 to R268, R274, R275) and the loop engine (08 R195 to R197).
-/

namespace Sys2Proof.Machine

/-! ## The loop engine -/

/-- Length of the running code stream in units: the handler's, or the image's. -/
def codeLen (k : Core) : Nat :=
  match k.task with
  | some t => if trapMode k then t.ctx.hclen.toNat else t.img.codelen
  | none => 0

/-- Iterations that may start. -/
def Loop.iters (l : Loop) : Nat := match l.lim with | some m => min m l.n | none => l.n
/-- Passes of a bound loop (08 R196). -/
def Loop.passes (l : Loop) : Nat := l.iters + l.ns - 1
/-- Stage enables of pass p. -/
def Loop.enables (l : Loop) (p : Nat) : BitVec 4 :=
  (List.range 4).foldl (fun e i => if i < l.ns ∧ i ≤ p ∧ p - i + 1 ≤ l.iters then e ||| (1#4 <<< i) else e) 0

/-- Starts pass p: enables, index, PC, and the index on its way to its register, where it lands before the pass's first
bundle reads it (08 R196; 11 R267). -/
def beginPass (t : TState) (i : Fin 4) (p : Nat) : TState :=
  let l := t.loops.get i
  let ix := l.start + l.step * BitVec.ofNat 64 p
  let l := { l with act := true, pass := p, index := ix, sev := l.enables p }
  let t := { t with loops := t.loops.set i l, pc := l.bstart, pbcnt := 0, atPass := true }
  if l.ireg = 0 then t else { t with land := t.land ++ [⟨1, .s l.ireg ix STan.zero⟩] }

/-- T levels inside counter i start again with it, over their whole extent (08 R187): lp2, then lp1, then lp0. -/
def rebindInner (t : TState) (i : Fin 4) : TState :=
  [2, 1, 0].foldl (fun (t : TState) (j : Fin 4) =>
    let l := t.loops.get j
    if j.val < i.val ∧ l.tlevel ∧ (t.loops.get i).tlevel then
      beginPass { t with loops := t.loops.set j { l with lim := none, n := l.n0, start := l.start0 } } j 0
    else t) t

/-- A counter drained for a pre-emption before pass p is kept bound, to begin again there (16 R409). -/
def rebase (t : TState) (i : Fin 4) (p : Nat) : TState :=
  let l := t.loops.get i
  { t with loops := t.loops.set i { l with n := l.n - p, start := l.start + l.step * BitVec.ofNat 64 p, pass := 0, lim := none
                                           pre := false }
           pc := l.bstart }

/-- The end of a pass of counter i: the next one, or the loop's end with PC after the body. -/
def passEnd (t : TState) (i : Fin 4) : TState × Bool :=
  let l := t.loops.get i
  if l.pass + 1 ≥ l.passes ∧ l.pre then (rebase t i (l.lim.getD 0), false)
  else if l.pass + 1 ≥ l.passes then
    ({ t with loops := t.loops.set i { l with act := false, lim := none }, pc := l.bstart + l.blen }, true)
  else (rebindInner (beginPass t i (l.pass + 1)) i, false)

/-- Execution arrives at unit x from a bundle at unit u: bodies ending at x end their pass, the innermost
first (08 R196; log 23). -/
def arrive (t : TState) (u x : Nat) : TState :=
  let step : TState × Bool → TState × Bool := fun (t, go) =>
    if !go then (t, false)
    else
      match innermost t u with
      | some i => let l := t.loops.get i; if l.bstart + l.blen = x then passEnd t i else (t, false)
      | none => (t, false)
  (step (step (step (step ({ t with pc := x }, true))))).1

/-! ## Transfers (11 R264, R265) -/

/-- Takes a transfer to T once the bundle completes; a target outside the innermost active body raises class
16 detail 1 (08 R197). -/
def transfer (s : State) (target : Nat) : Op State :=
  let t := s.k.t
  let ok : Bool := match innermost t s.unitNo with
    | some i => let l := t.loops.get i; decide (l.bstart ≤ target) && decide (target < l.bstart + l.blen)
    | none => true
  if ok then
    .ok (s.modT fun t => match t.fl with
      | some f => { t with fl := some { f with btgt := some target } }
      | none => { t with pc := target })
  else raise s 16 1
/-- A transfer that leaves bodies by their ends (LBREAK, a LOOP of no iterations). -/
def transferEnd (s : State) (target : Nat) : State :=
  s.modT fun t => match t.fl with
    | some f => { t with fl := some { f with btgt := some target } }
    | none => arrive t t.pc target

def State.unitW (s : State) : Word := BitVec.ofNat 64 s.unitNo

def execBr (o : SBr) (s : State) : Res1 := guarded o.g s (transfer s (s.unitW + o.off.signExtend 64).toNat)
def execBrc (o : SBrc) (s : State) : Res1 :=
  guarded o.g s (if condB o.cond (s.sR o.a) then transfer s (s.unitW + o.off.signExtend 64).toNat else .ok s)
def execCall (o : SCall) (s : State) : Res1 :=
  guarded o.g s (do
    let s' ← transfer s (s.unitW + o.off.signExtend 64).toNat
    pure (s'.outS 1 o.d (BitVec.ofNat 64 s.nextUnit)))
def execRet (o : SRet) (s : State) : Res1 := guarded o.g s (transfer s (s.sR o.a).toNat)
def execJmpi (o : SJmpi) (s : State) : Res1 := guarded o.g s (transfer s (s.sR o.a + o.off.signExtend 64).toNat)

/-- LOOP (11 R267). -/
def execLoop (o : SLoop) (s : State) : Res1 :=
  guarded o.g s (
    let n := (s.sR o.cnt).toNat % 2 ^ 32
    let b := s.nextUnit
    let len := o.blen.toNat
    let t := s.k.t
    let i := o.lp.toFin
    if len = 0 ∨ codeLen s.k < b + len then raise s 16 2
    else
      let nests : Bool := match innermost t s.unitNo with
        | some j => let l := t.loops.get j; decide (l.bstart ≤ b) && decide (b + len ≤ l.bstart + l.blen)
        | none => true
      if (t.loops.get i).act || !nests then raise s 16 0
      else if n = 0 then .ok (transferEnd s (b + len))
      else
        let l : Loop := { act := true, index := 0, start := s.sR o.start, step := 1, pass := 0, n := n, ns := o.stages.toNat + 1,
                          bstart := b, blen := len, ireg := o.ireg, sev := 0, lim := none, tlevel := false, pre := false }
        .ok (s.modT fun t =>
          let pc := t.pc
          let t' := beginPass { t with loops := t.loops.set i l } i 0
          match t.fl with
          | some _ => { t' with pc := pc }
          | none => t'))

/-- LBREAK: the counter is unbound, and execution goes on after the body (11 R268). -/
def execLbreak (o : LGuard) (s : State) : Res1 :=
  guarded o.g s (
    match innermost s.k.t s.unitNo with
    | none => raise s 16 1
    | some i =>
      let l := s.k.t.loops.get i
      let s := s.modT fun t => { t with loops := t.loops.set i { l with act := false, lim := none, pre := false } }
      -- a counter that drains for a pre-emption drains no more (16 R409)
      let s := s.modK fun k => if !trapMode k && (k.draining.map Prod.fst == some i.val) then { k with draining := none } else k
      .ok (transferEnd s (l.bstart + l.blen)))
/-- LBREAK drain: no new iteration starts; the remaining passes run the epilogue (11 R268). A drain that runs again in the
epilogue starts none either. -/
def execLbreakDrain (o : LGuard) (s : State) : Res1 :=
  guarded o.g s (
    match innermost s.k.t s.unitNo with
    | none => raise s 16 1
    | some i =>
      let l := s.k.t.loops.get i
      -- under a pre-emption's drain no iteration is left to start after it
      let l := if l.pre then { l with n := min l.n (l.lim.getD l.n) } else { l with lim := some (min (l.lim.getD (l.pass + 1)) (l.pass + 1)) }
      .ok (s.modT fun t => { t with loops := t.loops.set i l }))

/-- TRAP n raises class 23 detail n; the S slot counts as committed (11 R274). -/
def execTrap (o : STrap) (s : State) : Res1 := guarded o.g s (raiseDone s 23 o.n.toNat)

/-- RETT (11 R275, 16 R401). -/
def execRett (o : LGuard) (s : State) : Res1 :=
  if !s.guard o.g then finish (.ok s)
  else if !privMode s.k then finish (raise s 3 0)
  else if !s.k.t.loads.isEmpty || !s.k.wq.isEmpty then finish (freeze s)
  else match rettOp (s.modT landAll) s.cur with
    | .ok s => .next s
    | .error e => finish (.error e)

end Sys2Proof.Machine
end

