-- ==== Sys2Proof/Machine/Blocks.lean ====
section
/-!
DEFINITION. Load-blocks (spec 04 R96 to R100; 13 R325), prefetch (04 R105), PROBE and the frame table (04 R109 to
R113; 13 R327).
-/

namespace Sys2Proof.Machine

/-! ## Load-blocks -/

/-- A line of a block or prefetch translated for a mode: from the core's TLBs, else by a walk whose result is not kept. -/
def blockXlate (s : State) (c : CoreId) (priv : Bool) (va : Nat) : Except XErr (State × Nat) :=
  let k := s.core c
  match tlbFind k.tlb (asidFor k.ctx.asid.toNat va) va with
  | some e =>
    match leafErr e.pte priv ⟨false, false, false⟩ with
    | some d => .error (.bad .none d (lvlOf e))
    | none => .ok (s, tlbPa e va / 128)
  | none => do
    let (s, pa, _) ← walkXlate s (coreDie c) k.ctx priv va ⟨false, false, false⟩
    pure (s, pa / 128)

/-- Lines of a block as they translate at issue, none where they do not; the walks' marks stay (06 R148). -/
def blockLines (s : State) (va n : Nat) : Op (State × List (Nat × Option Nat)) :=
  (List.range n).foldlM (init := (s, ([] : List (Nat × Option Nat)))) fun (s, ls) i =>
    match blockXlate s s.cur (privMode s.k) (va + 128 * i) with
    | .ok (s, l) => .ok (s, ls ++ [(va / 128 + i, some l)])
    | .error (.wait n) => freeze (s.noted n)
    | .error (.bad ..) => .ok (s, ls ++ [(va / 128 + i, none)])

/-- Physical lines of a block: those it holds, and those allocated for it. -/
def Block.lines (b : Block) : List Nat := b.filled ++ b.left.filterMap fun x => x.home.map Prod.fst
/-- Lines of unreleased blocks, arrived or not (04 R97). -/
def blockHeld (k : Core) : List Nat := k.blocks.flatMap fun b => if b.unit then [] else b.lines
/-- Ways of a set pinned once the lines given join the pinned ones (04 R97). -/
def pinnedIn (k : Core) (ls : List Nat) (set : Nat) : Nat :=
  (blockHeld k ++ ls).eraseDups.filter (fun l => l1Set l == set) |>.length

/-- A later block takes its lines out of released units (04 R99). -/
def leaveUnits (k : Core) (ls : List Nat) : Core :=
  { k with blocks := (k.blocks.map fun b => if b.unit then { b with filled := b.filled.filter fun l => !ls.contains l } else b).filter
                       fun b => !(b.unit && b.filled.isEmpty) }

def modBlock (k : Core) (f : Flag) (g : Block → Block) : Core :=
  { k with blocks := k.blocks.map fun b => if !b.unit && b.flag == f then g b else b }
/-- A line of a block takes its way in its set, one that the L1 holds the way it has (04 R96); one that did not translate
takes it when it arrives. -/
def allotLine (f : Flag) (s : State) (x : Nat × Option Nat) : State :=
  let put : State → Option (Nat × Nat) → State := fun s h => s.modK fun k => modBlock k f fun b => { b with left := b.left ++ [⟨x.1, h⟩] }
  match x.2 with
  | none => put s none
  | some l => match findL1 s.k l with
    | some x => put s (some (l, x.way))
    | none => match l1Way s s.cur l with
      | some (s, w) => put s (some (l, w))
      | none => put s none

/-- LDBLK: the checks of 01 R31, the event name, then 04 Table 4.5 in the order of its details. -/
def execLdblk (o : LBlk) (s : State) : Res1 :=
  guarded o.g s (do
    let c := s.cR o.m.cap
    let n := o.n.toNat
    let va ← capCheck s c .rd (s.memOff o.m.idx o.m.imm 128) (128 * n)
    let ev ← match o.ev with
      | none => pure none
      | some e => do let name ← s.evName ((s.sR e) &&& 0xFFFF); pure (some (BitVec.ofNat 16 name))
    if !claimable (getFlag s.k.t o.f) then raise s 9 0 va
    else if n = 0 ∨ 64 < n then raise s 9 1 va
    else if va % 128 ≠ 0 then raise s 9 2 va
    else if !privMode s.k && (va + 128 * n - 1) / 2 ^ 56 % 2 = 1 then raise s 3 2
    else do
      let (s, ls) ← blockLines s va n
      let pas := ls.filterMap Prod.snd
      if pas.any (fun l => decide (12 < pinnedIn s.k pas (l1Set l))) then raise s 9 3 va
      else if pas.any (blockHeld s.k).contains then raise s 9 4 va
      else
        let b : Block := { flag := o.f, filled := [], left := [], priv := privMode s.k, released := false, unit := false
                           older := s.k.wq.length }
        let s := s.modK fun k => { leaveUnits k pas with blocks := (leaveUnits k pas).blocks ++ [b], t := putFlag k.t o.f (claimed 2 7 ev) }
        -- the lines the L1 holds are pinned first, so that none of them is another's victim; the fill gives them their
        -- timestamps too (07 R164)
        let here := ls.filterMap fun x => match x.2 with | some l => if (findL1 s.k l).isSome then some l else none | none => none
        let s := s.modK fun k => modBlock k o.f fun b => { b with filled := here }
        .ok (ls.foldl (allotLine o.f) s))

def findBlock (k : Core) (f : Flag) : Option Block := k.blocks.find? fun b => !b.unit && b.flag == f
/-- The release of a block: its lines are unpinned and stay one unit, its flag is idle (04 R99). -/
def releaseBlock (k : Core) (f : Flag) : Core :=
  { modBlock k f (fun b => { b with unit := true }) with t := putFlag k.t f FlagSt.idle }

/-- How a block's fill goes on. -/
inductive FillR where
  | done (s : State)
  | wait (n : HNote)
  | fail (s : State) (cls det addr : Nat)
  deriving DecidableEq, Repr
/-- A line of a block has arrived. -/
def lineArrived (s : State) (c : CoreId) (f : Flag) (v l : Nat) : State :=
  s.modCore c fun k =>
    let k := { k with pts := match findL1 k l with | some x => max k.pts x.wts | none => k.pts }
    modBlock k f fun b => { b with filled := if b.filled.contains l then b.filled else b.filled ++ [l], left := b.left.filter (fun x => x.vline != v) }
/-- Fetches the lines of a block that are still missing, in ascending order, on the LS path and in LDBLK's mode (04 R96,
R98); a poisoned line is an access fault (18 R439). -/
def fillLines (s : State) (c : CoreId) (f : Flag) (priv : Bool) : List Nat → FillR
  | [] => .done s
  | v :: t =>
    match blockXlate s c priv (v * 128) with
    | .error (.wait n) => .wait n
    | .error (.bad n d _) => .fail (s.noted n) 5 d (v * 128)
    | .ok (s, l) =>
      match target (l * 128) with
      | .mmio .. => .fail s 6 1 (v * 128)
      | _ =>
        if Sparse.get false s.poison l then .fail s 20 1 (v * 128)
        else match l1Read s c (l * 128) 1 with
          | some (s, _) => fillLines (lineArrived s c f v l) c f priv t
          | none => match grantLease s c l with
            | .error (.cause n cl d) => .fail (s.noted n) cl d (v * 128)
            | .error (.wait n) => .wait n
            | .ok s => fillLines (lineArrived s c f v l) c f priv t

/-- The end of a fill: the event is signalled, and a release that waits takes effect. A fill that fails signals its event
like one that is done: DESIGN CHOICE (log 54). -/
def endFill (s0 s : State) (c : CoreId) (f : Flag) (b : Block) : State :=
  let k := s.core c
  let uid := match k.task with | some t => t.uid | none => 0
  match opSignal? s (coreDie c) k.ctx uid (getFlag k.t f).ev 0 with
  | .error n => s0.noted n
  | .ok s => if b.released then s.modCore c (releaseBlock · f) else s

/-- A fill that runs, once the stores older than its LDBLK have drained (07 R164). -/
def fillBlock (s : State) (f : Flag) : Option (Block × FillR) :=
  match findBlock s.k f with
  | none => none
  | some b =>
    if (getFlag s.k.t f).state != 1#2 || b.older != 0 then none
    else some (b, fillLines s s.cur f b.priv (b.left.map BlkLine.vline))
/-- LDBLK_FILL_DONE (04 R96): the missing lines of the block of flag `unit` arrive, and its flag reads done. -/
def execLdblkFillDone (s : State) : Res1 :=
  let f : Flag := BitVec.ofNat 4 s.unit
  match fillBlock s f with
  | some (b, .done s') =>
    let s1 := s'.modK fun k => { k with t := putFlag k.t f { getFlag k.t f with state := 2 } }
    .next (endFill s s1 s.cur f b)
  | some (_, .wait n) => .next (s.noted n)
  | _ => .next s

/-- LDBLK_FILL_FAIL (04 R98): a line fails; the lines before it stay, the flag reads error. -/
def execLdblkFillFail (s : State) : Res1 :=
  let f : Flag := BitVec.ofNat 4 s.unit
  match fillBlock s f with
  | some (b, .fail s' cl d a) =>
    let s1 := s'.modK fun k => { k with t := putFlag k.t f { getFlag k.t f with
      state := 3, cause := BitVec.ofNat 9 (cl * 16 + d), addr := BitVec.ofNat 57 a } }
    .next (endFill s s1 s.cur f b)
  | _ => .next s

/-- BLKREL (04 R99): while the fill runs, the release waits for its end. -/
def execBlkrel (o : LFlag) (s : State) : Res1 :=
  guarded o.g s (
    match findBlock s.k o.f with
    | none => raise s 9 5
    | some _ =>
      if (getFlag s.k.t o.f).state = 1#2 then .ok (s.modK fun k => modBlock k o.f fun b => { b with released := true })
      else .ok (s.modK (releaseBlock · o.f)))
/-- BLKWAIT (04 R99; 07 R173). One that waits ends with its fill, also when a pending release then takes the block. -/
def execBlkwait (o : LFlag) (s : State) : Res1 :=
  guarded o.g s (
    match findBlock s.k o.f with
    | none => if (match s.k.t.fl with | some f => f.since.isSome | none => false) then .ok s else raise s 9 5
    | some _ =>
      let x := getFlag s.k.t o.f
      if x.state = 1#2 then freeze s else .ok (s.modK (observe · x.mwts)))

/-! ## Prefetch -/

/-- A prefetched line, taken with a lease that raises no PTS (07 R164): one that the L1 holds owned or leased in time stays. -/
def prefLine (s : State) (line : Nat) : HOp State :=
  if (match findL1 s.k line with | some x => x.owned || decide (s.k.pts ≤ x.lend) | none => false) then .ok s
  else grantLease s s.cur line true
/-- PREF (04 R105): with the drop bit every failure discards it and installs nothing. -/
def execPref (o : LPref) (s : State) : Res1 :=
  guarded o.g s (
    let c := s.cR o.m.cap
    let off := s.memOff o.m.idx o.m.imm 128
    if o.drop then
      match capErr c .rd off 1 with
      | some _ => .ok s
      | none =>
        let va := ((c.base : Int) + off).toNat
        if !privMode s.k && va / 2 ^ 56 % 2 = 1 then .ok s
        else match blockXlate s s.cur (privMode s.k) va with
          | .error _ => .ok s
          | .ok (s1, l) => match lsTarget s1 (l * 128) va false true with
            | .error _ => .ok s
            | .ok _ => match prefLine s1 l with | .ok s2 => .ok s2 | .error _ => .ok s
    else do
      let va ← capCheck s c .rd off 1
      let (_, pa, _) ← lsXlate s s.lsAsid (privMode s.k) va ⟨false, false, false⟩
      lsTarget s pa va false true
      match prefLine s (pa / 128) with
      | .ok s => pure s
      | .error (.wait n) => freeze (s.noted n)
      | .error (.cause n c d) => raise (s.noted n) c d va)

/-! ## The frame table -/

def getFrame (t : TState) (f : Nat) : Frame := (t.frames.toList.drop f).headD Frame.invalid
def putFrame (t : TState) (f : Nat) (x : Frame) : TState := { t with frames := t.frames.set (f % 256) x (Nat.mod_lt _ (by decide)) }
def abftHand (y : Sys) : Nat := let h := (y.abft.extractLsb' 16 8).toNat; if frameCount y ≤ h then 0 else h
def setHand (t : TState) (h : Nat) : TState :=
  { t with sys := { t.sys with abft := (t.sys.abft &&& 0x1FF#64) ||| BitVec.ofNat 64 (h % 256 * 2 ^ 16) } }

/-- The clock of 04 R112 over m frames, from frame f: none when every frame is pinned or filling. -/
def clockSearch (m : Nat) : Nat → Nat → TState → TState × Option Nat
  | 0, _, t => (t, none)
  | n + 1, f, t =>
    let t := setHand t ((f + 1) % m)
    let x := getFrame t f
    if x.p || x.f then clockSearch m n ((f + 1) % m) t
    else if x.ref then clockSearch m n ((f + 1) % m) (putFrame t f { x with ref := false })
    else (t, some f)
/-- The frame that a new block takes, under ABFT as the slot sees it. -/
def victim (y : Sys) (t : TState) : TState × Option Nat :=
  match (List.range (frameCount y)).find? (fun f => !(getFrame t f).v) with
  | some f => (t, some f)
  | none => clockSearch (frameCount y) (2 * frameCount y) (abftHand y) t

/-- Engine of a core's copy slot: 0 for C0, 1 for C1 (13 R333). -/
def engineFor (c : CoreId) (slot : Nat) : EngineId := engineOf (coreDie c) (coreLocal c + 3 * slot)
/-- Operations an engine holds (13 R333); a fill suspended by a switch-out has left it (16 R411). -/
def engineLoad (l : List CopyOp) : Nat := (l.filter fun o => !o.paused).length
def nullDesc : CDesc := ⟨Vector.replicate 4 0, Cap.null, Cap.null⟩
/-- A fill of frame f from a 16 KiB block, through a capability. -/
def frameOp (s : State) (f va : Nat) (c : Cap) : CopyOp :=
  { kind := .frame (BitVec.ofNat 8 f), core := s.cur, uid := (match s.k.task with | some t => t.uid | none => 0), desc := { nullDesc with src := c }
    xdesc := nullDesc, cv := none, flag := none, ev := none, ctx := s.k.ctx, priv := privMode s.k, ftz := false
    bjump := 0, pos := 0, va := va, paused := false, since := s.now }

/-- What a PROBE does with a block that is there or not. -/
inductive ProbeMode where
  | lookup | pin | unpin
  deriving DecidableEq, Repr

/-- The branch of PROBE is checked at issue (13 R327). -/
def probeTarget (s : State) (o : LProbe) : Op Nat :=
  let target := (s.unitW + o.target.signExtend 64).toNat
  match innermost s.k.t s.unitNo with
  | some i => let l := s.k.t.loops.get i
              if l.bstart ≤ target ∧ target < l.bstart + l.blen then .ok target else raise s 16 1
  | none => .ok target

def probe (m : ProbeMode) (o : LProbe) (s : State) : Res1 :=
  guarded o.g s (do
    let tgt ← probeTarget s o
    let c := s.cR o.m.cap
    let off := s.memOff o.m.idx o.m.imm 16384
    let start : Int := ((c.base : Int) + off) / 16384 * 16384
    let va ← capCheck s c .rd (start - c.base) 16384
    let t := s.k.t
    let blk := va / 16384
    let n := frameCount s.isys
    if n = 0 then raise s 9 7 va
    -- a lookup follows the stores before it (07 R164)
    else if !s.k.wq.isEmpty then freeze s
    else
      match (List.range n).find? (fun f => (getFrame t f).v && (getFrame t f).vblk.toNat == blk) with
      | some f =>
        let x := getFrame t f
        if x.e then
          raise (s.modT fun t => putFrame t f { x with v := false }) 9 8 va (x.cause.setWidth 64)
        else
          let p := match m with | .lookup => x.p | .pin => true | .unpin => false
          .ok ((s.modT fun t => putFrame t f { x with ref := true, p := p }).outS 1 o.d (BitVec.ofNat 64 f))
      | none =>
        if m = .unpin then .ok (s.outS 1 o.d (BitVec.allOnes 64))
        -- DESIGN CHOICE (log 54): a full engine makes PROBE freeze as it does a copy slot (13 R333)
        else if 32 ≤ engineLoad (s.engine (engineFor s.cur 0)) then freeze s
        else
          match victim s.isys t with
          | (t', none) => raise (s.modT fun _ => t') 9 6 va
          | (t', some f) =>
            let x : Frame := { v := true, p := decide (m = .pin), ref := true, f := true, e := false, vblk := BitVec.ofNat 43 blk, cause := 0 }
            let s := s.modT fun _ => putFrame t' f x
            let s := s.modEngine (engineFor s.cur 0) fun l => l ++ [frameOp s f (blk * 16384) c]
            let s := s.modT fun t => match t.fl with
              | some fl => { t with fl := some { fl with btgt := some tgt } }
              | none => { t with pc := tgt }
            .ok (s.outS 1 o.d (BitVec.ofNat 64 f)))

def execProbeLookup (o : LProbe) (s : State) : Res1 := probe .lookup o s
def execProbePin (o : LProbe) (s : State) : Res1 := probe .pin o s
def execProbeUnpin (o : LProbe) (s : State) : Res1 := probe .unpin o s

end Sys2Proof.Machine
end

