-- ==== Sys2Proof/Machine/Integrity.lean ====
section
/-!
DEFINITION. Interrupts and integrity reports (spec 17 R421; 18 R437 to R440), monitors (18 R434 to R436), the patrol scrub
and uncorrectable errors.
-/

namespace Sys2Proof.Machine

/-- A source sets its INTSTAT bit (17 Table 17.3). -/
def raiseInt (s : State) (d : DieId) (bit : Nat) : State := s.modDie d fun x => { x with intstat := x.intstat ||| (1#64 <<< bit) }

/-- A count that saturates at 2^32 - 1 (18 Table 18.3). -/
def sat32 (x : Word) (n : Nat) : Word := BitVec.ofNat 64 (min (2 ^ 32 - 1) (x.toNat + n))
/-- An integrity log entry, its count and the interrupt (18 R438, Table 18.3). `kind` 1 is a CRC32C failure. -/
def integReport (s : State) (d : DieId) (kind unit pa : Nat) : State :=
  raiseInt (s.modDie d fun x =>
    let e : BitVec 128 := BitVec.ofNat 128 (pa % 2 ^ 52 * 2 ^ 76 + unit % 2 ^ 12 * 2 ^ 64 + kind % 2)
    { x with ue := sat32 x.ue 1, log := x.log.set x.logHead e, logHead := (x.logHead + 1) % 16 }) d 5

/-- The unit that reports an error at a line (log 56): the bank of the die cache that holds it, else its stack; both
numbered over the device (00 R5). -/
def lineUnit (s : State) (line : Nat) : Nat :=
  let h := homeDie s 0 (line * 128)
  if (Sparse.get DSet.empty s.dsets (dsetKey s line)).ways.any fun w => w.2 == line then h.val * 64 + (bankOf line).val
  else h.val * 3 + (hbmPlace (line * 128 % 0x40_0000_0000)).1 / 64

/-- Marks of units in buffers and streams, which stand above those of physical memory. -/
def bufUnit (c : CoreId) (buf off : Nat) : Nat := 2 ^ 40 * (1 + c.val * 4 + buf) + off / 4096
def streamUnit (c : CoreId) (q : BitVec 4) (u : Nat) : Nat := 2 ^ 40 * (1000 + c.val * 16 + q.toNat) + u

/-- UNCORRECTABLE_ERROR (18 R438, R439): a line of HBM4 or of a die cache is poisoned, a core takes class 20 detail 0 at a
boundary, the next move of a 4 KiB unit fails its check, or the host's memory fails. A host line that no die cache holds has
no ECC of the G4's. A corrected error is counted and does nothing else. -/
def execUncorrectableError (at_ : EccSite) (s : State) : Res1 :=
  match at_ with
  | .line pa =>
    let line := resolvePa pa / 128
    let held := match target pa with | .dev _ => true | .host => (Sparse.get none s.lines line).isSome | _ => false
    .next (if held then
        integReport { s with poison := Sparse.set false s.poison line true } (homeDie s 0 (line * 128)) 0 (lineUnit s line) (line * 128)
      else s)
  | .transit pa => .next { s with crc := Sparse.set false s.crc (resolvePa pa / 4096) true }
  | .core c => .next (integReport (pendFault s c ⟨20, 0, 0, 0⟩) (coreDie c) 0 c.val 0)
  | .host pa =>
    match target pa with
    | .host => .next { s with hostErr := Sparse.set false s.hostErr (pa / 128) true }
    | _ => .next s
  | .buffer c buf off => .next { s with crc := Sparse.set false s.crc (bufUnit c buf.toNat off) true }
  | .stream c q u => .next { s with crc := Sparse.set false s.crc (streamUnit c q u) true }
  | .corrected d => .next (s.modDie d fun x => { x with ce := sat32 x.ce 1 })

/-- Lines of a die's window (01 R18). -/
def dieLines : Nat := 0x30_0000_0000 / 128
/-- PATROL_SCRUB (18 R440): the die reads its next HBM4 line and corrects what it finds, which is counted; whether it finds
an error is free (log 50). With every sixteenth it also reads the next line of its die cache: a cache of 192 MiB holds 1/1,024 of
the 192 GiB (00 R6), and each of its lines is read 64 times as often. A scrub read takes part in no ordering. Ignored while
SCRUB.PERIOD is 0. -/
def execPatrolScrub (s : State) : Res1 :=
  let d := s.dsel
  let x := s.die d
  let one : Nat → Nat := fun k => if Config.freeBit (s.fresh + k) then 1 else 0
  .next (
    if x.scrub = 0 then s
    else
      let found := one 0 + (if x.scrubAt % 16 = 15 then one 1 else 0)
      { (hbmAccess s (d.val * 2 ^ 31 + x.scrubAt) false).modDie d fun x =>
          { x with scrubAt := (x.scrubAt + 1) % dieLines, ce := sat32 x.ce found } with fresh := s.fresh + 2 })

/-! ## Monitors -/

/-- Units of a monitor source (18 Table 18.2). -/
def monUnits (src : Nat) : Nat :=
  match src with
  | 1 => 36 | 2 => 192 | 3 => 6 | 4 => 64 | 5 => 1 | 6 => 36 | 7 => 1 | 8 => 1 | 9 => 1
  | _ => 0
def satInc (x : BitVec 32) : BitVec 32 := if x = BitVec.allOnes 32 then x else x + 1
/-- One sample (18 R435). -/
def takeSample (m : Monitor) (v : Nat) : Monitor :=
  let v := min (2 ^ 32 - 1) v
  let b := if m.cfg.getLsbD 60 then (if v = 0 then 0 else min 31 (Nat.log2 v + 1))
    else min 31 (v / 2 ^ (min 31 (m.cfg.extractLsb' 40 8).toNat))
  { m with min := if v < m.min.toNat then BitVec.ofNat 32 v else m.min, max := if m.max.toNat < v then BitVec.ofNat 32 v else m.max
           cnt := if m.cnt = BitVec.allOnes 64 then m.cnt else m.cnt + 1, bins := m.bins.set b (satInc (m.bins.getD b 0)) }
def Monitor.clear (m : Monitor) : Monitor := { Monitor.reset with cfg := m.cfg }
/-- Whether a monitor takes samples of a unit of a source. -/
def Monitor.hears (m : Monitor) (src : BitVec 8) (unit : Nat) : Bool :=
  m.cfg.getLsbD 63 && !m.cfg.getLsbD 62 && m.cfg.extractLsb' 0 8 == src && (m.cfg.extractLsb' 16 16).toNat == unit
    && decide (unit < monUnits src.toNat)

/-- A sample for the monitors of a die, placed as an action when one of them hears it (18 R435). -/
def heard (s : State) (d : DieId) (src unit v : Nat) : State :=
  if (s.die d).mons.toList.any fun m => m.hears (BitVec.ofNat 8 src) unit then
    s.postDie d (.monitorSample (BitVec.ofNat 8 src) (BitVec.ofNat 16 unit) v)
  else s

/-- MONITOR_SAMPLE: every monitor of the die that hears the source takes the value. -/
def execMonitorSample (src : BitVec 8) (no : BitVec 16) (v : Nat) (s : State) : Res1 :=
  .next (s.modDie s.dsel fun x =>
    { x with mons := x.mons.map fun m => if m.hears src no.toNat then takeSample m v else m
             heardAt := s.now, heardNow := (if x.heardAt = s.now then x.heardNow else []) ++ [(src, no, v)] })

/-- MONCFG fields that a write keeps; CLR reads 0 (18 Table 18.1). -/
def monCfg (old v : Word) : Word :=
  let m : Word := 0xD000_FF00_FFFF_00FF#64
  let v := v &&& m
  if 31 < (v.extractLsb' 40 8).toNat then (v &&& ~~~0xFF00_0000_0000#64) ||| (old &&& 0xFF00_0000_0000#64) else v
/-- MONCFG_CLR (18 R434, R436): a write of monitor `unit`'s MONCFG; with CLR set it clears the counts before any
sample of the same cycle, which the monitor keeps. -/
def execMoncfgClr (v : Word) (s : State) : Res1 :=
  .next (s.modDie s.dsel fun x =>
    let now := if x.heardAt = s.now then x.heardNow else []
    { x with mons := Vector.ofFn fun i =>
        let m := x.mons.get i
        let m' := { (if v.getLsbD 61 then m.clear else m) with cfg := monCfg m.cfg v }
        if i.val ≠ s.unit then m
        else if v.getLsbD 61 then now.foldl (fun m y => if m.hears y.1 y.2.1.toNat then takeSample m y.2.2 else m) m'
        else m' })

end Sys2Proof.Machine
end

