-- ==== Sys2Proof/Machine/Mmio.lean ====
section
/-!
DEFINITION. The MMIO registers as they read (spec 17 R419, Table 17.2, and the register maps of 05, 06, 09, 16, 17, 18),
and the queue contexts they show (09 R201 to R205).
-/

namespace Sys2Proof.Machine

/-! ## Physical reads of the slice and the queue manager -/

/-- A physical read by a die's units. -/
def physRead (s : State) (d : DieId) (pa n : Nat) : HOp (State × Nat) := do
  let (s, bs) ← homeRead s d pa n
  pure (s, bytesToNat bs)
def physWrite (s : State) (d : DieId) (pa n x : Nat) : HOp State := do
  let (s, _) ← homeWrite s d pa (natToBytes n x)
  pure s

/-! ## Queue contexts (09 Table 9.1) -/

def qctxPa (s : State) (d : DieId) (q : Nat) : Nat := ((s.die d).qtbase.toNat + 64 * q) % 2 ^ 52
/-- The five words of a queue context that have a meaning. -/
structure QCtx where
  (w0 w1 w2 w3 w4 : Nat)
  deriving DecidableEq, Repr
def QCtx.v (c : QCtx) : Bool := c.w0.testBit 63
def QCtx.sys (c : QCtx) : Bool := c.w0.testBit 62
def QCtx.host (c : QCtx) : Bool := c.w0.testBit 61
def QCtx.qdie (c : QCtx) : DieId := Fin.ofNat 4 (c.w0 / 2 ^ 59)
def QCtx.size (c : QCtx) : Nat := 2 ^ (c.w0 / 2 ^ 54 % 32)
def QCtx.asid (c : QCtx) : Nat := c.w0 / 2 ^ 32 % 2 ^ 16
def QCtx.ctxpa (c : QCtx) : Nat := c.w1 % 2 ^ 52
def QCtx.ring (c : QCtx) : Nat := c.w2 % 2 ^ 57
def QCtx.tail (c : QCtx) : Nat := c.w3 / 2 ^ 32
def QCtx.head (c : QCtx) : Nat := c.w3 % 2 ^ 32
def QCtx.pend (c : QCtx) : Bool := c.w4.testBit 63
def QCtx.err (c : QCtx) : Bool := c.w4.testBit 62
def readQCtx (s : State) (d : DieId) (q : Nat) : HOp (State × QCtx) := do
  let (s, x) ← physRead s d (qctxPa s d q) 40
  let w : Nat → Nat := fun i => x / 2 ^ (64 * i) % 2 ^ 64
  pure (s, ⟨w 0, w 1, w 2, w 3, w 4⟩)
/-- The resident slot of a queue. -/
def slotOfQueue (s : State) (q : Nat) : Option (DieId × QSlot) :=
  allDies.findSome? fun d => ((s.die d).qslots.findSome? fun o => o.filter fun x => x.q == q).map fun x => (d, x)

/-- PROGRESS of host queue q (09 R203, R205): a saved context is read in memory, and the read waits or fails with it, so
that no read shows a smaller HEAD than an earlier one. -/
def progressOf (s : State) (d : DieId) (q : Nat) : HOp Word :=
  let word : Bool → Bool → Bool → Nat → Word := fun stale err res head =>
    BitVec.ofNat 64 ((if stale then 2 ^ 63 else 0) + (if err then 2 ^ 62 else 0) + (if res then 2 ^ 61 else 0) + head % 2 ^ 32)
  match slotOfQueue s q with
  | some (_, x) => .ok (word false x.err true x.head.toNat)
  | none => do
    let (_, c) ← readQCtx s d q
    pure (word true c.err false c.head)

/-! ## Registers -/

def islCode : IslState → Nat
  | .active => 0 | .retain => 1 | .off => 2 | .fault => 3
def domCode : DomState → Nat
  | .running => 0 | .inReset => 1 | .off => 2

/-- FLPOP: the oldest entry of a die's fault list (09 Table 9.11). -/
def flpopOf (s : State) (d : DieId) : Word :=
  match (s.die d).faultList with
  | [] => 0
  | uid :: _ =>
    let asid := match findTask s uid with | some t => t.ctx.asid.toNat | none => 0
    BitVec.ofNat 64 (2 ^ 63 + asid * 2 ^ 32 + taskToken uid)
/-- A read of FLPOP removes the entry it returned; a task that found the list full enters it (09 R215). -/
def flpopTake (s : State) (d : DieId) : State :=
  match (s.die d).faultList with
  | [] => s
  | _ :: rest =>
    match (s.die d).flwait with
    | [] => s.modDie d fun x => { x with faultList := rest }
    | u :: us => raiseInt (s.modDie d fun x => { x with faultList := rest ++ [u], flwait := us }) d 1

def pullWord (p : Pull) (i : Nat) : Word :=
  match i with
  | 0 => BitVec.ofNat 64 (p.state.toNat * 2 ^ 61 + p.size.toNat * 2 ^ 60 + p.newPa)
  | 1 => BitVec.ofNat 64 p.oldPa
  | 2 => BitVec.ofNat 64 (p.cause.toNat % 256 * 2 ^ 40 + p.pulled % 2 ^ 15)
  | 4 => BitVec.ofNat 64 p.ptePa
  | _ => 0
def monWord (m : Monitor) (o : Nat) : Word :=
  if o = 0 then m.cfg
  else if o = 0x08 then BitVec.ofNat 64 (m.max.toNat * 2 ^ 32 + m.min.toNat)
  else if o = 0x10 then m.cnt
  else if 0x80 ≤ o then
    let b := (o - 0x80) / 4
    BitVec.ofNat 64 ((m.bins.getD b 0).toNat + (m.bins.getD (b + 1) 0).toNat * 2 ^ 32)
  else 0

/-- The 8-byte word of a die's block at an 8-byte aligned offset, but for PROGRESS; an offset without a register reads 0
(17 R419). -/
def mmioWord (s : State) (d : DieId) (off : Nat) : Word :=
  let x := s.die d
  match off with
  | 0x00_0000 => x.bootstat
  | 0x00_0008 => x.sysid
  | 0x10_0000 => x.intstat
  | 0x10_0008 => x.intmask
  | 0x10_0010 => x.intcfg
  | 0x20_0000 => x.hdie.setWidth 64
  | 0x20_0008 => BitVec.ofNat 64 (4 * islCode x.isl + domCode x.dom)
  | 0x20_0010 => BitVec.ofNat 64 (x.xsr.toNat * 2 ^ 48 + x.xpd.toNat * 2 ^ 40 + x.sridle.toNat * 2 ^ 20 + x.pdidle.toNat)
  | 0x20_0018 => x.kroot
  | 0x30_0000 => x.qtbase
  | 0x30_0018 => x.plbase
  | 0x30_0020 => x.dbghalt
  | 0x30_0028 => flpopOf s d
  | 0x38_0000 => x.gtbase
  | 0x38_0008 => x.gtcnt
  | 0x38_0010 => x.lnkstat
  | 0x54_0000 => BitVec.ofNat 64 (x.ue.toNat % 2 ^ 32 * 2 ^ 32 + x.ce.toNat % 2 ^ 32)
  | 0x54_0008 => BitVec.ofNat 64 x.logHead
  | 0x56_0000 => BitVec.ofNat 64 (x.pstateCur.toNat * 256 + x.pstateReq.toNat)
  | 0x5C_0010 => x.scrub
  | 0x5E_0000 => x.plim.setWidth 64
  | 0x5F_0000 => x.ctlkey
  | off =>
    if 0x20_1000 ≤ off ∧ off < 0x20_2000 then
      pullWord (x.pulls.get (Fin.ofNat 64 ((off - 0x20_1000) / 64))) (off % 64 / 8)
    else if 0x50_0000 ≤ off ∧ off < 0x50_4000 then
      monWord (x.mons.get (Fin.ofNat 64 ((off - 0x50_0000) / 0x100))) (off % 0x100)
    else if 0x54_0100 ≤ off ∧ off < 0x54_0200 then
      let e := x.log.getD ((off - 0x54_0100) / 16) 0
      if off % 16 = 0 then e.setWidth 64 else (e >>> 64).setWidth 64
    else 0

/-- Host queue whose PROGRESS an offset names. -/
def progressAt (off : Nat) : Option Nat :=
  if 0x40_0000 ≤ off ∧ off < 0x44_0000 ∧ off % 0x1000 = 8 then some ((off - 0x40_0000) / 0x1000) else none
/-- A read of 4 or 8 bytes: its bytes (17 R419). -/
def mmioRead (s : State) (d : DieId) (off n : Nat) : HOp (List Byte) := do
  let w ← match progressAt (off - off % 8) with
    | some q => progressOf s d q
    | none => pure (mmioWord s d (off - off % 8))
  pure (((bitsBytes 8 w).drop (off % 8)).take n)
/-- What a read does beside returning its value: FLPOP takes an entry. -/
def mmioReadEffect (s : State) (d : DieId) (off : Nat) : State := if off - off % 8 = 0x30_0028 then flpopTake s d else s

/-- The port by which a host request came: the die that State.unit names (log 19). -/
def portNo (s : State) : DieId := Fin.ofNat 4 s.unit
/-- A request of a port reaches a die's block: the island is active and the way to it stands (05 R128, R131). -/
def blockReached (s : State) (p d : DieId) : Bool := islActive s d && (routeErr s p d false).isNone
/-- A host write of a port waits to be applied; a later host read over that port waits for it (17 R420). -/
def hostWaits (s : State) (p : DieId) : Bool := s.deferred.any fun a =>
  match a.instr with
  | .doorbell _ => a.unit % 4 == p.val
  | .mmioRegisterWrite w => w.port == some p
  | .hostCxlMemAccess (.write ..) => a.die == p
  | _ => false
/-- A host write to a die's block waits; later ones to that block wait for it (17 R420). -/
def blockWaits (s : State) (d : DieId) : Bool := s.deferred.any fun a =>
  match a.instr with
  | .doorbell _ => a.die == d
  | .mmioRegisterWrite w => w.port.isSome && w.die == d
  | _ => false
/-- A read of a register of a die by the host: a block it does not reach answers nothing else (17 R419), and a read waits with
its memory and for earlier writes of its port. `i` is its action. -/
def hostRead (s : State) (p d : DieId) (i : Instr) (r : HOp State) : State :=
  if !Config.wiredPort p || !blockReached s p d then s.emit .unsupported
  else if hostWaits s p then s.deferDie s.dsel i s.unit s.item
  else match r with
    | .ok s => s
    | .error (.wait n) => (s.noted n).deferDie s.dsel i s.unit s.item
    | .error (.cause n _ _) => (s.noted n).emit .unsupported
/-- FLPOP (09 R215): a read of the die's register. -/
def execFlpop (s : State) : Res1 :=
  .next (hostRead s (portNo s) s.dsel .flpop (.ok (flpopTake (s.emit (.data (bitsBytes 8 (flpopOf s s.dsel)))) s.dsel)))
/-- PROGRESS (09 R203): a read of the register of host queue `item` through the die's block; a context that cannot be read
gives an unsupported-request completion (05 R131). -/
def execProgress (s : State) : Res1 :=
  .next (hostRead s (portNo s) s.dsel .progress ((progressOf s s.dsel (s.item % 64)).map fun v => s.emit (.data (bitsBytes 8 v))))

end Sys2Proof.Machine
end

