-- ==== Sys2Proof/Machine/Arrive.lean ====
section
/-!
DEFINITION. What becomes of queued loads and stores (spec 04 R101 to R104; 07 R163 to R168; 10 R243; 13 R318, R322; 15
R382): load values, requests to the home, write-queue drains, the timestamps' tick; page walks (06) and the die cache's
evictions and snoops (05 R124; 17 R418).
-/

namespace Sys2Proof.Machine

open Sys2Proof.NumFmt (XV)

/-! ## The oldest load of a core -/

/-- Replaces the oldest pending load: by what is left of it, or by nothing; a TLBINV that waits for loads of the core then
has one fewer to wait for (06 R158). -/
def setHead (k : Core) (l : Option PLoad) : Core :=
  let put : List PLoad → List PLoad := fun ls => l.toList ++ ls.drop 1
  let k := if l.isSome then k else { k with invw := k.invw.map fun w => { w with loads := w.loads - 1 } }
  match k.t.aside with
  | some a =>
    if a.loads.isEmpty then { k with t := { k.t with loads := put k.t.loads } }
    else { k with t := { k.t with aside := some { a with loads := put a.loads } } }
  | none => { k with t := { k.t with loads := put k.t.loads } }
/-- The value of the oldest load: written at once, or kept for RETT when a trap set the load aside (16 R399, R401). -/
def landHead (k : Core) (r : Res) : Core :=
  let k' := setHead k none
  match k.t.aside, k'.t.aside with
  | some a, some b => if a.loads.isEmpty then { k' with t := k'.t.land1 r } else { k' with t := { k'.t with aside := some { b with arrived := b.arrived ++ [r] } } }
  | _, _ => { k' with t := k'.t.land1 r }
/-- A load that fails after its slot committed ends without a value; its cause comes at the next boundary (log 32);
`handle` names the record when a record was at fault, else 0; class 20 names no address (16 R393). -/
def failHead (s : State) (c : CoreId) (cls det : Nat) (l : PLoad) (handle : Nat) (eva : Option Nat := none) (info : Option Word := none) : State :=
  pendFault (s.modCore c fun k => setHead k none) c
    ⟨cls, det, if cls = 20 then 0 else eva.getD l.va, info.getD (BitVec.ofNat 64 handle)⟩

/-- The row of 512 bytes. -/
def bytesRow (bs : List Byte) : Row := rowOfBytes fun i => ((bs.drop i).headD 0).toNat
/-- What a load writes to its register (13 R319, R321, R324). -/
def loadRes (d : LdDst) (bs : List Byte) (tag : Bool) : Option Res :=
  match d with
  | .s r n sx =>
    let x := bytesToNat bs
    some (.s r (if sx then BitVec.ofInt 64 (NumFmt.toSigned (8 * n) x) else BitVec.ofNat 64 x) STan.zero)
  | .v r => some (.v (some r) none (BitVec.allOnes 128) (bytesRow bs) VTan4.zero)
  | .c r => some (.c r ⟨BitVec.ofNat 128 (bytesToNat bs), tag⟩)
  | .push _ => none
/-- The oldest load has its value: it is written, or its row goes into the stream it pushes, which may have to wait for room
or be closed by now (log 53). -/
def landLoad (s : State) (c : CoreId) (l : PLoad) (bs : List Byte) (tag : Bool) : State :=
  match loadRes l.dst bs tag, l.dst with
  | some r, _ => s.modCore c fun k => landHead k r
  | none, .push q =>
    match pushRow (s.onCore c) q (bytesRow bs) with
    | .ok s' => (s'.onCore s.cur).modCore c fun k => setHead k none
    | .error (.flt _ _ f) => pendFault (s.modCore c fun k => setHead k none) c f
    | .error _ => s.modCore c fun k => setHead k (some { l with segs := [], got := bs })
  | none, _ => s

/-! ## Reading -/

/-- The entry that forwards to a load: the youngest of the older entries that holds any of its bytes, when it covers
all of them (04 R103). A load of an MMIO register is never served from the queue: it waits and reads the register (log 21). -/
def forwardOf (k : Core) (l : PLoad) : Option WEntry :=
  match l.segs with
  | [(pa, n)] =>
    let m := maskBits (pa % 128) n
    match ((k.wq.take l.older).reverse).find? (fun e => e.line == pa / 128 && (e.mask &&& m) != 0#128) with
    | some e => if l.got.isEmpty && (m &&& ~~~e.mask) == 0#128 && (match target pa with | .mmio .. => false | _ => true) then some e else none
    | none => none
  | _ => none

/-- How the oldest load goes on: it waits, fails, or has what it reads. -/
inductive LoadR where
  | wait (n : HNote)
  | bad (n : HNote) (cls det : Nat)
  | got (s : State) (bs : List Byte) (tag : Bool)
  deriving DecidableEq, Repr

/-- One run of a load. -/
def readSeg (s : State) (c : CoreId) (pa n : Nat) : LoadR :=
  match target pa with
  | .mmio d off =>
    match (homePrep s (coreDie c) pa).bind fun s => (mmioRead s d off n).map fun bs => (s, bs) with
    | .error (.cause m cl det) => .bad m cl det
    | .error (.wait m) => .wait m
    | .ok (s, bs) => .got (mmioReadEffect s d off) bs false
  | _ =>
    if Sparse.get false s.poison (pa / 128) then .bad .none 20 1
    else match l1Read s c pa n with
      | some (s, bs, tag) => .got s bs tag
      | none => .wait .none

/-- Reads of physical runs by a converting load; a poisoned line is class 20 detail 1. -/
def lsRuns (s : State) (c : CoreId) (runs : List (Nat × Nat)) : GOp (State × List Byte) :=
  runs.foldlM (init := (s, ([] : List Byte))) fun x run =>
    if (cutLines run.1 run.2).any fun l => Sparse.get false x.1.poison (l.1 / 128) then gBad 20 1
    else do
      let (s, bs) ← liftH (lsReadHome x.1 c run.1 run.2)
      pure (s, x.2 ++ bs)

/-- The lanes and tangents of a converting load (13 R322; 15 R382), from the record, the copy and the places it took at issue
(01 R28; 03 R90); the granule decodes under the tag it bears now (03 R72). -/
def cvtLoad (s : State) (c : CoreId) (v : LdCvt) : GOp (State × Row × VTan4) := do
  let gv : Gv := ⟨coreDie c, (s.core c).ctx⟩
  let (s, bits) ← asGv (liftH (homeRead s gv.d v.rpa 64))
  let r : RecRef := ⟨v.handle, v.rva, v.rpa, BitVec.ofNat 512 (bytesToNat bits)⟩
  let p := r.w.pitch
  let (s, x) ← gv.viewCopy s r v.sh (v.elem / r.w.perGran)
  let f := x.fmt r
  let (s, bs) ← lsRuns s c [(v.page + elByte f p v.elem, if f = .mxf4 then 64 else 128 * p)]
  let all := bytesToNat bs
  let sg := r.w.sigma x.slot
  let fl := cvtFlags f .f32 sg v.sat v.ftz
  let val : Nat → Nat := fun l =>
    NumFmt.convertScaled f .f32 v.rm fl.1 fl.2 (randByte v.rand l 0) (x.code r (v.elem + l)) sg (elem (NumFmt.width f) all l)
  let tw := NumFmt.width r.w.tfmt
  let (s, ts) ← v.planes.foldlM (init := (s, ([] : List Row))) fun y runs => do
    let (s, pb) ← lsRuns y.1 c runs
    let n := bytesToNat pb
    pure (s, y.2 ++ [rowOf fun l => tanCvt r.w.tfmt .f32 v.ftz (elem tw n l)])
  pure (s, rowOf val, Vector.ofFn fun i => ts.getD i.val 0)

/-- Goes on with the runs of the oldest load as far as the L1 holds their lines. -/
def runLoad (c : CoreId) : Nat → State → PLoad → Bool → State
  | 0, s, _, _ => s
  | fuel + 1, s, l, tag =>
    match l.segs with
    | [] => landLoad s c l l.got tag
    | (pa, n) :: rest =>
      match readSeg s c pa n with
      | .wait m => (s.noted m).modCore c fun k => setHead k (some l)
      | .bad m cl det => failHead (s.noted m) c cl det l 0
      | .got s bs t => runLoad c fuel s { l with segs := rest, got := l.got ++ bs } t

/-- LOAD_VALUE_ARRIVAL (04 R103; 07 R164; 10 R243): the oldest pending load of the running core. -/
def execLoadValueArrival (s : State) : Res1 :=
  .next (
    match allLoads s.k with
    | [] => s
    | l :: _ =>
      match l.cvt with
      | some v =>
        if l.older ≠ 0 then s
        else match cvtLoad s s.cur v, l.dst with
          | .ok (s, x, t), .v r => s.modK fun k => landHead k (.v (some r) none (BitVec.allOnes 128) x t)
          | .ok (s, _, _), _ => s.modK fun k => setHead k none
          | .error (.wait n), _ => s.noted n
          | .error (.bad n cl det eva info), _ =>
            failHead (s.noted n) s.cur cl det l (if cl = 11 ∨ (cl = 20 ∧ det = 2) then v.handle else 0) eva info
      | none =>
        match forwardOf s.k l, l.segs with
        | some e, (pa, n) :: _ => landLoad s s.cur l (lineBytes e.data (pa % 128) n) (e.tags.getLsbD (pa % 128 / 16))
        | _, _ => if l.older ≠ 0 then s else runLoad s.cur 9 s l false)

/-- The oldest store of a core has received an error response: it has no effect (05 R131), and its cause comes at the next
boundary with the address it names (log 32). -/
def failStore (s : State) (c : CoreId) (line cls det : Nat) : State :=
  let k := s.core c
  let g := headGroup k
  match g.find? fun e => e.line == line with
  | none => s
  | some e => pendFault (s.setCore c (dequeue k g.length)) c ⟨cls, det, e.va, 0⟩

/-- The oldest load has asked for the line it waits for: it has missed (18 Table 18.2). -/
def markMiss (k : Core) (line : Nat) : Core :=
  match allLoads k with
  | l :: _ => match l.segs with
    | (pa, _) :: _ => if pa / 128 = line then setHead k (some { l with miss := true }) else k
    | [] => k
  | [] => k
/-- LS_HOME_REQUEST (07 R164): a load miss or lease renewal (`own` false), or the request for ownership of a store's
line. An access whose home answers with an error ends (13 R318). -/
def execLsHomeRequest (line : Nat) (own : Bool) (s : State) : Res1 :=
  .next (
    match (if own then grantOwn s s.cur line else grantLease s s.cur line) with
    | .ok s => if own then s else s.modK fun k => markMiss k line
    | .error (.wait n) => s.noted n
    | .error (.cause n c d) =>
      let s := s.noted n
      if own then failStore s s.cur line c d
      else match allLoads s.k with
        | l :: _ => match l.segs with
          | (pa, _) :: _ => if pa / 128 = line then failHead s s.cur c d l 0 else s
          | [] => s
        | [] => s)

/-- WRITE_QUEUE_DRAIN (04 R102). -/
def execWriteQueueDrain (s : State) : Res1 :=
  .next (match drainOne s s.cur with
    | .ok s => s
    | .error (.wait n) => s.noted n
    | .error (.cause n c d) =>
      let s := s.noted n
      match s.k.wq with
      | e :: _ => failStore s s.cur e.line c d
      | [] => s)

/-- PTS_TICK (07 R163). -/
def execPtsTick (s : State) : Res1 := .next { s with cores := s.cores.map fun k => { k with pts := k.pts + 1 } }

/-! ## Walks -/

/-- A queued miss takes the leaf of the walk it joined: its TLB holds the leaf, or the access is told why it fails, or it
stays queued while the leaf's A and D wait (06 R148, R151, R154). -/
def joinWalk (d : DieId) (x : Leaf) (s : State) (q : WalkReq) : State :=
  match useLeaf s d x q.priv q.need with
  | .ok (s, p) => s.modCore q.core fun k => { k with tlb := tlbPut 2112 k.tlb (tlbEnt q.asid q.va p x.bits) }
  | .error (.wait n) => (s.noted n).modDie d fun y => { y with walkQ := y.walkQ ++ [q] }
  | .error (.bad n det lvl) => (s.noted n).modCore q.core fun k => { k with walkAns := some ⟨q, det, lvl⟩ }
/-- PAGE_WALK (06 R144 to R151): the oldest miss queued at the walker of the die named, from the root its access was
translated from when it missed. Every queued miss of that ASID and page joins the walk. A walk whose table waits goes behind the others. -/
def execPageWalk (s : State) : Res1 :=
  let d := s.dsel
  .next (
    match (s.die d).walkQ with
    | [] => s
    | w :: rest =>
      let joins : WalkReq → Bool := fun x => x.asid == w.asid && x.va / 4096 == w.va / 4096
      let who := (s.die d).walkQ.filter joins
      let left := rest.filter fun x => !joins x
      let put : State → List WalkReq → State := fun s l => s.modDie d fun y => { y with walkQ := l }
      match walk s d w.asid w.ptroot w.va with
      | .ok (s, x) => who.foldl (joinWalk d x) (put s left)
      | .error (.wait n) => put (s.noted n) (left ++ who)
      | .error (.bad n det lvl) =>
        who.foldl (fun s q => s.modCore q.core fun k => { k with walkAns := some ⟨q, det, lvl⟩ }) (put (s.noted n) left))

/-! ## The die cache -/

/-- DIE_CACHE_EVICTION (05 R124): line `item` leaves its home's cache. -/
def execDieCacheEviction (s : State) : Res1 := .next (evictLine s s.item)

/-- HOST_SNOOP (17 R418): the host asks for CXL host line `item`; owned copies are recalled, and its bytes go back. -/
def execHostSnoop (s : State) : Res1 :=
  match target (s.item * 128) with
  | .host => let s := recallOwner s s.item; .next (evictLine (s.emit (.data (rdBytes s (s.item * 128) 128))) s.item)
  | _ => .next s

/-- BACK_INVALIDATE_RESPONSE (17 R418): the host no longer holds line `item`, and the device's writes go on. -/
def execBackInvalidateResponse (s : State) : Res1 := .next { s with hostHeld := Sparse.set 0 s.hostHeld s.item 0 }

end Sys2Proof.Machine
end

