-- ==== Sys2Proof/Machine/Caps.lean ====
section
/-!
DEFINITION. Capability arithmetic and descriptors (spec 11 R269 to R271; 01 R32).
-/

namespace Sys2Proof.Machine

/-- A derived value keeps its tag by 01 R32 only. -/
def derive1 (src : Cap) (bits : BitVec 128) (fits : Bool) : Cap := ⟨bits, fits && derives src ⟨bits, src.tag⟩⟩

/-- CNARROW: BASE + s[b] and LENGTH, exact; what does not fit is truncated and loses the tag (11 Table 11.3). -/
def narrowV (src : Cap) (off len : Word) : Cap :=
  let b : Int := (src.base : Int) + off.toInt
  let fits : Bool := decide (0 ≤ b) && decide (b < 2 ^ 57) && decide (len.toNat < 2 ^ 40) && decide (0 ≤ off.toInt)
  derive1 src (src.bits.extractLsb' 97 31 ++ len.setWidth 40 ++ BitVec.ofInt 57 b) fits

def execCnarrow (o : SNarrow) (s : State) : Res1 :=
  guarded o.g s (.ok (s.land 1 (.c o.d (narrowV (s.cR o.a) (s.sR o.off) (s.sR o.len)))))
def execCperm (o : SPerm) (s : State) : Res1 :=
  guarded o.g s (.ok (s.land 1 (.c o.d (let c := s.cR o.a
    derive1 c ((c.perms &&& o.mask) ++ c.bits.extractLsb' 0 121) true))))
def execCgetb (o : SCget) (s : State) : Res1 := guarded o.g s (.ok (s.outS 1 o.d (BitVec.ofNat 64 (s.cR o.a).base)))
def execCgetl (o : SCget) (s : State) : Res1 := guarded o.g s (.ok (s.outS 1 o.d (BitVec.ofNat 64 (s.cR o.a).len)))
/-- HANDLE in [23:0], permissions in [30:24], tag in [31]. -/
def gethV (c : Cap) : Word := ((BitVec.ofBool c.tag ++ c.perms ++ c.bits.extractLsb' 97 24).setWidth 64)
def execCgeth (o : SCget) (s : State) : Res1 := guarded o.g s (.ok (s.outS 1 o.d (gethV (s.cR o.a))))
def execCtest (o : SCtest) (s : State) : Res1 :=
  guarded o.g s (.ok (s.outP 1 o.p (let c := s.cR o.a; c.tag && (o.mask &&& ~~~c.perms) == 0#7)))
def execCmov (o : SCmov) (s : State) : Res1 := guarded o.g s (.ok (s.land 1 (.c o.d (s.cR o.a))))
def execMdsetWord (o : MDescW) (s : State) : Res1 := guarded o.g s (.ok (s.land 1 (.md o.d o.w (s.sR o.a))))
def execMdsetCap (o : MDescC) (s : State) : Res1 := guarded o.g s (.ok (s.land 1 (.mdc o.d (s.cR o.a))))
def execCdsetWord (o : SDescW) (s : State) : Res1 := guarded o.g s (.ok (s.land 1 (.cd o.d o.w (s.sR o.a))))
def execCdsetCap (o : SDescC) (s : State) : Res1 := guarded o.g s (.ok (s.land 1 (.cdc o.d o.dst (s.cR o.a))))

end Sys2Proof.Machine
end

