-- ==== Sys2Proof/Machine/Governor.lean ====
section
/-!
DEFINITION. Statistics flushes, ticks, RESCALE and step transactions (spec 03 R77 to R90; 11 R283 to R286).
-/

namespace Sys2Proof.Machine

/-! ## Statistics flushes (03 R77, R78) -/

def sat (w x : Nat) : Nat := min (2 ^ w - 1) x
def RecBits.putHist (w : RecBits) (i x : Nat) : RecBits := w.put (32 + i) 0 8 x
def RecBits.putMaxe (w : RecBits) (m : Option Int) : RecBits :=
  w.put 56 16 8 (match m with | none => 0x80 | some x => (BitVec.ofInt 8 x).toNat)
def maxO (a b : Option Int) : Option Int :=
  match a, b with
  | none, b => b | a, none => a | some x, some y => some (max x y)

/-- The update of R78 on a record, and what the entry keeps. -/
def flushInto (w : RecBits) (e : StatEnt) (hunit ovlim : Nat) : RecBits × StatEnt :=
  let u := 2 ^ hunit
  let w := (List.range 24).foldl (fun (w : RecBits) i => w.putHist i (sat 8 (w.hist i + e.bins.getD i 0 / u))) w
  let satn := sat 16 (w.satn + e.sat)
  let w := (((w.put 56 0 16 (sat 16 (w.samp + e.samp / u))).put 56 48 16 satn).put 56 32 16 (sat 16 (w.undn + e.und))).put 56 24 8 (sat 8 (w.nann + e.nan))
  let w := w.putMaxe (maxO w.maxe e.maxe)
  let w := if ovlim < satn then w.put 0 16 1 1 else w
  (w, { e with bins := e.bins.map (· % u), samp := e.samp % u, sat := 0, und := 0, nan := 0, maxe := none, clean := true
               reply := some (w.satn, w.over) })

/-- The entry that is to be flushed next: one to be evicted, whose reply comes before any other flush, else one with
something to send. -/
def nextFlush (k : Core) : Option StatEnt :=
  match k.stats.find? (fun e => e.evict) with
  | some e => if e.reply.isNone then some e else none
  | none => k.stats.find? fun e => !e.clean && e.reply.isNone
def modStat (k : Core) (e : StatEnt) (f : StatEnt → List StatEnt) : Core :=
  { k with stats := k.stats.flatMap fun x => if x.is e.ctx.asid e.handle ∧ x.evict = e.evict then f x else [x] }

/-- A GV operation of a task has written at a timestamp (07 R168, R170). -/
def TState.gvDone (t : TState) (mw : Nat) : TState := { t with mwts := max t.mwts mw, mwgv := max t.mwgv mw }
/-- Starts to count the timestamps of a GV operation's writes. -/
def State.clearHts (s : State) : State := { s with hts := 0 }

/-- A fault of a tick or of a GV access reaches its core at the next boundary, or the grid's record when the core no
longer runs the task (01 R20). -/
def pendOrRecord (s : State) (c : CoreId) (uid : Nat) (f : FaultRec) : State :=
  match (s.core c).task with
  | some t => if t.uid = uid then pendFault s c f else record
  | none => record
where
  record : State := match findTask s uid with | some t => gridCause s t.gid f.cls f.det f.einfo | none => s
/-- A GV operation of a task, resident or switched out, has written at a timestamp. -/
def gvOfTask (s : State) (uid mw : Nat) : State := modTask s uid (·.gvDone mw)

/-- STATS_FLUSH (03 R78): one entry of the running core goes to its record's home, in the context whose tasks stored. DESIGN
CHOICE (log 61): an entry whose record can no longer be reached, or whose handle no longer resolves, is dropped, and its task
takes class 20 detail 2, or class 11, at a boundary: class 4 is precise alone (16 Table 16.1). A tick of the context that waits
for the flush carries its timestamp too. -/
def execStatsFlush (s : State) : Res1 :=
  match nextFlush s.k with
  | none => .next s
  | some e =>
    let v : Gv := ⟨coreDie s.cur, e.ctx⟩
    let run : GOp State := do
      let (s, r) ← engage s.clearHts v.d v.ctx e.handle
      let (s, p) ← v.policy s r
      let (w, e') := flushInto r.w e (polHunit p) (polOvlim p)
      let s ← v.putRec s { r with w := w }
      let s := gvOfTask (s.modK fun k => modStat k e fun _ => [e']) e.uid s.hts
      pure { s with ticks := s.ticks.map fun t => if t.ctx.asid = v.ctx.asid && !t.done then { t with mw := max t.mw s.hts } else t }
    .next (match run with
      | .ok s => s
      | .error (.wait n) => s.noted n
      | .error (.bad n c d _ _) =>
        let c' := if c = 11 then 11 else 20
        let d' := if c = 11 then d else 2
        pendOrRecord ((s.noted n).modK fun k => modStat k e fun _ => []) s.cur e.uid ⟨c', d', 0, BitVec.ofNat 64 e.handle⟩)

/-- STATS_FLUSH_REPLY (03 R78): BASE and OVER as the record has them; an evicted entry goes. -/
def execStatsFlushReply (s : State) : Res1 :=
  match s.k.stats.find? (fun e => e.reply.isSome) with
  | none => .next s
  | some e => .next (s.modK fun k => modStat k e fun x =>
      if x.evict then [] else match x.reply with
        | some (n, o) => [{ x with base := n, recOver := o, reply := none }]
        | none => [x])

/-! ## The governor's rule for one record (03 R81 to R84) -/

/-- Elements of a histogram. -/
def RecBits.bins (w : RecBits) : List Nat := (List.range 24).map w.hist
/-- j of R81: the first bin whose running sum exceeds q times the whole. -/
def tailBin (h : List Nat) (tail : Nat) : Nat :=
  let s := h.foldl (· + ·) 0
  if s = 0 then 23
  else ((List.range 24).find? fun i => decide (s < (h.take (i + 1)).foldl (· + ·) 0 * 2 ^ (tail + 4))).getD 23

/-- Fields of a policy entry (03 Table 3.4). -/
structure Pol where
  (smax smin : Int) (nclean steplim h tail span5 span4 spanmx : Nat) (fe5 fmx fe4 loss : Bool)
  deriving DecidableEq, Repr
def Pol.of (p : BitVec 128) : Pol :=
  let n : Nat → Nat → Nat := fun lo len => p.toNat / 2 ^ lo % 2 ^ len
  { smax := polSmax p, smin := polSmin p, nclean := max 1 (n 24 8), steplim := n 20 4, h := n 16 4, tail := n 120 3, span5 := n 116 4
    span4 := n 112 4, spanmx := n 108 4, fe5 := p.getLsbD 107, fmx := p.getLsbD 106, fe4 := p.getLsbD 105, loss := polLoss p }

/-- Scale, format and CLEAN that R81 computes. -/
def r81 (w : RecBits) (p : Pol) : Int × Nat × Nat :=
  let j := tailBin w.bins p.tail
  let total := w.bins.foldl (· + ·) 0
  let span : Int := match w.maxe with | none => 0 | some m => if total = 0 then 0 else m - (w.binbase + j)
  let f := w.fmt
  let f := if f = 0 ∧ p.fe5 ∧ (p.span5 : Int) < span then 1
    else if f = 1 ∧ p.fe4 ∧ span ≤ p.span4 then 0
    else if f = 0 ∧ p.fmx ∧ span ≤ p.spanmx then 2
    else if f = 2 ∧ p.fe4 ∧ (p.spanmx : Int) < span then 0
    else f
  let s := w.sigma w.live
  let t : Int := match w.maxe with | none => s | some m => m - emaxf (recFmt f) + p.h
  let (s', clean) : Int × Nat :=
    if s < t then (s + min (t - s) p.steplim, 0)
    else if t < s then
      let c := min 255 (w.clean + 1)
      if p.nclean ≤ c then (s - min (s - t) p.steplim, 0) else (s, c)
    else (s, 0)
  let s' := max p.smin (min p.smax s')
  if w.frozen then (s, w.fmt, clean) else (s', f, clean)

/-- The loss-scale rule of R84: also whether the floor was met. DESIGN CHOICE (log 61): a sigma below SMIN, which the rule does
not name, is at the floor. -/
def r84 (w : RecBits) (p : Pol) (discarded : Bool) : Int × Nat × Bool :=
  let s := w.sigma w.live
  let keep : Int → Int := fun x => if w.frozen then s else x
  if w.satn != 0 || w.nann != 0 || discarded then
    if p.smin < s then (keep (max p.smin (s - p.steplim)), 0, false) else (s, w.clean, true)
  else
    let c := min p.nclean (w.clean + 1)
    if p.nclean ≤ c ∧ s < p.smax then (keep (min p.smax (s + p.steplim)), 0, false) else (s, c, false)

/-- Publication or deferral (03 R82); `free` says the next slot is unreferenced. -/
def publish (w : RecBits) (s' : Int) (f clean : Nat) (free : Bool) : RecBits :=
  if s' = w.sigma w.live ∧ f = w.fmt then w.put 0 32 8 clean
  else if free then
    let n := (w.live + 1) % 4
    ((((w.put 8 (16 * n) 16 ((BitVec.ofInt 8 s').toNat * 256 + f * 16)).put 0 26 2 n).put 0 0 4 f).put 0 48 16 (w.vnum + 1)).put 0 32 8 clean
  else w.put 0 12 4 (min 15 (w.f 0 12 4 + 1))

/-- Halving, recentring and clearing (03 R83). -/
def settle (w : RecBits) : RecBits :=
  let h := w.bins.map (· / 2)
  let base : Int := match w.maxe with
    | some m => if m - w.binbase < 16 ∨ 21 < m - w.binbase then max (-128) (m - 19) else w.binbase
    | none => w.binbase
  let h := if base = w.binbase then h
    else h.zipIdx.foldl (fun (acc : List Nat) x =>
      let i := (max 0 (min 23 (w.binbase + x.2 - base))).toNat
      acc.set i (sat 8 (acc.getD i 0 + x.1))) (List.replicate 24 0)
  let w := h.zipIdx.foldl (fun (w : RecBits) x => w.putHist x.2 x.1) w
  let w := w.put 0 40 8 (BitVec.ofInt 8 base).toNat
  (((((w.put 56 48 16 0).put 56 32 16 0).put 56 24 8 0).put 56 0 16 0).putMaxe none).put 0 16 1 0

/-- Statistics that make a record take part in a tick (03 R81). -/
def RecBits.stirred (w : RecBits) : Bool := w.auto && (w.samp != 0 || w.satn != 0 || w.nann != 0)
/-- Whether a record takes part in a tick: `closing` says its step set commits or aborts in it. -/
def takesPart (w : RecBits) (pol : BitVec 128) (closing : Bool) : Bool := w.stirred || (polLoss pol && closing)
/-- One record that takes part in a tick: the new record and whether the scale floor was met. -/
def governRec (w : RecBits) (pol : BitVec 128) (discarded free : Bool) : RecBits × Bool :=
  let p := Pol.of pol
  if p.loss then
    let (s', c, fl) := r84 w p discarded
    (settle (publish w s' w.fmt c free), fl)
  else
    let (s', f, c) := r81 w p
    (settle (publish w s' f c free), false)

/-! ## Ticks (03 R80, R86 to R89) -/

def stepSet (s : State) (asid : BitVec 16) : Option StepSet := s.steps.find? fun x => x.asid == asid
/-- Index of the tick a context works on: its first that is not done. -/
def activeTick (s : State) (i : Nat) : Bool :=
  match s.ticks[i]? with
  | none => false
  | some t => !t.done && (s.ticks.take i).all fun u => u.done || u.ctx.asid != t.ctx.asid
def modTick (s : State) (i : Nat) (f : Tick → Tick) : State := { s with ticks := s.ticks.zipIdx.map fun x => if x.2 = i then f x.1 else x.1 }
/-- Steps 1 and 2 of R80: every core of the context has drained its store-path writes and flushed. -/
def flushedAll (s : State) (asid : BitVec 16) : Bool :=
  allCores.all fun c =>
    let k := s.core c
    k.stats.all (fun e => e.ctx.asid != asid || (e.clean && e.reply.isNone)) && match k.task with
    | some t => t.ctx.asid != asid || k.wq.all fun e => e.group == 0
    | none => true

def Tick.gv (t : Tick) (d : DieId) : Gv := ⟨d, t.ctx⟩
def handlesOf (ctx : Ctx) : List Nat := (List.range (ctx.rtcnt.extractLsb' 0 24).toNat).drop 1
def tickFault (t : Tick) (f : FaultRec) : Tick := { t with fault := some (t.fault.getD f) }
/-- The cause a tick reports for a record (01 R20; log 55). -/
def tickCause (h c det : Nat) : FaultRec := ⟨if c = 11 then 11 else 20, if c = 11 then det else 2, 0, BitVec.ofNat 64 h⟩
/-- One GV operation of the tick numbered i on the record of a handle: a cause is the tick's fault, a handle that names no
record is none of the context's, and a wait makes the whole action wait. -/
def tickOp (i h : Nat) (s : State) (g : GOp State) : Except HNote State :=
  match g with
  | .ok s => .ok s
  | .error (.wait n) => .error n
  | .error (.bad n 4 _ _ _) => .ok (s.noted n)
  | .error (.bad n c det _ _) => .ok (modTick (s.noted n) i (tickFault · (tickCause h c det)))
/-- The records of a context homed on a die, one after the other. Only its home reads a record; a page that does not
translate is a failed GV access (06 Table 6.9). -/
def onRecords (s : State) (i : Nat) (t : Tick) (d : DieId) (hs : List Nat) (f : Gv → State → RecRef → GOp State) : Except HNote State :=
  hs.foldlM (init := s) fun s h => tickOp i h s do
    let (s, va) ← recVa s d t.ctx h
    let (s, pa) ← asGv (gAddr s d t.ctx true va ⟨false, false, true⟩)
    if homeDie s d pa = d then do
      let (s, r) ← recOfVa s d t.ctx h va
      f (t.gv d) s r
    else pure s

/-- The timestamp of a commit. DESIGN CHOICE (log 61): later than any a line or a core has, though a GV write takes none from
a core, so that every reader sees the members change at one point (03 R89, R90). -/
def commitTs (s : State) : Nat :=
  allCores.foldl (fun m c => (s.core c).l1.foldl (fun m l => max m (max l.rts l.lend)) (max m (s.core c).pts))
    (allDies.foldl (fun m d => max m (highWater s d)) 0) + 1
/-- Marks the set's members committing or aborting, as one GV update at one timestamp, and clears STEP (03 R89). -/
def markMembers (s : State) (i : Nat) (t : Tick) (members : List Nat) (code : Nat) : Except HNote State :=
  let v := t.gv (coreDie t.core)
  let ts := commitTs s
  members.foldlM (init := s) fun s h => tickOp i h s do
    let (s, r) ← recAt s v.d v.ctx h
    v.putRec s { r with w := (r.w.put 0 10 2 code).put 0 17 1 0 } ts

/-- Governs one record (03 R81 to R84). DESIGN CHOICE (log 55): a malformed record met by a tick, whatever its AUTO, and the
malformed policy of one that may take part make the tick report class 11 detail 3. -/
def governOne (s : State) (i : Nat) (t : Tick) (v : Gv) (r : RecRef) : GOp State := do
  let closing := t.kind != 0 && t.members.contains r.handle
  if r.w.malformed then gBad 11 3
  else if r.w.step || !(r.w.stirred || closing) then pure s
  else do
    let (s, p) ← v.policy s r
    if !takesPart r.w p closing then pure s
    else do
      let (s, c) ← v.rd s (r.w.side.vcount + 8 * ((r.w.live + 1) % 4)) 8
      let (w, fl) := governRec r.w p (closing && t.kind == 1 && t.committed == some false) (bytesToNat c == 0)
      let s ← v.putRec s { r with w := w }
      pure (if fl && t.kind == 1 then modTick s i fun t => { t with floor := some (t.floor.getD ⟨11, 2, 0, BitVec.ofNat 64 r.handle⟩) } else s)

/-- A die has done its part of a tick: what it wrote goes into the tick's MWTS. -/
def tickPart (s0 : State) (i : Nat) (r : Except HNote State) (f : Tick → Tick) : State :=
  match r with
  | .ok s => modTick s i fun t => f { t with mw := max t.mw s.hts }
  | .error n => s0.noted n

/-- TICK_GOVERN (03 R80 step 3, R81): the tick numbered `unit` on the die named, after every core of the context has flushed,
and after every die has rewritten the members of a set that closes (03 R89). A die whose island is not active governs
nothing. -/
def execTickGovern (s : State) : Res1 :=
  let i := s.unit
  let d := s.dsel
  match s.ticks[i]? with
  | none => .next s
  | some t =>
    let ready := if t.kind = 0 then !t.governed.isEmpty || flushedAll s t.ctx.asid else allDies.all (fun d => t.rewritten.contains d)
    if !activeTick s i || t.governed.contains d || !ready then .next s
    else
      .next (tickPart s i (if islActive s d then onRecords s.clearHts i t d (handlesOf t.ctx) (fun v s r => governOne s i t v r) else .ok s.clearHts)
        fun t => { t with governed := t.governed ++ [d] })

/-- STATE of one member rewritten, discarded granules leaving VCOUNT (03 R89). -/
def rewriteState (v : Gv) (s : State) (r : RecRef) (ok : Bool) : GOp State := do
  let (s, r) ← (List.range r.w.grans).foldlM (init := (s, r)) fun (s, r) g => do
    let (s, st) ← v.pair s r.w.side.state g
    let sel := st % 2 == 1
    if st / 2 = 0 then pure (s, r)
    else do
      let gone := if ok then sel else !sel
      let (s, t) ← v.tag s r gone g
      let (s, r) ← v.addRef s r t false
      let s ← v.putPair s r.w.side.state g (if sel != ok then 1 else 0)
      pure (s, r)
  v.putRec s { r with w := r.w.put 0 10 2 0 }

/-- STEP_STATE_REWRITE (03 R89): once every core of the context has flushed, the first reads the finite flag and marks the
members; the others rewrite the members homed on the die named. -/
def execStepStateRewrite (s : State) : Res1 :=
  let i := s.unit
  let d := s.dsel
  match s.ticks[i]? with
  | none => .next s
  | some t =>
    if t.kind = 0 || t.rewritten.contains d || !activeTick s i then .next s
    else match t.committed with
      | none =>
        if !flushedAll s t.ctx.asid then .next s
        else
          let x := stepSet s t.ctx.asid
          let ok := match x with | some x => t.kind == 1 && !x.finite | none => false
          let hs := match x with | some x => x.members | none => []
          .next (tickPart s i (markMembers s.clearHts i t hs (if ok then 1 else 2)) fun t => { t with committed := some ok, members := hs })
      | some ok =>
        .next (tickPart s i (if islActive s d then onRecords s.clearHts i t d t.members (fun v s r => rewriteState v s r ok) else .ok s.clearHts)
          fun t => { t with rewritten := t.rewritten ++ [d] })

/-- Norms of the KMAJ records of a context homed on a die set to +0 (03 R70). -/
def clearNorms (s : State) (i : Nat) (t : Tick) (d : DieId) : Except HNote State :=
  onRecords s i t d (handlesOf t.ctx) fun v s r =>
    if r.w.kmaj && !r.w.malformed then v.wr s r.w.side.norms (List.replicate (4 * r.w.krows) 0) else pure s
/-- OVER, BASE and the record's OVER bit of every entry of the context set to 0 (03 R80). -/
def clearAllowance (s : State) (asid : BitVec 16) : State :=
  { s with cores := s.cores.map fun k => { k with stats := k.stats.map fun e =>
      if e.ctx.asid = asid then { e with above := false, base := 0, recOver := false } else e } }
/-- TICK_COMPLETE (03 R80 steps 4 and 5; 11 R283): the completion carries MWTS of the tick's writes. -/
def execTickComplete (s : State) : Res1 :=
  let i := s.unit
  match s.ticks[i]? with
  | none => .next s
  | some t =>
    if !activeTick s i || !allDies.all (fun d => t.governed.contains d) then .next s
    else
      match (allDies.filter (islActive s)).foldlM (init := s.clearHts) fun s d => clearNorms s i t d with
      | .error n => .next (s.noted n)
      | .ok s1 =>
        let mw := max t.mw s1.hts
        let s1 := clearAllowance s1 t.ctx.asid
        let s1 := if t.kind = 0 then s1 else { s1 with steps := s1.steps.filter fun x => x.asid != t.ctx.asid }
        let s1 := gvOfTask s1 t.uid mw
        match opSignal? s1 (coreDie t.core) t.ctx t.uid t.ev mw with
        | .error n => .next (s.noted n)
        | .ok s2 =>
          let s2 := match (s1.ticks[i]?).bind Tick.fault with | some f => pendOrRecord s2 t.core t.uid f | none => s2
          .next (if t.waits then modTick s2 i fun t => { t with done := true, mw := mw }
                 else { s2 with ticks := s2.ticks.take i ++ s2.ticks.drop (i + 1) })

/-! ## GOVTICK, STEPCOMMIT, STEPABORT -/

def startTick (s : State) (kind : BitVec 2) (ev : Option (BitVec 16)) (waits : Bool) : State :=
  { s with ticks := s.ticks ++ [{ ctx := s.k.ctx, core := s.cur, uid := taskUid s.k, kind := kind, ev := ev, waits := waits
                                  governed := [], rewritten := [], members := [], committed := none, fault := none, floor := none
                                  done := false, mw := 0 }] }
/-- The tick this core waits for. -/
def myTick (s : State) : Option Tick := s.ticks.find? fun t => t.core == s.cur && t.uid == taskUid s.k && t.waits
/-- The wait ends: the tick goes, and the core observes its updates (11 R283; 07 R173). -/
def endTick (s : State) (t : Tick) : State :=
  { s.modK (observe · t.mw) with ticks := s.ticks.filter fun t => !(t.core == s.cur && t.uid == taskUid s.k && t.waits) }

def execGovtick (o : LGovtick) (s : State) : Res1 :=
  guarded o.g s (
    match myTick s with
    | some t => if t.done then .ok (endTick s t) else freeze s
    | none => do
      let ev ← match o.e with
        | none => pure none
        | some e => do let n ← s.evName (s.evOp e); pure (some (BitVec.ofNat 16 n))
      let s := startTick s 0 ev o.wait
      if o.wait then freeze s else pure s)

/-- A step set open that no tick closes yet. -/
def openSet (s : State) : Option StepSet :=
  let a := s.k.ctx.asid
  if s.ticks.any (fun t => t.ctx.asid == a && t.kind != 0) then none else stepSet s a

def execStepcommit (o : LDst) (s : State) : Res1 :=
  guarded o.g s (
    match myTick s with
    | some t =>
      if t.done then
        let s := (endTick s t).modRegs fun g => (Res.s o.d (if t.committed = some true then 1 else 0) STan.zero).apply g
        match t.floor with
        | some f => .error (.flt s true f)
        | none => .ok s
      else freeze s
    | none => match openSet s with
      | none => raise s 11 6
      | some _ => freeze (startTick s 1 none true))
def execStepabort (o : LGuard) (s : State) : Res1 :=
  guarded o.g s (
    match myTick s with
    | some t => if t.done then .ok (endTick s t) else freeze s
    | none => match openSet s with
      | none => raise s 11 6
      | some _ => freeze (startTick s 2 none true))

/-! ## RESCALE and STEPBEGIN -/

def modGvReq (s : State) (c : CoreId) (f : GvReq → GvReq) : State := { s with gv := s.gv.map fun r => if r.core = c then f r else r }
/-- Waits for this core's GV update, then goes on with its fault or its completion. -/
def awaitGv (s : State) (r : GvReq) : Op State :=
  if !r.done then freeze s
  else
    let s' := { s.modK (fun k => { observe k r.mw with t := k.t.gvDone r.mw }) with gv := s.gv.filter fun x => x.core != s.cur }
    match r.fault with
    | none => .ok s'
    | some f => if f.cls = 20 then .error (.done (pendFault s' s.cur f)) else raise s' f.cls f.det f.eva f.einfo
def sendGv (s : State) (u : GvUpd) : Op State := freeze { s with gv := s.gv ++ [⟨s.cur, u, false, none, 0⟩] }
def myGv (s : State) : Option GvReq := s.gv.find? fun r => r.core == s.cur

def execRescale (o : LMem) (s : State) : Res1 :=
  guarded o.g s (
    match myGv s with
    | some r => awaitGv s r
    | none => do
      let c := s.cR o.m.cap
      let start : Int := ((c.base : Int) + s.memOff o.m.idx o.m.imm 4096) / 4096 * 4096
      let va ← capCheck s c .both (start - c.base) 4096
      if c.handle = 0 then raise s 4 10
      else do
        let v := s.gvOf
        let (s, r) ← gvOp s c.handle va (engage s v.d v.ctx c.handle)
        if va < r.w.dbase ∨ r.w.dbase + r.w.len ≤ va then raise s 4 9
        else if !privMode s.k && va / 2 ^ 56 % 2 = 1 then raise s 3 2
        else sendGv s (.rescale c.handle r.va ((va - r.w.dbase) / 4096)))

/-- Re-encodes granule g under LIVE (03 R73; 11 R284). -/
def rescaleGran (v : Gv) (s : State) (r : RecRef) (g : Nat) (ftz : Bool) (bj : Nat) : GOp State := do
  let (s, c, pend) ← v.committed s r g
  let src := if r.w.step && pend then !c else c
  let dst := if r.w.step then !c else c
  let (s, t) ← v.tag s r src g
  if t = r.w.live then pure s
  else do
    let copies := r.w.step && !pend
    let s ← if copies then v.copyGran s r c g else pure s
    let (s, x) ← v.viewCopy s r src g
    let (s, bs) ← asGv (gRead s v.d v.ctx src (granVa r src g) 4096)
    let n := min r.w.perGran (r.w.count - g * r.w.perGran)
    let e0 := g * r.w.perGran
    let f := recFmt r.w.fmt
    let ys := (List.range n).map fun i => (x.elem r bs 0 (e0 + i)).scale (-(r.w.sigma r.w.live))
    let enc := encodeRun f .rne true ftz bj (fun i => r.w.kStart (e0 + 8 * i)) (fun _ => 0) ys
    let s ← asGv (gWrite s v.d v.ctx dst (granVa r dst g) (packBits (NumFmt.width f) (enc.els.map Prod.fst)))
    let s ← if f = .mxf4 then v.wr s (scaleVa r dst g) (enc.codes.map (BitVec.ofNat 8))
      else if f = .ps2 then do
        let s ← ((enc.codes.zip enc.starts).zipIdx.filter fun x => x.1.2).foldlM (init := s) fun s x =>
          v.wr s (scaleVa r dst g + x.2) [BitVec.ofNat 8 x.1.1]
        v.wr s (mapVa r dst g) (packBits 1 (padTo8 (enc.starts.map fun b => if b then 1 else 0)))
      else pure s
    let (s, r) ← if copies then do
        let s ← v.putPair s (tagBase r.w.side dst) g r.w.live
        v.addRef s r r.w.live true
      else v.retag s r dst g r.w.live
    let s ← if r.w.step then do
        let (s, st) ← v.pair s r.w.side.state g
        v.putPair s r.w.side.state g (st % 2 + 2)
      else pure s
    v.putRec s { r with w := r.w.put 56 48 16 (sat 16 (r.w.satn + satCount enc.els)) }
where
  /-- Bits up to a whole byte. -/
  padTo8 (l : List Nat) : List Nat := l ++ List.replicate ((8 - l.length % 8) % 8) 0

def execStepbegin (o : LScal) (s : State) : Res1 :=
  guarded o.g s (
    match myGv s with
    | some r => awaitGv s r
    | none => do
      let n := (s.sR o.d).toNat
      let c := s.cR o.m.cap
      if n = 0 ∨ 1024 < n then raise s 11 5
      else do
        let va ← capCheck s c .rd (s.memOff o.m.idx o.m.imm 4) (4 * n)
        let s0 := s
        let (s, ps) ← loadPieces s c va (4 * n)
        let xs ← xlatePieces s false false ps
        if !lsQuiet s.k then freeze s0
        else
          match xs.foldlM (init := (s, ([] : List Byte))) (fun (s, acc) x => do
              let (s, b) ← lsReadHome s s.cur x.2.1 x.1.len
              pure (s, acc ++ b) : State × List Byte → Piece × Nat × BitVec 64 → HOp (State × List Byte)) with
          | .error (.wait n) => freeze (s0.noted n)
          | .error (.cause n cl d) => raise (s0.noted n) cl d va
          | .ok (s', bs) =>
            let hs := (List.range n).map fun i => bytesToNat ((bs.drop (4 * i)).take 4)
            if hs.any (fun h => decide (2 ^ 24 ≤ h)) then raise s' 11 5 else sendGv s' (.stepbegin hs))

/-- EINFO of a class 11 or 20 cause names the record at fault (03 R85). -/
def forHandle {α : Type} (h : Nat) (g : GOp α) : GOp α :=
  match g with
  | .error (.bad n c d e _) => .error (.bad n c d e (if c = 4 then none else some (BitVec.ofNat 64 h)))
  | r => r
/-- Checks and opening of a step set at the home, all of it or nothing (03 R86; 11 R285). DESIGN CHOICE (log 55): the order of
the failures when several apply: detail 6, then member by member an unresolved handle, detail 3, detail 5, detail 4. -/
def openStep (v : Gv) (s : State) (hs : List Nat) : GOp State := do
  if (stepSet s v.ctx.asid).isSome then gBad 11 6
  else
    let (s, rs) ← hs.foldlM (init := (s, ([] : List RecRef))) fun x h => forHandle h do
      let (s, r) ← engage x.1 v.d v.ctx h
      if !r.w.shadow then gBad 11 5
      else if r.w.step || x.2.any (fun y => y.handle == h) then gBad 11 4
      else pure (s, x.2 ++ [r])
    let s ← rs.foldlM (init := s) fun s r => forHandle r.handle (v.putRec s { r with w := r.w.put 0 17 1 1 })
    pure { s with steps := s.steps ++ [⟨v.ctx.asid, hs, false⟩] }

/-- GV_UPDATE_AT_HOME (11 R284, R285): the update of the core named is performed, which releases its bundle. -/
def execGvUpdateAtHome (s : State) : Res1 :=
  match myGv s with
  | none => .next s
  | some r =>
    if r.done then .next s
    else
      let v := s.gvOf
      let run : GOp State := match r.upd with
        | .rescale h rva g => forHandle h do
            let (s, r) ← engageVa s.clearHts v.d v.ctx h rva
            rescaleGran v s r g s.ftz (bjumpOf s.isys)
        | .stepbegin hs => openStep v s.clearHts hs
      .next (match run with
        | .ok s => modGvReq s s.cur fun r => { r with done := true, mw := s.hts }
        | .error (.wait n) => s.noted n
        | .error (.bad n c d e i) => modGvReq (s.noted n) s.cur fun r =>
            { r with done := true, fault := some ⟨c, d, e.getD 0, i.getD 0⟩ })

end Sys2Proof.Machine
end

