-- ==== Sys2Proof/Machine/Transfer.lean ====
section
/-!
DEFINITION. What copies and collectives move with (spec 13 R337 to R339; 03 R73 to R76; 15 R383): accesses of an engine
that stop at the first failing byte, elements read under their granules' versions, and the record store path.
-/

namespace Sys2Proof.Machine

open Sys2Proof.NumFmt (XV Ev)

/-! ## Accesses -/

/-- A transfer on its way: the state, the largest timestamp written (07 R168), and the physical runs read and
written. -/
structure Mv where
  (s : State) (mw : Nat) (src dst : List (Nat × Nat))
  deriving DecidableEq, Repr
/-- A transfer that begins: State.hts gathers the timestamps of its writes, those to the sidecar with them. -/
def Mv.start (s : State) : Mv := ⟨s.clearHts, 0, [], []⟩
/-- MWTS of a transfer (07 R168). -/
def Mv.mwts (m : Mv) : Nat := max m.mw m.s.hts
/-- How a transfer ends early: it waits for a home, or for room in the issuing core's statistics buffer (03 R77), and has no
effect yet; or it stops with a cause and the address. -/
inductive MvEnd where
  | wait (n : HNote)
  | stats
  | stop (m : Mv) (cls det addr : Nat)
  deriving DecidableEq, Repr
abbrev MvR (α : Type) := Except MvEnd α

/-- Who transfers: an engine with its translation cache, or a die's walker for a collective; `runs` are the nominal
destination runs of the whole operation, which say what granules it covers (03 R73); `mix` marks the bytes after a stop, each
of which is old or copied (13 R338; log 15), but for the granule at `deny`, which the stop left unwritten (03 R73, R79); `bad`
is the virtual 4 KiB unit of the source that failed its check, of which nothing is read (18 R438). -/
structure MvBy where
  (eng : Option EngineId) (die : DieId) (core : CoreId) (uid : Nat) (ctx : Ctx) (priv ftz : Bool) (bj : Nat)
  (runs : List (Nat × Nat) := []) (mix : Bool := false) (deny bad : Option Nat := none)
  deriving DecidableEq, Repr
def MvBy.gv (b : MvBy) : Gv := ⟨b.die, b.ctx⟩

/-- How a translation of a transfer fails: it waits, or ends with a class and detail. -/
inductive MvX where
  | wait (n : HNote)
  | bad (n : HNote) (cls det : Nat)
  deriving DecidableEq, Repr
def atXl {α : Type} (r : Except XErr α) : Except MvX α :=
  match r with
  | .ok a => .ok a
  | .error (.wait n) => .error (.wait n)
  | .error (.bad n d _) => .error (.bad n 5 d)
/-- Translation of a byte (06 R150, R156): the physical address. An engine's miss walks at once. -/
def mvXlate (b : MvBy) (s : State) (va : Nat) (write rb : Bool) : Except MvX (State × Nat) :=
  let n : Need := ⟨write, false, rb⟩
  if !b.priv && va / 2 ^ 56 % 2 = 1 then .error (.bad .none 3 2)
  else
    match b.eng with
    | none => (atXl (walkXlate s b.die b.ctx b.priv va n)).map fun x => (x.1, x.2.1)
    | some e =>
      let a := asidFor b.ctx.asid.toNat va
      let fresh : Except MvX (State × Nat) := do
        let (s, x) ← atXl (walk s b.die b.ctx.asid.toNat b.ctx.ptroot va)
        let (s, p) ← atXl (useLeaf s b.die x b.priv n)
        pure ({ s with engTlb := s.engTlb.set e (tlbPut 256 (s.engTlb.get e) (tlbEnt a va p x.bits)) },
          resolvePa (ptePa p + va % 2 ^ x.bits))
      match tlbFind (s.engTlb.get e) a va with
      | some t =>
        match leafErr t.pte b.priv n with
        | some d => .error (.bad .none 5 d)
        | none => if write && !pteD t.pte then fresh else .ok (s, tlbPa t va)
      | none => fresh

/-- Reads runs of virtual bytes, none of which crosses a line; a failure answers the bytes before it with the cause
and address. A poisoned line, and a unit whose check fails, stop the transfer at the unit and are reported (18 R438, R439). -/
def mvReadRuns (b : MvBy) (rb : Bool) : List (Nat × Nat) → Mv → List Byte → MvR (Mv × List Byte × Option (Nat × Nat × Nat))
  | [], m, acc => .ok (m, acc, none)
  | (a, len) :: t, m, acc =>
    match mvXlate b m.s a false rb with
    | .error (.wait n) => .error (.wait n)
    | .error (.bad n c d) => .ok ({ m with s := m.s.noted n }, acc, some (c, d, a))
    | .ok (s, pa) =>
      match target pa with
      | .mmio .. => .ok ({ m with s := s }, acc, some (6, 1, a))
      | _ =>
        let u := a / 4096
        let check := Sparse.get false s.crc (pa / 4096)
        if b.bad = some u then .ok ({ m with s := s }, acc, some (20, 1, 4096 * u))
        else if check || Sparse.get false s.poison (pa / 128) then
          let s' := if b.mix then s
            else integReport { s with crc := Sparse.set false s.crc (pa / 4096) false } b.die (if check then 1 else 0)
              (match b.eng with | some e => e.val | none => b.die.val) pa
          .ok ({ m with s := s' }, acc, some (20, 1, 4096 * u))
        else match homeRead s b.die pa len with
          | .ok (s, bs) => mvReadRuns b rb t { m with s := s, src := m.src ++ [(pa, len)] } (acc ++ bs)
          | .error (.wait n) => .error (.wait n)
          | .error (.cause n c d) => .ok ({ m with s := s.noted n }, acc, some (c, d, a))
def mvRead (b : MvBy) (rb : Bool) (m : Mv) (va n : Nat) : MvR (Mv × List Byte × Option (Nat × Nat × Nat)) :=
  mvReadRuns b rb (cutLines va n) m []

/-- Bytes after a stop: each stays or is copied (log 15). -/
def mixBytes (k : Nat) (old new : List Byte) : List Byte :=
  (old.zip new).zipIdx.map fun x => if Config.freeBit (k + x.2) then x.1.2 else x.1.1

/-- Writes bytes; everything before a failing line is written. -/
def mvWriteRuns (b : MvBy) (rb : Bool) : List (Nat × Nat) → Mv → List Byte → MvR Mv
  | [], m, _ => .ok m
  | (a, len) :: t, m, bs =>
    match mvXlate b m.s a true rb with
    | .error (.wait n) => .error (.wait n)
    | .error (.bad n c d) => .error (.stop { m with s := m.s.noted n } c d a)
    | .ok (s, pa) =>
      match target pa with
      | .mmio .. => .error (.stop { m with s := s } 6 1 a)
      | _ =>
        let (s, new) := if b.mix then match homeRead s b.die pa len with
            | .ok (s, old) => ({ s with fresh := s.fresh + len }, mixBytes s.fresh old (bs.take len))
            | .error _ => (s, bs.take len)
          else (s, bs.take len)
        match homeWrite s b.die pa new with
        | .ok (s, ts) => mvWriteRuns b rb t { m with s := s, mw := max m.mw ts, dst := m.dst ++ [(pa, len)] } (bs.drop len)
        | .error (.wait n) => .error (.wait n)
        | .error (.cause n c d) => .error (.stop { m with s := s.noted n } c d a)
def mvWrite (b : MvBy) (rb : Bool) (m : Mv) (va : Nat) (bs : List Byte) : MvR Mv := mvWriteRuns b rb (cutLines va bs.length) m bs

/-- A GV access made for a transfer, failing at an address. -/
def mvGv {α : Type} (m : Mv) (va : Nat) (g : GOp α) : MvR α :=
  match g with
  | .ok a => .ok a
  | .error (.wait n) => .error (.wait n)
  | .error (.bad n c d _ _) => .error (.stop { m with s := m.s.noted n } c d va)

/-! ## Elements -/

/-- A source element: its format and bits, its block scale code and the tensor scale. -/
structure SElem where
  (f : Fmt) (bits code : Nat) (sigma : Int)
  deriving DecidableEq, Repr
def SElem.val (e : SElem) : XV := (NumFmt.byE8m0 e.code (NumFmt.decode e.f e.bits)).scale e.sigma
/-- Conversion into an ordinary format (13 R339; 02 R56). -/
def SElem.to (e : SElem) (f : Fmt) (rm : RMode) (sat ftz : Bool) : Nat :=
  NumFmt.convertScaled e.f f rm sat ftz 0 e.code e.sigma e.bits

/-- Elements from bytes of an ordinary format. -/
def rawElems (f : Fmt) (bs : List Byte) : List SElem :=
  let w := NumFmt.width f / 8
  (chunks w (bs.length / w + 1) bs).map fun x => ⟨f, bytesToNat x, 127, 0⟩

/-- Stored position of a delivered byte under a layout conversion (05 Table 5.9). -/
def lcvAddr (lcv a : Nat) : Nat :=
  match lcv with
  | 1 => let u := a % 2048; let q := u / 2; a - u + 2 * (32 * (q % 32) + q / 32) + u % 2
  | 2 =>
    let u := a % 4096
    let i := 4 * (u / 256) + u % 16 / 4
    let j := 4 * (u / 16 % 16) + u % 4
    a - u + 64 * i + j
  | 3 => let u := a % 4096; a - u + 64 * (u % 64) + u / 64
  | _ => a
def lcvRuns (lcv va n : Nat) : List (Nat × Nat) :=
  if lcv = 0 then cutLines va n else (List.range n).map fun i => (lcvAddr lcv (va + i), 1)

/-- The record of a side for an element at an address; its failures stop the transfer there. -/
def mvRec (b : MvBy) (m : Mv) (h va : Nat) : MvR (Mv × RecRef) := do
  let (s, r) ← mvGv m va (engage m.s b.die b.ctx h)
  pure ({ m with s := s }, r)

/-- One element e of a record read under its granule's tag (03 R72), at nominal address `dbase + e * pitch`. DESIGN CHOICE
(log 61): a layout conversion of an MXFP4 record reorders its nominal elements. -/
def recElem (b : MvBy) (lcv : Nat) (r : RecRef) (x : GranView) (m : Mv) (e : Nat) : MvR (Mv × Except (Nat × Nat × Nat) SElem) := do
  let p := r.w.pitch
  let f := x.fmt r
  let nom := r.w.dbase + e * p
  let g := (nom - r.w.dbase) / 4096
  let base := granVa r x.sh g
  let (e', runs) : Nat × List (Nat × Nat) :=
    if p = 1 then
      let e' := lcvAddr lcv nom - r.w.dbase
      (e', [(base + elByte f p e', 1)])
    else if lcv = 0 then (e, [(base + elByte f p e, p)])
    else (e, (List.range p).map fun t => (base + (lcvAddr lcv (nom + t) - r.w.dbase) % 4096, 1))
  let (m, bs, err) ← mvReadRuns b x.sh (runs.flatMap fun y => cutLines y.1 y.2) m []
  match err with
  | some e => pure (m, .error e)
  | none =>
    let n := bytesToNat bs
    pure (m, .ok ⟨f, if f = .mxf4 then n / 16 ^ (e' % 2) % 16 else n, x.code r e', r.w.sigma x.slot⟩)
/-- Elements e, e + 1, … of a record; a failure answers those before it. -/
def recElems (b : MvBy) (lcv : Nat) (r : RecRef) : List Nat → Option (Nat × GranView) → Mv → List SElem →
    MvR (Mv × List SElem × Option (Nat × Nat × Nat))
  | [], _, m, acc => .ok (m, acc, none)
  | e :: t, view, m, acc =>
    let g := e / r.w.perGran
    let got : MvR (Mv × Except (Nat × Nat × Nat) GranView) :=
      match view with
      | some (i, x) => if i = g then .ok (m, .ok x) else look m g
      | none => look m g
    match got with
    | .error e => .error e
    | .ok (m, .error e) => .ok (m, acc, some e)
    | .ok (m, .ok x) =>
      match recElem b lcv r x m e with
      | .error e => .error e
      | .ok (m, .error e) => .ok (m, acc, some e)
      | .ok (m, .ok y) => recElems b lcv r t (some (g, x)) m (acc ++ [y])
where
  look (m : Mv) (g : Nat) : MvR (Mv × Except (Nat × Nat × Nat) GranView) :=
    match b.gv.view m.s r g with
    | .ok (s, x) => .ok ({ m with s := s }, .ok x)
    | .error (.wait n) => .error (.wait n)
    | .error (.bad n c d _ _) => .ok ({ m with s := m.s.noted n }, .error (c, d, r.w.dbase + 4096 * g))

/-! ## The store path (03 R71, R73, R76 to R79) -/

/-- Address of a granule of a record. -/
def granAddr (r : RecRef) (g : Nat) : Nat := r.w.dbase + 4096 * g
/-- Whether runs hold every byte from p up to e. -/
def coverTo (runs : List (Nat × Nat)) (e : Nat) : Nat → Nat → Bool
  | 0, p => decide (e ≤ p)
  | n + 1, p => decide (e ≤ p) || match runs.find? fun x => decide (x.1 ≤ p) && decide (p < x.1 + x.2) with
      | some x => coverTo runs e n (x.1 + x.2)
      | none => false
/-- Whether a transfer writes the n bytes from an address: by the run at hand, or with all its rows (03 R73; log 61). -/
def MvBy.covers (b : MvBy) (run : Nat × Nat) (a n : Nat) : Bool :=
  let l := run :: b.runs
  coverTo l (a + n) l.length a
/-- The statistics of a store go to the issuing core's buffer, whatever runs there by now (03 R76, R77; 13 R339). -/
def mvStats (b : MvBy) (m : Mv) (r : RecRef) (va : Nat) (xs : List XV) (els : List (Nat × Ev)) : MvR Mv := do
  if !r.w.auto || b.mix then pure m
  else
    let (s, pol) ← mvGv m va (b.gv.policy m.s r)
    let m := { m with s := s }
    match statStore (m.s.core b.core) b.ctx b.uid r (polOvlim pol) xs els with
    | .wait _ => .error .stats
    | .excess k => .error (.stop { m with s := m.s.setCore b.core k } 11 0 va)
    | .ok k => pure { m with s := m.s.setCore b.core k }

/-- How a converting store rounds. -/
structure MvRound where
  (rm : RMode) (sat : Bool)
  deriving DecidableEq, Repr

/-- A source element encoded into an ordinary format under tensor scale 2^sg, with its events (02 R56). -/
def SElem.enc (e : SElem) (f : Fmt) (rd : MvRound) (ftz : Bool) (sg : Int) : Nat × Ev :=
  match NumFmt.e8m0Exp e.code with
  | none => NumFmt.roundTo f rd.rm rd.sat ftz 0 (match NumFmt.decode e.f e.bits with | .nan s => .nan s | _ => .nan false)
  | some k =>
    let fl := cvtFlags e.f f (e.sigma - sg) rd.sat ftz
    NumFmt.convert e.f f rd.rm fl.1 fl.2 0 (k + e.sigma - sg) e.bits
/-- Elements of one write encoded for a record (03 R76): block formats by their blocks, others one by one. -/
def encodeElems (f : Fmt) (rd : MvRound) (ftz : Bool) (bj : Nat) (sg : Int) (brk : Nat → Bool) (es : List SElem) : Enc :=
  if f = .mxf4 ∨ f = .ps2 then encodeRun f rd.rm rd.sat ftz bj brk (fun _ => 0) (es.map fun e => e.val.scale (-sg))
  else ⟨es.map fun e => e.enc f rd ftz sg, [], []⟩

/-- Writes elements e0, e0 + 1, … of one granule part through the store path as one write (13 R339), encoded for a format and a
tensor scale; `brk` says which groups of eight begin a k-row. A granule that refuses it names its own address (03 R73,
R79). -/
def storePart (b : MvBy) (m : Mv) (h e0 va : Nat) (xs : List XV) (encode : Fmt → Int → (brk : Nat → Bool) → Enc) : MvR Mv := do
  let (m, r) ← mvRec b m h va
  let f := recFmt r.w.fmt
  let p := r.w.pitch
  let g := e0 / r.w.perGran
  let ga := granAddr r g
  let n := xs.length
  let cover := b.covers (r.w.dbase + e0 * p, n * p) ga (min r.w.perGran (r.w.count - g * r.w.perGran) * p)
  let enc := encode f (r.w.sigma r.w.live) fun i => r.w.kStart (e0 + 8 * i)
  let m0 := m
  if b.deny = some ga then pure m else
  -- R73 first, then the statistics with their excess check, of which a refusal leaves the statistics alone behind
  let (s, r1, sh) ← mvGv m ga (b.gv.readyWrite m.s r g cover)
  let r := r1
  let m ← (match mvStats b { m with s := s } r1 ga xs enc.els with
    | .error (.stop m' 11 0 a) =>
      .error (.stop { m0 with s := m0.s.modCore b.core fun k => { k with stats := (m'.s.core b.core).stats } } 11 0 a)
    | x => x : MvR Mv)
  let m ← if f = .mxf4 && (e0 % 2 = 1 || n % 2 = 1) then
      -- half a byte at either end keeps its other nibble
      let lo := granVa r sh g + elByte f p e0
      let cnt := (e0 % 2 + n + 1) / 2
      match mvRead b sh { m with src := [] } lo cnt with
      | .ok (m', old, none) =>
        let o := bytesToNat old
        let v := (enc.els.map Prod.fst).zipIdx.foldl (fun o x =>
          let sft := 16 ^ (e0 % 2 + x.2); o - o / sft % 16 * sft + x.1 % 16 * sft) o
        mvWrite b sh { m with s := m'.s } lo (natToBytes cnt v)
      | .ok (m', _, some (c, d, a)) => .error (.stop { m with s := m'.s } c d a)
      | .error e => .error e
    else mvWrite b sh m (granVa r sh g + elByte f p e0) (packBits (NumFmt.width f) (enc.els.map Prod.fst))
  let gw : Mv → Nat → List Byte → MvR Mv := fun m a bs => do
    let s ← mvGv m va (b.gv.wr m.s a bs)
    pure { m with s := s }
  let el := e0 % r.w.perGran
  let m ← if f = .mxf4 then gw m (scaleVa r sh g + el / 32) (enc.codes.map (BitVec.ofNat 8))
    else if f = .ps2 then do
      let m ← ((enc.codes.zip enc.starts).zipIdx.filter fun x => x.1.2).foldlM (init := m) fun m x =>
        gw m (scaleVa r sh g + el / 8 + x.2) [BitVec.ofNat 8 x.1.1]
      enc.starts.zipIdx.foldlM (init := m) fun m x => do
        let q := el / 8 + x.2
        let (s, o) ← mvGv m va (b.gv.rd m.s (mapVa r sh g + q / 8) 1)
        let o := bytesToNat o
        let o := o - o / 2 ^ (q % 8) % 2 * 2 ^ (q % 8) + (if x.1 then 2 ^ (q % 8) else 0)
        gw { m with s := s } (mapVa r sh g + q / 8) [BitVec.ofNat 8 o]
    else pure m
  let s ← mvGv m va (b.gv.addNorms m.s r e0 (encValues f enc))
  pure { m with s := stepWrite s b.ctx.asid r xs enc.els }

/-- Writes bytes without conversion into memory of a capability that bears a record: a bit write (03 R75), cut at
granules and refused by R73. -/
def bitPart (b : MvBy) (m : Mv) (h va : Nat) (bs : List Byte) : MvR Mv := do
  let (m, r) ← mvRec b m h va
  (recCuts r va bs.length).foldlM (init := m) fun m (a, len, g) => do
    let part := (bs.drop (a - va)).take len
    match g with
    | none => mvWrite b false m a part
    | some i => do
      let (m, r) ← mvRec b m h a
      if b.deny = some (granAddr r i) then return m
      let (s, r, sh) ← mvGv m (granAddr r i) (b.gv.readyWrite m.s r i (b.covers (a, len) (granAddr r i) (granBytes r i)))
      mvWrite b sh { m with s := s } (if sh then granVa r true i + (a - r.w.dbase) % 4096 else a) part

/-- Values of plane k written from element e0 on (15 R383). -/
def planePart (b : MvBy) (m : Mv) (r : RecRef) (k e0 : Nat) (vals : List Nat) : MvR Mv :=
  mvWrite b true m (planeVa r k e0) (vals.flatMap fun x => natToBytes (NumFmt.width r.w.tfmt / 8) x)
/-- The planes above k receive +0 for n elements (15 R383). -/
def zeroPlanes (b : MvBy) (m : Mv) (r : RecRef) (e0 n k : Nat) : MvR Mv :=
  (List.range (r.w.planes - k)).foldlM (init := m) fun m i => planePart b m r (k + i + 1) e0 (List.replicate n 0)
/-- The stored element that a layout conversion delivers as element e (05 R136). -/
def lcvElem (lcv : Nat) (r : RecRef) (e : Nat) : Nat := (lcvAddr lcv (r.w.dbase + e * r.w.pitch) - r.w.dbase) / r.w.pitch

/-- The bytes that a transfer both read and wrote are free values (13 R337; log 17). -/
def freeOverlap (m : Mv) : Mv :=
  let hit : List Nat := m.dst.flatMap fun (a, n) => (List.range n).filterMap fun i =>
    if m.src.any (fun x => decide (x.1 ≤ a + i) && decide (a + i < x.1 + x.2)) then some (a + i) else none
  { m with s := hit.foldl (fun s a => (wrByte s a (Config.freeByte s.fresh)).tickFresh) m.s }

end Sys2Proof.Machine
end

