-- ==== Sys2Proof/Machine/Copies.lean ====
section
/-!
DEFINITION. Copies, gathers, scatters, streams and frame fills (spec 13 R333 to R344; 04 R113; 05 R136, R137; 15 R383),
and the waits on their flags.
-/

namespace Sys2Proof.Machine

open Sys2Proof.NumFmt (XV)

/-! ## Copy descriptors (13 Table 13.5) -/

def CDesc.f (d : CDesc) (w : Fin 4) (hi lo : Nat) : Nat := (d.w.get w).toNat / 2 ^ lo % 2 ^ (hi - lo + 1)
def CDesc.ssp (d : CDesc) : Nat := d.f 0 63 61
def CDesc.lcv (d : CDesc) : Nat := d.f 0 60 59
def CDesc.saddr (d : CDesc) : Nat := d.f 0 56 0
def CDesc.dsp (d : CDesc) : Nat := d.f 1 63 61
def CDesc.daddr (d : CDesc) : Nat := d.f 1 56 0
def CDesc.nrow (d : CDesc) : Nat := d.f 2 63 40
def CDesc.rlen (d : CDesc) : Nat := d.f 2 39 0
def CDesc.sstr (d : CDesc) : Int := NumFmt.toSigned 24 (d.f 3 63 40)
def CDesc.dstr (d : CDesc) : Int := NumFmt.toSigned 24 (d.f 3 39 16)
def CDesc.ev (d : CDesc) : Nat := d.f 3 15 0
def bufOf : Nat → Buf
  | 1 => .abuf | 2 => .wbuf | _ => .cbuf

/-- One side of a transfer. -/
structure CpSide where
  (sp addr : Nat) (str : Int) (fmt : Option CFmt) (cap : Cap) (indexed : Bool)
  deriving DecidableEq, Repr
def CpSide.w (x : CpSide) : Nat := match x.fmt with | some (.fmt f) => NumFmt.width f / 8 | _ => 1
def CpSide.via (x : CpSide) : Bool := x.fmt == some .viaRecord
/-- Byte offset of row i: from the capability's BASE, or from row 0 of the buffer. -/
def CpSide.off (x : CpSide) (i : Nat) : Int := (if x.sp = 0 then (x.addr : Int) else 512 * (x.addr % 8192)) + i * x.str

def srcSide (d : CDesc) (cv : Option CCvt) (indexed : Bool) : CpSide := ⟨d.ssp, d.saddr, d.sstr, cv.map CCvt.src, d.src, indexed⟩
def dstSide (d : CDesc) (cv : Option CCvt) (indexed : Bool) : CpSide := ⟨d.dsp, d.daddr, d.dstr, cv.map CCvt.dst, d.dst, indexed⟩

/-! ## Checks at issue (13 R335, R336, R339, R341; Table 13.7) -/

/-- Reason 1 on a buffer side. -/
def bufErr (x : CpSide) (nrow rlen : Nat) : Bool :=
  if x.sp = 0 ∨ 4 ≤ x.sp ∨ x.via then false
  else
    let n := rlen * x.w
    n % 512 != 0 || x.str % 512 != 0 ||
      (!x.indexed && (let a := x.off 0 / 512; let z := x.off (nrow - 1) / 512
        decide (min a z < 0) || decide ((bufRows (bufOf x.sp) : Int) < max a z + (n / 512 : Nat))))
/-- Unused address bits of a side that is no memory. -/
def addrErr (x : CpSide) : Bool := (x.sp != 0 && decide (8192 ≤ x.addr)) || (x.sp == 4 && decide (16 ≤ x.addr))

/-- Whether memory of a virtual range lies outside device memory, as its pages translate now; pages without a translation
count for nothing. A table's home may let it wait. -/
def beyondDev (s : State) (d : DieId) (ctx : Ctx) : Nat → Nat → Nat → Except HNote Bool
  | 0, _, _ => .ok false
  | fuel + 1, va, e =>
    let next : Nat → Except HNote Bool := fun bits => beyondDev s d ctx fuel ((va / 2 ^ bits + 1) * 2 ^ bits) e
    if e ≤ va then .ok false
    else match walk s d ctx.asid.toNat ctx.ptroot va with
      | .error (.wait n) => .error n
      | .error (.bad _ _ lvl) => next (12 + 9 * min lvl 4)
      | .ok (_, x) => if inDev (ptePa x.pte + va % 2 ^ x.bits) then next x.bits else .ok true
/-- Bytes of a source row: of elements through a record, its pitch times their number; none where the handle does not
resolve. -/
def srcRowLen (s : State) (d : CDesc) (x : CpSide) : Except HNote (Option Nat) :=
  if !x.via then .ok (some (d.rlen * x.w))
  else match recAt s s.gvOf.d s.gvOf.ctx x.cap.handle with
    | .ok (_, r) => .ok (some (d.rlen * r.w.pitch))
    | .error (.wait n) => .error n
    | .error _ => .ok none
/-- Reason 6 (05 R137): rows that are no whole tiles, or a source capability that reaches beyond device memory. DESIGN CHOICE
(log 61): the length is each row's, and the stride is one of whole tiles too. -/
def lcvErr (s : State) (d : CDesc) (x : CpSide) : Except HNote Bool :=
  let tile := if d.lcv = 1 then 2048 else 4096
  let va := (d.src.base : Int) + x.addr
  if d.lcv = 0 then .ok false
  else if va % tile != 0 || ((decide (1 < d.nrow) || x.indexed) && x.str % tile != 0) then .ok true
  else do
    match ← srcRowLen s d x with
    | some n =>
      if n % tile != 0 then pure true
      else if !d.src.tag then pure false
      else beyondDev s (coreDie s.cur) s.k.ctx (d.src.len / 4096 + 2) d.src.base (d.src.base + d.src.len)
    | none => pure false

/-- The lowest class 7 reason a descriptor raises, the flag apart. -/
def descReason (s : State) (d : CDesc) (cv : Option CCvt) (x y : CpSide) (stream : Bool) : Except HNote (Option Nat) :=
  let st := (if d.ssp = 4 then 1 else 0) + (if d.dsp = 4 then 1 else 0)
  if 5 ≤ d.ssp ∨ 5 ≤ d.dsp ∨ (d.lcv ≠ 0 ∧ d.ssp ≠ 0) then .ok (some 0)
  else if bufErr x d.nrow d.rlen || bufErr y d.nrow d.rlen then .ok (some 1)
  else if d.ssp = 1 ∨ d.ssp = 2 ∨ d.dsp = 3 then .ok (some 2)
  else if d.nrow = 0 ∨ d.rlen = 0 ∨ d.f 0 58 57 ≠ 0 ∨ d.f 1 60 57 ≠ 0 ∨ addrErr x ∨ addrErr y then .ok (some 3)
  else if (x.via && x.sp != 0) || (y.via && y.sp != 0) || (cv.isSome && st != 0) then .ok (some 5)
  else do
    if ← lcvErr s d x then pure (some 6)
    else pure (if (if stream then st != 1 || d.nrow * d.rlen % 512 != 0 else st != 0) then some 7 else none)

/-- Engine of the running copy slot and its number on the die (13 R333). -/
def copyUnit (s : State) : EngineId := engineFor s.cur (s.slotNo 6 - 6)
def raise7 {α : Type} (s : State) (reason : Nat) : Op α := raise s 7 ((copyUnit s).val % 6) 0 (BitVec.ofNat 64 reason)

/-- What a row through a record must start on, in bytes, and span, in elements (13 R339): elements, and whole blocks of an
MXFP4 or groups of a PS2 destination. -/
def sideUnit (r : RecRef) (dst : Bool) : Int × Nat :=
  let blk := if !dst then 1 else if r.w.fmt = 2 then 32 else if r.w.fmt = 3 then 8 else 1
  ((r.w.pitch * blk : Nat), blk)
/-- Checks one memory side (01 R31; 13 R339): its rows, and its record where it engages one. Answers the record. -/
def sideCheck (s : State) (x : CpSide) (need : CapNeed) (dst : Bool) (nrow rlen : Nat) : Op (Option RecRef) :=
  if x.sp ≠ 0 then .ok none
  else
    let v := s.gvOf
    let rows : List Nat := if x.indexed then [] else if nrow ≤ 1 then [0] else [0, nrow - 1]
    if x.via then do
      let e3 := if x.indexed then capErr3 x.cap need 0 else rows.findSome? fun i => capErr3 x.cap need (x.off i)
      match e3 with
      | some d => raise s 4 d
      | none =>
        if x.cap.handle = 0 then raise s 4 10
        else do
          let (_, r) ← gvOp s x.cap.handle 0 (engage s v.d v.ctx x.cap.handle)
          let n := rlen * r.w.pitch
          match rows.findSome? fun i => capErr4 x.cap (x.off i) n with
          | some d => raise s 4 d
          | none =>
            let lo : Nat → Int := fun i => (x.cap.base : Int) + x.off i - r.w.dbase
            if rows.any fun i => decide (lo i < 0) || decide ((r.w.count * r.w.pitch : Int) < lo i + n) then raise s 4 9
            else
              let u := sideUnit r dst
              -- every row stands at row 0 plus a multiple of the stride; an index names its row when it is reached
              let off := if x.indexed then x.str % u.1 == 0 && lo 0 % u.1 != 0 else lo 0 % u.1 != 0 || (decide (1 < nrow) && x.str % u.1 != 0)
              if off || rlen % u.2 != 0 then raise7 s 5
              else pure (some r)
    else
      match rows.findSome? fun i => capErr x.cap need (x.off i) (rlen * x.w) with
      | some d => raise s 4 d
      | none =>
        if dst && x.cap.handle != 0 && !x.indexed then do
          let (_, r) ← gvOp s x.cap.handle 0 (engage s v.d v.ctx x.cap.handle)
          pure (some r)
        else pure none

def copyFlag (s : State) (f : Option Flag) : Op Unit :=
  match f with
  | some f => if claimable (getFlag s.k.t f) then .ok () else raise7 s 4
  | none => .ok ()
def claimFlag (s : State) (f : Option Flag) (hold : BitVec 2) (eng : BitVec 3) (ev : Option (BitVec 16)) : State :=
  match f with
  | some f => s.modT fun t => putFlag t f (claimed hold eng ev)
  | none => s

/-- Queues an operation on the slot's engine with all it read at issue. -/
def queueCopy (s : State) (kind : CopyKind) (d x : CDesc) (cv : Option CCvt) (f : Option Flag) (ev : Option (BitVec 16)) : State :=
  let e := copyUnit s
  let o : CopyOp :=
    { kind := kind, core := s.cur, uid := taskUid s.k, desc := d, xdesc := x, cv := cv, flag := f, ev := ev, ctx := s.k.ctx
      priv := privMode s.k, ftz := s.ftz, bjump := bjumpOf s.isys, pos := 0, va := 0, paused := false, since := s.now }
  (claimFlag s f 1 (BitVec.ofNat 3 (e.val % 6)) ev).modEngine e fun l => l ++ [o]

def copyEv (s : State) (d : CDesc) (on : Bool) : Op (Option (BitVec 16)) :=
  if on then do let n ← s.evName (BitVec.ofNat 64 d.ev); pure (some (BitVec.ofNat 16 n)) else .ok none

/-- CPY, GATHER and SCATTER (13 R336, R343), in the order of R336. -/
def copySlot (s : State) (kind : CopyKind) (di : BitVec 4) (xi : Option (BitVec 4)) (f : Option Flag) (ev : Bool) (cv : Option CCvt) : Op State :=
  if 32 ≤ engineLoad (s.engine (copyUnit s)) then freeze s
  else
    let d := s.iregs.cd.get di.toFin
    let xd := match xi with | some i => s.iregs.cd.get i.toFin | none => nullDesc
    let x := srcSide d cv (kind == .gather)
    let y := dstSide d cv (kind == .scatter)
    match (if xi.isSome && xd.ssp != 0 then .ok (some 0)
      else (descReason s d cv x y false).map fun r => match r with
        | some r => some r
        | none => if xi.isSome && (xd.f 0 60 57 != 0) then some 3 else none) with
    | .error n => freeze (s.noted n)
    | .ok (some r) => raise7 s r
    | .ok none => do
      let e ← copyEv s d ev
      copyFlag s f
      let rs ← sideCheck s x .cps false d.nrow d.rlen
      let rd ← sideCheck s y .cpd true d.nrow d.rlen
      match (if xi.isSome then capErr xd.src .cps xd.saddr (4 * d.nrow) else none) with
      | some det => raise s 4 det
      | none =>
        let planes : Option RecRef → Nat := fun r => match r with | some r => r.w.planes | none => 0
        if (match cv with | some c => c.tg | none => false) && (planes rs = 0 || planes rd = 0) then raise s 13 2
        else pure (queueCopy s kind d xd cv f e)

def execCpy (o : CCpy) (s : State) : Res1 := finish (copySlot s .cpy o.d none o.f o.ev o.cv)
def execGather (o : CIdx) (s : State) : Res1 := finish (copySlot s .gather o.d (some o.x) o.f o.ev o.cv)
def execScatter (o : CIdx) (s : State) : Res1 := finish (copySlot s .scatter o.d (some o.x) o.f o.ev o.cv)

/-- CPYS (13 R341). -/
def execCpys (o : CCpys) (s : State) : Res1 :=
  finish (
    if 32 ≤ engineLoad (s.engine (copyUnit s)) then freeze s
    else
      let d := s.iregs.cd.get o.d.toFin
      let x := srcSide d none false
      let y := dstSide d none false
      match descReason s d none x y true with
      | .error n => freeze (s.noted n)
      | .ok (some r) => raise7 s r
      | .ok none =>
        let fill := d.dsp = 4
        let q : BitVec 4 := BitVec.ofNat 4 (if fill then d.daddr else d.saddr)
        let st := getStream s.k.t q
        if st.bind != .unbound || !st.rows.isEmpty then raise s 8 q.toNat 0 4
        else do
          let e ← copyEv s d o.ev
          copyFlag s o.f
          let _ ← if fill then sideCheck s x .cps false d.nrow d.rlen else sideCheck s y .cpd true d.nrow d.rlen
          let s := queueCopy s (if fill then .fill q else .drain q) d nullDesc none o.f e
          pure (s.modT fun t => putStream t q ⟨if fill then .fill else .drain, [], d.nrow * d.rlen / 512, false, false⟩))

/-! ## Moving rows -/

def CopyOp.by_ (o : CopyOp) (e : EngineId) : MvBy := { eng := some e, die := engineDie e, core := o.core, uid := o.uid, ctx := o.ctx, priv := o.priv, ftz := o.ftz, bj := o.bjump }
def CopyOp.src (o : CopyOp) : CpSide := srcSide o.desc o.cv (o.kind == .gather)
def CopyOp.dst (o : CopyOp) : CpSide := dstSide o.desc o.cv (o.kind == .scatter)

/-- The number of a buffer in EccSite and in a descriptor's space field. -/
def bufNo : Buf → Nat
  | .abuf => 1 | .wbuf => 2 | .cbuf => 3
/-- The first 4 KiB unit of a buffer run whose check fails (18 R437, R438; log 50). -/
def bufBad (s : State) (b : MvBy) (buf : Buf) (off n : Nat) : Option Nat :=
  ((List.range ((off % 4096 + n + 4095) / 4096)).map (off / 4096 + ·)).find? fun u =>
    b.bad == some u || Sparse.get false s.crc (bufUnit b.core (bufNo buf) (4096 * u))
/-- The failure of a unit at an offset, reported by the engine (18 R438). -/
def unitFails (b : MvBy) (s : State) (key : Nat) : State :=
  if b.mix || b.bad.isSome then s
  else integReport { s with crc := Sparse.set false s.crc key false } b.die 1 (match b.eng with | some e => e.val | none => b.die.val) 0
/-- Bytes of a buffer from a byte offset, up to a unit whose check fails. A busy tile of CBUF is waited for; a resident one is
written back (04 R115, R116). -/
def bufRead (b : MvBy) (m : Mv) (buf : Buf) (off n : Nat) : MvR (Mv × List Byte × Option (Nat × Nat × Nat)) :=
  let rows := (List.range ((off % 512 + n + 511) / 512)).map (off / 512 + ·)
  let k? : Option Core := if buf = .cbuf then rows.foldlM (init := m.s.core b.core) fun k r => tileAccess k (r / 128) else some (m.s.core b.core)
  match k? with
  | none => .error (.wait .none)
  | some k =>
    let bytes : Nat → List Byte := fun n => (List.range n).map fun i =>
      BitVec.ofNat 8 (rowByte (bufRow k buf ((off + i) / 512)) ((off + i) % 512))
    let s := m.s.setCore b.core k
    match bufBad s b buf off n with
    | none => .ok ({ m with s := s }, bytes n, none)
    | some u => .ok ({ m with s := unitFails b s (bufUnit b.core (bufNo buf) (4096 * u)) }, bytes (4096 * u - off), some (20, 1, 4096 * u))
/-- Writes bytes into a buffer, row by row, each whole (04 R108). -/
def bufWrite (b : MvBy) (m : Mv) (buf : Buf) (off : Nat) (bs : List Byte) : Mv :=
  let s := if b.mix then { m.s with fresh := m.s.fresh + bs.length } else m.s
  { m with s := s.modCore b.core fun k =>
      (cutAt 512 (bs.length / 512 + 2) off bs.length).foldl (fun k x =>
        let old := bufRow k buf (x.1 / 512)
        putRow k buf (x.1 / 512) (rowOfBytes fun j =>
          let i := 512 * (x.1 / 512) + j
          if x.1 ≤ i ∧ i < x.1 + x.2 ∧ (!b.mix || Config.freeBit (m.s.fresh + (i - off))) then ((bs.drop (i - off)).headD 0).toNat
          else rowByte old j)) k }

/-- Plain bytes of a memory side: through a record with a shadow copy, those of each granule's committed copy. -/
def plainRead (b : MvBy) (m : Mv) (cap : Cap) (lcv va n : Nat) : MvR (Mv × List Byte × Option (Nat × Nat × Nat)) :=
  let plain := mvReadRuns b false (lcvRuns lcv va n) m []
  if cap.handle = 0 then plain
  else
    match recAt m.s b.die b.ctx cap.handle with
    | .error (.wait n) => .error (.wait n)
    | .error (.bad n 20 d _ _) => .ok ({ m with s := m.s.noted n }, [], some (20, d, va))
    | .error _ => plain
    | .ok (s, r) =>
      if !r.w.shadow then plain
      else if r.w.malformed then .ok (m, [], some (11, 3, va))
      else
        (lcvRuns lcv va n).foldlM (init := ({ m with s := s }, ([] : List Byte), (none : Option (Nat × Nat × Nat)))) fun x run =>
          match x with
          | (m, acc, some e) => .ok (m, acc, some e)
          | (m, acc, none) =>
            match granOf r run.1 with
            | none => (mvReadRuns b false [run] m []).map fun y => (y.1, acc ++ y.2.1, y.2.2)
            | some g =>
              match b.gv.committed m.s r g with
              | .error (.wait n) => .error (.wait n)
              | .error (.bad n c d _ _) => .ok ({ m with s := m.s.noted n }, acc, some (c, d, run.1))
              | .ok (s, sh, _) =>
                let u := run.1 / 4096
                let a := if sh then granVa r true g + (run.1 - r.w.dbase) % 4096 else run.1
                if b.bad = some u then .ok ({ m with s := s }, acc, some (20, 1, 4096 * u))
                else (mvReadRuns b sh [(a, run.2)] { m with s := s } []).map fun y => (y.1, acc ++ y.2.1, y.2.2.map fun z => (z.1, z.2.1, if z.1 = 20 ∧ z.2.1 = 1 then 4096 * u else run.1))

/-- Elements j to j + k - 1 of a source row. -/
def srcElems (b : MvBy) (o : CopyOp) (m : Mv) (off : Int) (j k : Nat) : MvR (Mv × List SElem × Option (Nat × Nat × Nat)) :=
  let x := o.src
  let va := ((x.cap.base : Int) + off).toNat
  match x.fmt with
  | some .viaRecord =>
    match mvRec b m x.cap.handle va with
    | .error e => .error e
    | .ok (m, r) => recElems b o.desc.lcv r ((List.range k).map ((va - r.w.dbase) / r.w.pitch + j + ·)) none m []
  | some (.fmt f) =>
    if x.sp = 0 then (plainRead b m x.cap o.desc.lcv (va + j * x.w) (k * x.w)).map fun y => (y.1, rawElems f (y.2.1.take (y.2.1.length / x.w * x.w)), y.2.2)
    else (bufRead b m (bufOf x.sp) (off.toNat + j * x.w) (k * x.w)).map fun y =>
      (y.1, rawElems f (y.2.1.take (y.2.1.length / x.w * x.w)), y.2.2)
  | none => .ok (m, [], none)
def srcBytes (b : MvBy) (o : CopyOp) (m : Mv) (off : Int) (j n : Nat) : MvR (Mv × List Byte × Option (Nat × Nat × Nat)) :=
  let x := o.src
  if x.sp = 0 then plainRead b m x.cap o.desc.lcv (((x.cap.base : Int) + off).toNat + j) n
  else bufRead b m (bufOf x.sp) (off.toNat + j) n
/-- Unconverted bytes into a destination row. -/
def dstBytes (b : MvBy) (o : CopyOp) (m : Mv) (off : Int) (j : Nat) (bs : List Byte) : MvR Mv :=
  let y := o.dst
  if y.sp ≠ 0 then .ok (bufWrite b m (bufOf y.sp) (off.toNat + j) bs)
  else
    let va := ((y.cap.base : Int) + off).toNat + j
    if y.cap.handle = 0 then mvWrite b false m va bs else bitPart b m y.cap.handle va bs

/-- Parts of a row: by the destination's pages where it is memory, so that a granule's part is one write. -/
def rowParts (mem : Bool) (w : Nat) : Nat → Nat → Nat → Nat → List (Nat × Nat)
  | 0, _, _, _ => []
  | fuel + 1, a, j, n =>
    if n = 0 then []
    else
      let k := if mem then min n ((4096 - a % 4096 + w - 1) / w) else n
      (j, k) :: rowParts mem w fuel (a + k * w) (j + k) (n - k)

/-- One part: what was read before a failure is written, then the transfer stops (13 R338). -/
def movePart (b : MvBy) (o : CopyOp) (soff doff : Int) (m : Mv) (j k : Nat) : MvR Mv := do
  match o.cv with
  | none =>
    let (m, bs, err) ← srcBytes b o m soff j k
    let m ← if bs.isEmpty then pure m else dstBytes b o m doff j bs
    ends m err
  | some cv =>
    let (m, es, err) ← srcElems b o m soff j k
    let y := o.dst
    let m ← if es.isEmpty then pure m else match cv.dst with
      | .viaRecord => do
        let va := ((y.cap.base : Int) + doff).toNat
        let (m, r) ← mvRec b m y.cap.handle va
        storePart b m y.cap.handle ((va - r.w.dbase) / r.w.pitch + j) (va + j * r.w.pitch) (es.map SElem.val) fun f sg brk =>
          encodeElems f ⟨cv.rm, cv.sat⟩ b.ftz b.bj sg brk es
      | .fmt f => dstBytes b o m doff (j * y.w) (es.flatMap fun e => natToBytes (NumFmt.width f / 8) (e.to f cv.rm cv.sat b.ftz))
    ends m err
where
  ends (m : Mv) (err : Option (Nat × Nat × Nat)) : MvR Mv :=
    match err with
    | some (c, d, a) => .error (.stop m c d a)
    | none => .ok m

/-- The planes of a converted row, after its primal bytes (15 R383). -/
def rowPlanes (b : MvBy) (o : CopyOp) (cv : CCvt) (soff doff : Int) (m : Mv) : MvR Mv := do
  let x := o.src
  let y := o.dst
  let n := o.desc.rlen
  let va := ((y.cap.base : Int) + doff).toNat
  let (m, r) ← mvRec b m y.cap.handle va
  if r.w.planes = 0 then pure m
  else
    let e0 := (va - r.w.dbase) / r.w.pitch
    if !cv.tg then zeroPlanes b m r e0 n 0
    else do
      let sva := ((x.cap.base : Int) + soff).toNat
      let (m, rs) ← mvRec b m x.cap.handle sva
      let tw := NumFmt.width rs.w.tfmt / 8
      let k := min rs.w.planes r.w.planes
      -- what a plane read before it fails is written (13 R338)
      let m ← (List.range k).foldlM (init := m) fun m i => do
        let runs := (List.range n).flatMap fun j =>
          cutLines (planeVa rs (i + 1) (lcvElem o.desc.lcv rs ((sva - rs.w.dbase) / rs.w.pitch + j))) tw
        let (m, bs, err) ← mvReadRuns b true runs m []
        let m ← planePart b m r (i + 1) e0 ((chunks tw (bs.length / tw) bs).map fun x => tanCvt rs.w.tfmt r.w.tfmt b.ftz (bytesToNat x))
        match err with
        | some (c, d, a) => .error (.stop m c d a)
        | none => pure m
      zeroPlanes b m r e0 n k

/-- The row numbers of step i on both sides; an index is read, and the row it names checked, when it is reached (13
R343). -/
def rowIndex (b : MvBy) (o : CopyOp) (m : Mv) (i : Nat) : MvR (Mv × Nat × Nat) :=
  match o.kind with
  | .gather => idx fun m k => (m, k, i)
  | .scatter => idx fun m k => (m, i, k)
  | _ => .ok (m, i, i)
where
  idx (mk : Mv → Nat → Mv × Nat × Nat) : MvR (Mv × Nat × Nat) := do
    let (m, bs, err) ← plainRead b m o.xdesc.src 0 (o.xdesc.src.base + o.xdesc.saddr + 4 * i) 4
    match err with
    | some (c, d, a) => .error (.stop m c d a)
    | none =>
      let k := bytesToNat bs
      let x := if o.kind == .gather then o.src else o.dst
      let n := o.desc.rlen
      let stop7 : Nat → MvR (Mv × Nat × Nat) := fun a => .error (.stop m 7 ((match b.eng with | some e => e.val | none => 0) % 6) a)
      if x.sp ≠ 0 then
        let row := x.off k / 512
        if row < 0 ∨ (bufRows (bufOf x.sp) : Int) < row + (n * x.w / 512 : Nat) then stop7 0
        else pure (mk m k)
      else do
        let va := ((x.cap.base : Int) + x.off k)
        let stop : Nat → MvR (Mv × Nat × Nat) := fun d => .error (.stop m 4 d (va % ((2 ^ 57 : Nat) : Int)).toNat)
        let w ← if x.via then (mvRec b m x.cap.handle 0).map fun y => y.2.w.pitch else pure x.w
        match capErr x.cap (if o.kind == .gather then .cps else .cpd) (x.off k) (n * w) with
        | some d => stop d
        | none =>
          if !x.via then pure (mk m k)
          else do
            let (m, r) ← mvRec b m x.cap.handle 0
            if va < r.w.dbase ∨ (r.w.dbase + r.w.count * r.w.pitch : Int) < va + (n * w : Nat) then stop 9
            else if (va - r.w.dbase) % (sideUnit r (o.kind == .scatter)).1 != 0 then stop7 va.toNat
            else pure (mk m k)

/-- The nominal runs that the rows of an operation write in memory, w bytes an element; the rows of a SCATTER are those its
indices name now (03 R73). -/
def dstRuns (b : MvBy) (o : CopyOp) (m : Mv) (w : Nat) : List (Nat × Nat) :=
  if o.dst.sp ≠ 0 then []
  else (List.range o.desc.nrow).filterMap fun i =>
    (match rowIndex b o m i with | .ok (_, _, di) => some di | .error _ => none).map fun di =>
      (((o.dst.cap.base : Int) + o.dst.off di).toNat, o.desc.rlen * w)
/-- Row i. After a stop each part is tried on its own (log 15). -/
def moveRow (b : MvBy) (o : CopyOp) (m : Mv) (i : Nat) : MvR Mv := do
  let (m, si, di) ← rowIndex b o m i
  let soff := o.src.off si
  let doff := o.dst.off di
  let mem := o.dst.sp = 0
  let n := o.desc.rlen
  let w ← if o.dst.via then (mvRec b m o.dst.cap.handle 0).map fun y => y.2.w.pitch else pure (if o.cv.isSome then o.dst.w else 1)
  let b := { b with runs := dstRuns b o m w }
  let m ← (rowParts mem w (n * w / 4096 + 2) ((o.dst.cap.base : Int) + doff).toNat 0 n).foldlM (init := m) fun m x =>
    match movePart b o soff doff m x.1 x.2 with
    | .error (.stop m' c d a) => if b.mix then .ok m' else .error (.stop m' c d a)
    | r => r
  match o.cv with
  | some cv => if o.dst.via then rowPlanes b o cv soff doff m else pure m
  | none => pure m

/-- Rows after a stop. -/
def mixRows (b : MvBy) (o : CopyOp) : List Nat → Mv → Mv
  | [], m => m
  | i :: t, m => mixRows b o t (match moveRow { b with mix := true } o m i with
    | .ok m => m
    | .error (.stop m _ _ _) => m
    | .error _ => m)
/-- Why an operation of an engine has to be tried again: a home or a tile waits, or the issuing core's statistics buffer has no
room (03 R77). -/
inductive MvWait where
  | home (n : HNote)
  | stats
  deriving DecidableEq, Repr
/-- The machine while an operation waits. -/
def State.mvWaits (s : State) (c : CoreId) : MvWait → State
  | .home n => s.noted n
  | .stats => (s.modCore c evictOldest).postCore c .statsFlush
/-- How a transfer ends: whole, or with a cause and an address. -/
abbrev MvDone := Mv × Option (Nat × Nat × Nat)
def mvEnds (r : MvR Mv) : Except MvWait MvDone :=
  match r with
  | .ok m => .ok (m, none)
  | .error (.stop m c d a) => .ok (m, some (c, d, a))
  | .error (.wait n) => .error (.home n)
  | .error .stats => .error .stats
/-- Rows in ascending order, up to the first failure, whose granule stays unwritten where it refused the write (13 R337,
R338). -/
def moveRows (b : MvBy) (o : CopyOp) : List Nat → Mv → Except MvWait MvDone
  | [], m => .ok (m, none)
  | i :: t, m =>
    match mvEnds (moveRow b o m i) with
    | .ok (m, none) => moveRows b o t m
    | .ok (m, some e) => .ok (mixRows { b with deny := if e.1 = 11 then some e.2.2 else none } o (i :: t) m, some e)
    | .error w => .error w

/-- The integrity registers of a die as another state has them, and the checks still to fail. -/
def keepReports (s from_ : State) (d : DieId) : State :=
  let y := from_.die d
  { s with crc := from_.crc }.modDie d fun x => { x with ue := y.ue, log := y.log, logHead := y.logHead, intstat := y.intstat }
/-- The unit of the source whose check fails among what a transfer has still to read, and the state that reports it: of that
unit nothing is written (18 R438). -/
def badUnit (r : Except MvWait MvDone) : Option (Nat × State) :=
  match r with
  | .ok (m, some (20, 1, a)) => some (a / 4096, m.s)
  | _ => none
/-- A transfer that goes up to a unit whose check fails; the report is made when it stops there. -/
def upToUnit (b : MvBy) (bad : Option (Nat × State)) (run : MvBy → Except MvWait MvDone) : Except MvWait MvDone :=
  match bad with
  | none => run b
  | some (u, s') => match run { b with bad := some u } with
    | .ok (m, some e) => .ok (if e.1 = 20 then { m with s := keepReports m.s s' b.die } else m, some e)
    | r => r

/-- The next row of a copy; a failure ends it, with the later rows left as a stop leaves them (13 R338). -/
def moveNext (b : MvBy) (o : CopyOp) (s : State) : Except MvWait MvDone :=
  let rows := (List.range o.desc.nrow).drop o.pos
  let m : Mv := { Mv.start s with src := o.seen, dst := o.put }
  upToUnit b (badUnit (moveRows b o rows m)) fun b =>
    match rows with
    | [] => .ok (m, none)
    | i :: t => match mvEnds (moveRow b o m i) with
      | .ok (m, some e) => .ok (mixRows { b with deny := if e.1 = 11 then some e.2.2 else none } o (i :: t) m, some e)
      | r => r

/-! ## Completion -/

def getOp (s : State) (e i : Nat) : Option (EngineId × CopyOp) :=
  if h : e < 24 then ((s.engine ⟨e, h⟩)[i]?).map fun o => (⟨e, h⟩, o) else none
def dropOp (s : State) (e : EngineId) (o : CopyOp) : State := s.modEngine e fun l => l.erase o
def setOp (s : State) (e : EngineId) (o o' : CopyOp) : State :=
  s.modEngine e fun l => match l.idxOf? o with | some i => l.set i o' | none => l

/-- The flag reads done or error, then the event is signalled, and the operation leaves its engine (13 R338). While the
event's home waits the operation keeps the state it had, with the note. -/
def endCopy (s0 s : State) (e : EngineId) (o : CopyOp) (mw : Nat) (err : Option (Nat × Nat × Nat)) : State :=
  let s := match err with
    | none => flagDone s o.uid o.flag mw
    | some (c, d, a) => flagError s o.uid o.flag c d a mw
  match opSignal? s (engineDie e) o.ctx o.uid o.ev mw with
  | .ok s => dropOp s e o
  | .error n => s0.noted n

/-- COPY_COMPLETE (13 R337, R338): operation `item` of engine `unit` moves its next row, and is complete with its last
(log 15). -/
def execCopyComplete (s : State) : Res1 :=
  match getOp s s.unit s.item with
  | none => .next s
  | some (e, o) =>
    match o.kind with
    | .cpy | .gather | .scatter =>
      .next (match moveNext (o.by_ e) o s with
        | .error w => s.mvWaits o.core w
        | .ok (m, err) =>
          let mw := max o.mw m.mwts
          if err.isNone ∧ o.pos + 1 < o.desc.nrow then
            setOp (freeOverlap m).s e o { o with pos := o.pos + 1, mw := mw, seen := m.src, put := m.dst }
          else endCopy s (freeOverlap m).s e o mw err)
    | _ => .next s

/-! ## Streams (13 R340 to R342) -/

/-- Runs of `n` bytes from position `pos` of a shape: row, offset, length. -/
def shapeRuns (rlen : Nat) : Nat → Nat → Nat → List (Nat × Nat × Nat)
  | 0, _, _ => []
  | fuel + 1, pos, n =>
    if n = 0 then []
    else
      let len := min n (rlen - pos % rlen)
      (pos / rlen, pos % rlen, len) :: shapeRuns rlen fuel (pos + len) (n - len)

/-- The next k bytes of a fill. -/
def fillRun (b : MvBy) (o : CopyOp) (k : Nat) (m : Mv) : MvR (Mv × List Byte) :=
  (shapeRuns o.desc.rlen (k + 1) o.pos k).foldlM (init := (m, ([] : List Byte))) fun (m, acc) (r, j, n) => do
    let (m, bs, err) ← srcBytes b o m (o.src.off r) j n
    match err with
    | some (c, d, a) => .error (.stop m c d a)
    | none => pure (m, acc ++ bs)
/-- The next row of a fill. Of a unit of the source whose check fails nothing is delivered (18 R438). -/
def fillBytes (b : MvBy) (o : CopyOp) (m : Mv) : MvR (Mv × List Byte) :=
  match badUnit (mvEnds ((fillRun b o (o.desc.nrow * o.desc.rlen - o.pos) m).map Prod.fst)) with
  | none => fillRun b o 512 m
  | some (u, s') => match fillRun { b with bad := some u } o 512 m with
    | .error (.stop m c d a) => .error (.stop (if c = 20 then { m with s := keepReports m.s s' b.die } else m) c d a)
    | r => r
def drainBytes (b : MvBy) (o : CopyOp) (m : Mv) (bs : List Byte) : MvR Mv :=
  let b := { b with runs := dstRuns b o m 1 }
  ((shapeRuns o.desc.rlen 513 o.pos 512).foldlM (init := (m, bs)) fun (x : Mv × List Byte) (y : Nat × Nat × Nat) => do
    let m ← dstBytes b o x.1 (o.dst.off y.1) y.2.1 (x.2.take y.2.2)
    pure (m, x.2.drop y.2.2)).map Prod.fst

/-- A row of a drain, whose unit of the stream may fail its check (18 R437, R438). -/
def drainRow (b : MvBy) (o : CopyOp) (q : BitVec 4) (m : Mv) (bs : List Byte) : MvR Mv :=
  let key := streamUnit b.core q (o.pos / 4096)
  if Sparse.get false m.s.crc key then .error (.stop { m with s := unitFails b m.s key } 20 1 (o.pos / 4096 * 4096))
  else drainBytes b o m bs

def modStream (s : State) (uid : Nat) (q : BitVec 4) (f : Stream → Stream) : State := modTask s uid fun t => putStream t q (f (getStream t q))
def streamOf (s : State) (o : CopyOp) (q : BitVec 4) : Option Stream := (taskState s o.uid).map fun t => getStream t q
/-- Bytes a stream moves in all. -/
def CopyOp.total (o : CopyOp) : Nat := o.desc.nrow * o.desc.rlen

/-- STREAM_ROW_TRANSFER: operation `item` of engine `unit` pushes a row of a fill, or writes a row of a drain. -/
def execStreamRowTransfer (s : State) : Res1 :=
  match getOp s s.unit s.item with
  | none => .next s
  | some (e, o) =>
    let b := o.by_ e
    match o.kind with
    | .fill q =>
      match streamOf s o q with
      | none => .next s
      | some x =>
        .next (
          if o.paused || 4 ≤ x.rows.length then s
          else match fillBytes b o (Mv.start s) with
            | .error (.wait n) => s.noted n
            | .error .stats => s
            | .error (.stop m c d a) =>
              endCopy s (modStream m.s o.uid q fun x => { x with failed := true, left := 0 }) e o 0 (some (c, d, a))
            | .ok (m, bs) =>
              let row := rowOfBytes fun i => byteAt bs i
              let s1 := modStream m.s o.uid q fun x => { x with rows := x.rows ++ [row], left := x.left - 1 }
              if o.pos + 512 < o.total then setOp s1 e o { o with pos := o.pos + 512 }
              else endCopy s s1 e o 0 none)
    | .drain q =>
      match streamOf s o q with
      | none => .next s
      | some x =>
        .next (match x.rows with
        | [] => if x.closed then endCopy s (modStream s o.uid q fun _ => Stream.unbound) e o o.mw none else s
        | row :: rest =>
          match drainRow b o q (Mv.start s) (bitsBytes 512 row) with
          | .error (.wait n) => s.noted n
          | .error .stats => s
          | .error (.stop m c d a) =>
            endCopy s (modStream m.s o.uid q fun _ => Stream.unbound) e o (max o.mw m.mwts) (some (c, d, a))
          | .ok m =>
            let s1 := modStream m.s o.uid q fun x => { x with rows := rest }
            if o.pos + 512 < o.total then setOp s1 e o { o with pos := o.pos + 512, mw := max o.mw m.mwts }
            else endCopy s (modStream s1 o.uid q fun _ => Stream.unbound) e o (max o.mw m.mwts) none)
    | _ => .next s

/-- The engine operation of a task's stream. -/
def streamOp (s : State) (uid : Nat) (q : BitVec 4) : Option (EngineId × CopyOp) :=
  allEngines.findSome? fun e => ((s.engine e).find? fun o => o.uid == uid && o.kind == .fill q).map fun o => (e, o)

/-- QCLOSE (13 R342). -/
def execQclose (o : CQ) (s : State) : Res1 :=
  finish (
    let x := getStream s.k.t o.q
    match x.bind with
    | .unbound => raise s 8 o.q.toNat 0 0
    | .drain => .ok (s.modT fun t => putStream t o.q { x with closed := true })
    | .fill =>
      let s1 := s.modT fun t => putStream t o.q Stream.unbound
      match streamOp s1 (taskUid s.k) o.q with
      | none => .ok s1
      | some (e, op) =>
        match opSignal? (flagDone s1 op.uid op.flag 0) (engineDie e) op.ctx op.uid op.ev 0 with
        | .ok s => .ok (dropOp s e op)
        | .error n => freeze (s.noted n))

/-! ## CPYW and COLLW (13 R344, R346) -/

/-- The wait on a flag held by `hold`. -/
def waitSlot (hold : BitVec 2) (o : CWait) (s : State) : Res1 :=
  finish (
    let x := getFlag s.k.t o.f
    let pred : State → Bool → State := fun s v => if o.pv then s.outP 1 o.p v else s
    if x.hold ≠ hold ∨ x.state = 0 then raise1 s (s.slotNo 6) 5
    else if x.state = 1 then freeze s
    else
      let s := s.modK (observe · x.mwts)
      if x.state = 2 then .ok (pred (s.modT fun t => putFlag t o.f FlagSt.idle) true)
      else if o.tr then
        .ok (pendFault (s.modT fun t => putFlag t o.f FlagSt.idle) s.cur
          ⟨7, x.eng.toNat, x.addr.toNat, BitVec.ofNat 64 (x.cause.toNat * 2 ^ 12 + 15)⟩)
      else .ok (pred s false))
def execCpyw (o : CWait) (s : State) : Res1 := waitSlot 1 o s
def execCollw (o : CWait) (s : State) : Res1 := waitSlot 3 o s

/-- The wait slot that a core is frozen in, with the cycle of its issue. -/
def frozenWait (k : Core) : Option (CWait × Nat) :=
  match k.t.fl with
  | some f => match f.todo, f.since with
    | (_, .run (.cpyw o)) :: _, some _ => some (o, f.at_)
    | (_, .run (.collw o)) :: _, some _ => some (o, f.at_)
    | _, _ => none
  | none => none
/-- The limit of a frozen CPYW or COLLW has passed with its flag busy (13 R344). -/
def waitOver (s : State) (k : Core) : Option CWait :=
  match frozenWait k with
  | some (o, t) => if o.limit ≠ 0 ∧ t + 64 * o.limit.toNat ≤ s.now ∧ (getFlag k.t o.f).state = 1#2 then some o else none
  | none => none
/-- CPYW_LIMIT_EXPIRY: the predicate becomes false, the flag stays busy, nothing is ordered. -/
def execCpywLimitExpiry (s : State) : Res1 :=
  match waitOver s s.k with
  | none => .next s
  | some o => .next (commit ((if o.pv then s.outP 1 o.p false else s).modK fun k => { k with frozen := false }))

/-! ## Frame fills (04 R111, R113) -/

/-- Reads the block of a fill: its bytes, or the cause. A capability whose record holds a shadow copy reads each granule's
committed copy (03 R87). -/
def frameBytes (s : State) (e : EngineId) (o : CopyOp) : MvR (Mv × List Byte × Option (Nat × Nat × Nat)) :=
  plainRead (o.by_ e) (Mv.start s) o.desc.src 0 o.va 16384

/-- FRAME_FILL_DONE: fill `item` of engine `unit` is written into its rows, F is clear. -/
def execFrameFillDone (s : State) : Res1 :=
  match getOp s s.unit s.item with
  | none => .next s
  | some (e, o) =>
    match o.kind with
    | .frame f =>
      .next (match frameBytes s e o with
        | .ok (m, bs, none) =>
          let m := bufWrite (o.by_ e) m .abuf (f.toNat * 16384) bs
          dropOp (modTask m.s o.uid fun t => putFrame t f.toNat { getFrame t f.toNat with f := false }) e o
        | .error (.wait n) => s.noted n
        | _ => s)
    | _ => .next s
/-- FRAME_FILL_FAULT: E is set with the cause, F is clear, the rows are free values (log 6). -/
def execFrameFillFault (s : State) : Res1 :=
  match getOp s s.unit s.item with
  | none => .next s
  | some (e, o) =>
    match o.kind with
    | .frame f =>
      .next (match frameBytes s e o with
        | .ok (m, _, some (c, d, _)) =>
          let s := { m.s with fresh := m.s.fresh + 32 }
          let s := s.modCore o.core fun k => (List.range 32).foldl (fun k i => putRow k .abuf (f.toNat * 32 + i) (Config.freeRow (m.s.fresh + i))) k
          dropOp (modTask s o.uid fun t => putFrame t f.toNat { getFrame t f.toNat with
            f := false, e := true, cause := BitVec.ofNat 9 (c * 16 + d) }) e o
        | .error (.wait n) => s.noted n
        | _ => s)
    | _ => .next s

end Sys2Proof.Machine
end

