-- ==== Sys2Proof/Machine/Collective.lean ====
section
/-!
DEFINITION. Collectives (spec 13 R345, R346; 17 R422 to R430; 03 R88, R91) and the Lorelle ports. What the other members
contribute comes in as frames (log 13).
-/

namespace Sys2Proof.Machine

open Sys2Proof.NumFmt (XV)

/-! ## Group table (17 Table 17.4) -/

structure GroupEnt where
  (pa w0 members mask : Nat) (epoch : Word)
  deriving DecidableEq, Repr
def GroupEnt.v (g : GroupEnt) : Bool := g.w0.testBit 63
def GroupEnt.fault (g : GroupEnt) : Bool := g.w0.testBit 62
def GroupEnt.asid (g : GroupEnt) : Nat := g.w0 / 2 ^ 32 % 2 ^ 16
def GroupEnt.p (g : GroupEnt) : Nat := g.w0 / 2 ^ 16 % 2 ^ 16
def GroupEnt.rank (g : GroupEnt) : Nat := g.w0 % 2 ^ 16
/-- Entry g of a die's table: none when it cannot be read or g is at or above GTCNT. -/
def groupEnt (s : State) (d : DieId) (g : Nat) : HOp (State × Option GroupEnt) :=
  if (s.die d).gtcnt.toNat ≤ g then .ok (s, none)
  else
    let pa := (s.die d).gtbase.toNat + 64 * g
    match homeRead s d pa 32 with
    | .error (.wait n) => .error (.wait n)
    | .error (.cause n _ _) => .ok (s.noted n, none)
    | .ok (s, bs) =>
      let w : Nat → Nat := fun i => bytesToNat ((bs.drop (8 * i)).take 8)
      .ok (s, some ⟨pa, w 0, w 1 % 2 ^ 52, w 2 % 2 ^ 16, BitVec.ofNat 64 (w 3)⟩)
/-- The words of a group's other members, in rank order (17 Table 17.4). -/
def otherMembers (s : State) (d : DieId) (e : GroupEnt) : HOp (State × List Nat) := do
  let (s, bs) ← homeRead s d e.members (4 * e.p)
  pure (s, ((List.range e.p).filter (· != e.rank)).map fun i => bytesToNat ((bs.drop (4 * i)).take 4))
/-- The die of this device that a member word names (17 R424). -/
def memberDie (s : State) (d : DieId) (w : Nat) : Option DieId :=
  if BitVec.ofNat 13 (w / 4) = (s.die d).sysid.setWidth 13 then some (Fin.ofNat 4 w) else none
/-- Something goes to every member named: to a die of this device as an action there, to another device through the ports. -/
def sendMembers (s : State) (d : DieId) (ws : List Nat) (i : Instr) (item : Nat) (out : Nat → Out) : State :=
  ws.foldl (fun s w => match memberDie s d w with | some x => s.postDie x i 0 item | none => s.emit (out w)) s

/-! ## Descriptor (13 Table 13.6) -/

def CDesc.group (d : CDesc) : Nat := d.f 2 63 48
def CDesc.op (d : CDesc) : Nat := d.f 2 47 44
def CDesc.efmt (d : CDesc) : Nat := d.f 2 43 40
def CDesc.len (d : CDesc) : Nat := d.f 2 39 0
def CDesc.wire (d : CDesc) : Nat := d.f 3 63 60
def CDesc.stepc (d : CDesc) : Bool := d.f 3 59 59 == 1
def CDesc.root (d : CDesc) : Nat := d.f 3 55 40
def efmtOf (n : Nat) : Fmt := if n = 0 then .f32 else .bf16
def CDesc.width (d : CDesc) : Nat := NumFmt.width (efmtOf d.efmt) / 8

/-- A refused descriptor, for a group of p members (13 R345; 17 R426). -/
def collBad (d : CDesc) (p : Nat) : Bool :=
  d.f 0 63 57 != 0 || d.f 1 63 57 != 0 || d.f 3 58 56 != 0 || d.f 3 39 16 != 0 || decide (4 < d.op) || decide (1 < d.efmt)
    || !(d.wire == 0 || ((d.wire == 3 || d.wire == 4) && (d.op == 0 || d.op == 2)))
    || d.len % d.width != 0 || ((d.op == 2 || d.op == 3) && d.len % (max 1 p * d.width) != 0) || (d.op == 4 && decide (p ≤ d.root))

def raise8 {α : Type} (s : State) (reason : Nat) : Op α := raise s 7 6 0 (BitVec.ofNat 64 reason)

/-- The destination's record, where its capability bears one: blocks of its format must be whole (13 R339). -/
def collDst (s : State) (d : CDesc) (n : Nat) (off : Nat) : Op Unit :=
  if d.dst.handle = 0 then .ok ()
  else do
    let v := s.gvOf
    let (_, r) ← gvOp s d.dst.handle 0 (engage s v.d v.ctx d.dst.handle)
    let lo : Int := (d.dst.base : Int) + d.daddr + off / d.width * r.w.pitch - r.w.dbase
    let blk := if r.w.fmt = 2 then 32 else if r.w.fmt = 3 then 8 else 1
    if lo < 0 ∨ (r.w.count * r.w.pitch : Int) < lo + (n * r.w.pitch : Nat) then raise s 4 9
    else if lo % ((r.w.pitch * blk : Nat) : Int) ≠ 0 ∨ n % blk ≠ 0 then raise8 s 5
    else pure ()

def modGroup (s : State) (d : DieId) (g : Nat) (f : Group → Group) : State :=
  s.modDie d fun x => { x with groups := x.groups.map fun y => if y.group = g then f y else y }
/-- The group's state for an EPOCH; another EPOCH starts anew. -/
def openGroup (s : State) (d : DieId) (g : Nat) (epoch : Word) : State :=
  match (s.die d).groups.find? fun y => y.group == g with
  | some y => if y.epoch = epoch then s else modGroup s d g fun _ => ⟨g, epoch, 0, []⟩
  | none => s.modDie d fun x => { x with groups := x.groups ++ [⟨g, epoch, 0, []⟩] }
def groupSt (s : State) (d : DieId) (g : Nat) : Option Group := (s.die d).groups.find? fun y => y.group == g

/-- Elements a member of rank r gets, and the byte offset of the first (17 R426). -/
def resultSpan (d : CDesc) (p r : Nat) : Nat × Nat :=
  if d.op = 2 then (d.len / max 1 p / d.width, r * (d.len / max 1 p)) else (d.len / d.width, 0)

/-- COLL (13 R345; 17 R425, R426). -/
def execColl (o : CCpys) (s : State) : Res1 :=
  finish (
    let d := s.iregs.cd.get o.d.toFin
    let die := coreDie s.cur
    match groupEnt s die d.group with
    | .error (.wait n) => freeze (s.noted n)
    | .error (.cause n _ _) => raise8 (s.noted n) 8
    | .ok (_, none) => raise8 s 8
    | .ok (s1, some g) =>
      if !g.v || g.fault || g.asid != s.k.ctx.asid.toNat || collBad d g.p then raise8 s 8
      else do
        let ev ← copyEv s d o.ev
        match o.f with
        | some f => if !claimable (getFlag s.k.t f) then raise8 s 4
        | none => pure ()
        match capErr d.src .cps d.saddr d.len with
        | some e => raise s 4 e
        | none => match capErr d.dst .cpd d.daddr d.len with
          | some e => raise s 4 e
          | none => do
            let (n, off) := resultSpan d g.p g.rank
            collDst s d n off
            let s2 := openGroup s1 die d.group g.epoch
            let seq := match groupSt s2 die d.group with | some y => y.count | none => 0
            let s2 := modGroup s2 die d.group fun y => { y with count := y.count + 1 }
            let op : CollOp :=
              { core := s.cur, uid := taskUid s.k, desc := d, flag := o.f, ev := ev, ctx := s.k.ctx, priv := privMode s.k, ftz := s.ftz
                bjump := bjumpOf s.isys, seq := seq, mine := none, fault := none, since := s.now }
            pure ((claimFlag s2 o.f 3 6 ev).modDie die fun x => { x with coll := x.coll ++ [op] }))

/-! ## The reductions (17 R426; 03 R91) -/

/-- Values of a member's element bytes. -/
def partyVals (f : Fmt) (bs : List Byte) : List XV := (rawElems f bs).map SElem.val
def nonFinite (xs : List XV) : Bool := xs.any fun x => !x.isFin

def freePick (k n : Nat) : Nat := (Config.freeRow k).toNat % max 1 n
/-- Combines values two at a time in a free order (00 R8; log 13): `fuel` combinations, numbers from k on. -/
def foldFree (f : XV → XV → XV) : Nat → Nat → List XV → XV
  | 0, _, l => l.headD (XV.zero false)
  | n + 1, k, l =>
    match l with
    | [] => XV.zero false
    | [x] => x
    | _ =>
      let i := freePick k l.length
      let a := l.getD i (XV.zero false)
      let l := l.eraseIdx i
      let j := freePick (k + 1) l.length
      foldFree f n (k + 2) (l.eraseIdx j ++ [f a (l.getD j (XV.zero false))])
/-- An FP32 sum, which no FPCTL flushes (02 R52, R55; log 13), and the larger of two elements; a NaN gives the canonical NaN. -/
def addF32 (a b : XV) : XV := NumFmt.decode .f32 (NumFmt.arith .f32 .rne false false 0 (NumFmt.sum false [a, b]))
def maxOf (a b : XV) : XV := if a.isNan || b.isNan then .nan false else if NumFmt.cmp b a = some .gt then b else a

/-- Chunk exponent of R91: −128 with no nonzero value, 127 with a NaN or an infinity. -/
def chunkExp (xs : List XV) : Int :=
  if nonFinite xs then 127
  else xs.foldl (fun m x => if x.isZero then m else max m (max (-127) x.exp2Floor)) (-128)
def ceilLog2 (n : Nat) : Nat := if n ≤ 1 then 0 else Nat.log2 (n - 1) + 1
def wireFmt (n : Nat) : Fmt := if n = 3 then .e4m3 else .e5m2
/-- What each party sends of a value in a chunk of agreed exponent E, and the exponent its sum is decoded at. -/
def wireVal (wire : Fmt) (e sc : Int) (x : XV) : XV :=
  if e = 127 then .nan false
  else if e = -128 then XV.zero false
  else NumFmt.decode wire (NumFmt.roundTo wire .rne true false 0 (x.scale (-sc))).1

/-- Element i of the sum over the parties' values. On a narrow wire the codes are summed and the factor of the chunk's exponent
is applied to their sum: DESIGN CHOICE (log 13). -/
def sumAt (d : CDesc) (parties : List (List XV)) (chunkE : Nat → Int) (k i : Nat) : XV :=
  let xs := parties.map fun p => p.getD i (XV.zero false)
  if d.wire = 0 then foldFree addF32 xs.length k xs
  else
    let w := wireFmt d.wire
    let e := chunkE (i * d.width / 4096)
    let sc := e + ceilLog2 parties.length - emaxf w
    (foldFree addF32 xs.length k (xs.map (wireVal w e sc))).scale (if e = 127 ∨ e = -128 then 0 else sc)

/-- The results of the member of rank r, from the parties in rank order; element i draws its numbers from k + 2Pi on. -/
def collResult (d : CDesc) (r k : Nat) (parties : List (List Byte)) : List XV :=
  let p := parties.length
  let f := efmtOf d.efmt
  let vs := parties.map (partyVals f)
  let (n, off) := resultSpan d p r
  let per := 4096 / d.width
  let exps : List Int := (List.range ((d.len + 4095) / 4096)).map fun c =>
    (vs.map fun xs => chunkExp ((xs.drop (per * c)).take per)).foldl max (-128)
  let e : Nat → Int := fun c => exps.getD c (-128)
  (List.range n).map fun i =>
    let el := off / d.width + i
    match d.op with
    | 1 => let m := foldFree maxOf p (k + 2 * p * el) (vs.map fun xs => xs.getD el (XV.zero false))
           if m.isNan then .nan false else m
    | 3 => (vs.getD (el / max 1 (d.len / max 1 p / d.width)) []).getD el (XV.zero false)
    | 4 => (vs.getD d.root []).getD el (XV.zero false)
    | _ => sumAt d vs e (k + 2 * p * el) el

/-! ## Running a collective -/

def CollOp.by_ (o : CollOp) (d : DieId) : MvBy := { eng := none, die := d, core := o.core, uid := o.uid, ctx := o.ctx, priv := o.priv, ftz := o.ftz, bj := o.bjump }

/-- Format of the values an operation moves: none for sums and maxima, which are rounded into the destination (13 R345; 12
R293). -/
def CDesc.valFmt (d : CDesc) : Option Fmt := if d.op ≤ 2 then none else some (efmtOf d.efmt)
/-- SAT and FTZ of the write of a result: an element moved into its own format, or a wider one, is copied (02 Table 2.6). -/
def collFlags (d : CDesc) (f : Fmt) (k : Int) (ftz : Bool) : Bool × Bool :=
  match d.valFmt with
  | some g => cvtFlags g f k false ftz
  | none => (false, ftz)
/-- Writes the results, part by part, with +0 in the tangent planes of a record (15 R383); after a stop each later part is tried on its own (log 15). -/
def collWrite (b : MvBy) (o : CollOp) (xs : List XV) (off : Nat) : Mv → MvR (Mv × Option (Nat × Nat × Nat)) := fun m => do
  let d := o.desc
  let f := efmtOf d.efmt
  let h := d.dst.handle
  let w ← if h = 0 then pure d.width else (mvRec b m h 0).map fun y => y.2.w.pitch
  let va := d.dst.base + d.daddr + off / d.width * w
  (rowParts true w (xs.length * w / 4096 + 2) va 0 xs.length).foldlM (init := (m, (none : Option (Nat × Nat × Nat)))) fun x part =>
    let b := { b with runs := [(va, xs.length * w)], mix := x.2.isSome, deny := x.2.bind fun e => if e.1 = 11 then some e.2.2 else none }
    let ys := (xs.drop part.1).take part.2
    let a := va + part.1 * w
    let r : MvR Mv :=
      if h = 0 then
        let fl := collFlags d f 0 o.ftz
        mvWrite b false x.1 a (ys.flatMap fun y => natToBytes d.width (NumFmt.roundTo f .rne fl.1 fl.2 0 y).1)
      else do
        let (m, r) ← mvRec b x.1 h a
        let e0 := (a - r.w.dbase) / r.w.pitch
        let m ← storePart b m h e0 a ys fun f sg brk =>
          let fl := collFlags d f sg o.ftz
          encodeRun f .rne fl.1 fl.2 b.bj brk (fun _ => 0) (ys.map fun y => y.scale (-sg))
        zeroPlanes b m r e0 ys.length 0
    match r with
    | .ok m => .ok (m, x.2)
    | .error (.stop m c dt ad) => .ok (m, some (x.2.getD (c, dt, ad)))
    | .error e => .error e

/-- A task's collective has ended in a group that has been notified of a fault (07 R171). -/
def groupFaulted (s : State) (uid : Nat) : State := modTask s uid fun t => { t with collFault := true }
/-- A collective ends: its flag, its event; a member that could not translate or reach its own memory notifies the group (06
Table 6.9; 17 R428), and its task's next PFENCE knows (07 R171). While the event's home waits it keeps the state it had, with the note. -/
def endColl (s0 s : State) (d : DieId) (o : CollOp) (mw : Nat) (err : Option (Nat × Nat × Nat)) : State :=
  let s := match err with
    | none => flagDone s o.uid o.flag mw true
    | some (c, dt, a) => flagError s o.uid o.flag c dt a mw true
  match opSignal? s d o.ctx o.uid o.ev mw with
  | .error n => s0.noted n
  | .ok s =>
    let s := s.modDie d fun x => { x with coll := x.coll.erase o }
    match err with
    | some (5, _, _) => (groupFaulted s o.uid).postDie d (.groupFaultDetect o.desc.group .translation)
    | some (19, _, _) => (groupFaulted s o.uid).postDie d (.groupFaultDetect o.desc.group .island)
    | _ => s

/-- Reads a member's own contribution and sends it to the others. A list of members that cannot be read leaves no route to
them: DESIGN CHOICE (log 13). `s0` is the state before its group was looked up. -/
def collSend (s0 s : State) (d : DieId) (i : Nat) (o : CollOp) (g : GroupEnt) : State :=
  let b := o.by_ d
  let e := o.desc
  match plainRead b (Mv.start s) e.src 0 (e.src.base + e.saddr) e.len with
  | .error (.wait n) => s0.noted n
  | .error .stats => s0
  | .error (.stop m c dt a) => endColl s0 m.s d o 0 (some (c, dt, a))
  | .ok (m, _, some (c, dt, a)) => endColl s0 m.s d o 0 (some (c, dt, a))
  | .ok (m, bs, none) =>
    let flag := match stepSet m.s o.ctx.asid with | some x => x.finite | none => false
    let p : Party :=
      { rank := g.rank, op := BitVec.ofNat 4 e.op, efmt := BitVec.ofNat 4 e.efmt, wire := BitVec.ofNat 4 e.wire, stepc := e.stepc, root := e.root
        len := e.len, bytes := bs, nonFinite := flag || nonFinite (partyVals (efmtOf e.efmt) bs) }
    let fr : Sys2Proof.Frame := ⟨e.group, g.epoch, g.rank, o.seq, p⟩
    match otherMembers m.s d g with
    | .error (.wait n) => s0.noted n
    | .error (.cause n _ _) => ((sent m.s p).noted n).postDie d (.groupFaultDetect e.group .noRoute)
    | .ok (s, ws) => sendMembers (sent s p) d ws (.lorelleFrameReceive fr) 0 (fun w => .frame d w fr)
where
  sent (s : State) (p : Party) : State := s.modDie d fun x => { x with coll := x.coll.set i { o with mine := some p } }

/-- The members agree on what the collective is. -/
def agree (a b : Party) : Bool :=
  a.op == b.op && a.efmt == b.efmt && a.len == b.len && a.wire == b.wire && a.stepc == b.stepc && a.root == b.root

/-- The frames of a collective that has ended. -/
def dropFrames (s : State) (d : DieId) (o : CollOp) : State :=
  modGroup s d o.desc.group fun y => { y with frames := y.frames.filter fun f => f.seq != o.seq }
/-- Every party's contribution is here: the results are written, the finite flag applied, the flag set. -/
def collFinish (s0 s : State) (d : DieId) (o : CollOp) (parties : List Party) : State :=
  let mine := o.mine
  let finite : State → State := fun s => if o.desc.stepc && parties.any Party.nonFinite then setFinite s o.ctx.asid else s
  let rank := match mine with | some p => p.rank | none => 0
  if parties.any fun p => match mine with | some q => !agree p q | none => false then
    endColl s0 (dropFrames (if o.desc.stepc then setFinite s o.ctx.asid else s) d o) d o 0 (some (7, 6, 0))
  else
    let p := parties.length
    let xs := collResult o.desc rank s.fresh (parties.map Party.bytes)
    let s1 : State := { s with fresh := s.fresh + 2 * p * (o.desc.len / o.desc.width) }
    match collWrite (o.by_ d) o xs (resultSpan o.desc p rank).2 (Mv.start s1) with
    | .error (.wait n) => s0.noted n
    | .error .stats => s0.mvWaits o.core .stats
    | .error (.stop m c dt a) => endColl s0 (dropFrames (finite m.s) d o) d o m.mwts (some (c, dt, a))
    | .ok (m, err) => endColl s0 (dropFrames (finite m.s) d o) d o m.mwts err

/-- The parties of a collective in rank order, once all are here. -/
def partiesOf (s : State) (d : DieId) (o : CollOp) (p : Party) (n : Nat) : Option (List Party) :=
  let fs : List Sys2Proof.Frame := match groupSt s d o.desc.group with | some y => y.frames.filter fun f => f.seq == o.seq | none => []
  (List.range n).mapM fun r => if r = p.rank then some p else (fs.find? fun f => f.rank == r).map Frame.party

/-- COLLECTIVE_COMPLETE (17 R426 to R428): collective `item` of the die named reads its inputs, or ends. One that a fault of
its group has stopped is remembered for a PFENCE (07 R171). -/
def execCollectiveComplete (s : State) : Res1 :=
  let d := s.dsel
  .next (match (s.die d).coll[s.item]? with
    | none => s
    | some o =>
      match o.fault with
      | some f =>
        let s1 := groupFaulted (if o.desc.stepc then setFinite s o.ctx.asid else s) o.uid
        endColl s s1 d o 0 (some (f.cls, f.det, 0))
      | none =>
        match groupEnt s d o.desc.group with
        | .error (.wait n) => s.noted n
        | .error (.cause n _ _) => s.noted n
        | .ok (_, none) => s
        | .ok (s1, some g) =>
          match o.mine with
          | none => collSend s s1 d s.item o g
          | some p => match partiesOf s1 d o p g.p with
            | none => s
            | some ps => collFinish s s1 d o ps)

/-! ## Frames and faults (17 R423, R425, R428) -/

/-- Stops the collectives of a group; each ends with CAUSE class 7 detail 6. -/
def stopGroup (s : State) (d : DieId) (g : Nat) : State :=
  s.modDie d fun x => { x with coll := x.coll.map fun o =>
    if o.desc.group = g ∧ o.fault.isNone then { o with fault := some ⟨7, 6, 0, 0⟩ } else o }
/-- FAULT of the group's entry. -/
def markFault (s : State) (d : DieId) (e : GroupEnt) : HOp State := physWrite s d e.pa 8 (e.w0 ||| 2 ^ 62)
def groupCause : BitVec 9 := 0x76
/-- An action of a die on its group table, which is put aside while the table's home waits. -/
def onTable (s : State) (d : DieId) (i : Instr) (r : HOp State) : State :=
  match r with
  | .ok s => s
  | .error (.wait n) => (s.noted n).deferDie d i s.unit s.item
  | .error (.cause n _ _) => s.noted n

/-- A member finds a fault in one of its groups, and notifies the others. A list of members that cannot be read leaves nobody
to notify (log 13). -/
def detectFault (s : State) (d : DieId) (g : Nat) : HOp State := do
  match ← groupEnt s d g with
  | (s, none) => pure s
  | (s, some e) =>
    if !e.v || e.fault then pure s
    else do
      let s := stopGroup (raiseInt (← markFault s d e) d 3) d g
      match otherMembers s d e with
      | .error (.wait n) => .error (.wait n)
      | .error (.cause n _ _) => pure (s.noted n)
      | .ok (s, ws) => pure (sendMembers s d ws .groupFaultNotification g fun w => .notify d w g groupCause)
/-- GROUP_FAULT_DETECT (17 R428) on the die named. -/
def execGroupFaultDetect (g : Nat) (r : GrpReason) (s : State) : Res1 :=
  .next (onTable s s.dsel (.groupFaultDetect g r) (detectFault s s.dsel g))
/-- GROUP_FAULT_NOTIFICATION (17 R428): a notification of group `item` reaches the die named. -/
def execGroupFaultNotification (s : State) : Res1 :=
  let d := s.dsel
  .next (onTable s d .groupFaultNotification (do
    match ← groupEnt s d s.item with
    | (s1, none) => pure s1
    | (s1, some e) =>
      if !e.v then pure s1
      else (markFault s1 d e).map fun s2 => stopGroup (if e.fault then s2 else raiseInt s2 d 3) d s.item))

/-- LORELLE_FRAME_RECEIVE (17 R423, R425, R428) on the die named: a frame of another EPOCH is discarded; one that no member
can have sent is refused, which faults the group. -/
def execLorelleFrameReceive (fr : Sys2Proof.Frame) (s : State) : Res1 :=
  let d := s.dsel
  .next (onTable s d (.lorelleFrameReceive fr) (do
    match ← groupEnt s d fr.group with
    | (s1, none) => pure s1
    | (s1, some e) =>
      if !e.v || e.fault || e.epoch != fr.epoch then pure s1
      else if e.p ≤ fr.rank ∨ fr.rank = e.rank ∨ fr.party.rank ≠ fr.rank then pure (s1.postDie d (.groupFaultDetect fr.group .frameRefused))
      else
        let s2 := openGroup s1 d fr.group e.epoch
        pure (modGroup s2 d fr.group fun y =>
          if y.frames.any fun f => f.rank == fr.rank && f.seq == fr.seq then y else { y with frames := y.frames ++ [fr] })))

/-! ## Ports (17 R422, R423, R429) -/

/-- A global port is still in the spread. -/
def portKept (s : State) (p : Nat) : Bool := !((s.die (Fin.ofNat 4 (p / 4))).lnkstat.getLsbD (2 * (p % 4) + 1))
/-- The fault a die has still to find in a valid entry of its table (17 R428): a member lies on an island of this device that
is not active, or a member of another device is reached by no port that is kept. -/
def groupDue (s : State) (d : DieId) (g : Nat) : Option GrpReason :=
  match groupEnt s d g with
  | .ok (s, some e) =>
    if !e.v || e.fault then none
    else match otherMembers s d e with
      | .ok (s, ws) =>
        if ws.any (fun w => match memberDie s d w with | some x => !islActive s x | none => false) then some .island
        else if ws.any (fun w => (memberDie s d w).isNone) && (List.range 16).all fun p => !e.mask.testBit p || !portKept s p then some .noRoute
        else none
      | .error _ => none
  | _ => none
/-- LORELLE_PORT_REMOVAL (17 R423, R429): local port `unit` of the die named. Each die finds the groups that have lost their
last port (groupDue). -/
def execLorellePortRemoval (s : State) : Res1 :=
  let d := s.dsel
  let n := s.unit % 4
  let bit : Word := 1#64 <<< (2 * n + 1)
  .next (
    if (s.die d).lnkstat &&& bit ≠ 0 then s
    else raiseInt (s.modDie d fun x => { x with lnkstat := x.lnkstat ||| bit }) d 4)
/-- LORELLE_PORT_TRAINING (17 R429): local port `unit` of the die named; a trained port is back in the spread (17 R423). -/
def execLorellePortTraining (up : Bool) (s : State) : Res1 :=
  let d := s.dsel
  let n := s.unit % 4
  let t : Word := 1#64 <<< (2 * n)
  let r : Word := 1#64 <<< (2 * n + 1)
  let old := (s.die d).lnkstat
  let new := if up then (old ||| t) &&& ~~~r else old &&& ~~~t
  .next (if new = old then s else raiseInt (s.modDie d fun x => { x with lnkstat := new }) d 4)

end Sys2Proof.Machine
end

