-- ==== Sys2Proof/Machine/Hbm.lean ====
section
/-!
DEFINITION. HBM4 pseudo-channels (spec 05 R132 to R135), islands, core domains and edges (05 R127 to R131). The
controllers' commands give timing only: what an access reads and writes is given by the homes (log 30).
-/

namespace Sys2Proof.Machine

/-! ## Pseudo-channels of the die named; `unit` is a local pseudo-channel 0 to 191 or a channel 0 to 95 -/

/-- Idle cycles so far (05 R133). -/
def idleCount (s : State) (x : PChan) : Nat := if x.reqs.isEmpty && x.exitFrom.isNone then s.now - x.idleFrom else 0
/-- Entry into self-refresh, and into power-down unless self-refresh comes first. -/
def wantsSr (s : State) (d : DieId) (x : PChan) : Bool :=
  let sr := (s.die d).sridle.toNat
  sr != 0 && decide (sr ≤ idleCount s x) && x.power != .selfRefresh
def wantsPd (s : State) (d : DieId) (x : PChan) : Bool :=
  let pd := (s.die d).pdidle.toNat
  pd != 0 && decide (pd ≤ idleCount s x) && x.power == .active && !wantsSr s d x

/-- PSEUDO_CHANNEL_POWER_DOWN (05 R133). -/
def execPseudoChannelPowerDown (s : State) : Res1 :=
  let x := getPc s s.dsel s.unit
  .next (if islActive s s.dsel && wantsPd s s.dsel x then setPc s s.dsel s.unit { x with power := .powerDown } else s)
/-- PSEUDO_CHANNEL_SELF_REFRESH (05 R133): its banks refresh themselves from now on. -/
def execPseudoChannelSelfRefresh (s : State) : Res1 :=
  let x := getPc s s.dsel s.unit
  .next (if islActive s s.dsel && wantsSr s s.dsel x then setPc s s.dsel s.unit { x with power := .selfRefresh, due := [] } else s)
/-- PSEUDO_CHANNEL_EXIT (05 R133, Table 5.7): a request for one of the two lines of a 256-byte piece of the pseudo-channel (05
R132) reaches the controller. An inactive island serves none (05 R130). -/
def execPseudoChannelExit (piece line : Nat) (write : Bool) (s : State) : Res1 :=
  .next (if islActive s s.dsel then hbmArrive s s.dsel s.unit (256 * piece + 128 * (line % 2)) write else s)

/-! ## Commands (05 R134, R135) -/

def HbmReq.bank (r : HbmReq) : Nat := Config.hbmBank r.place
def HbmReq.row (r : HbmReq) : Nat := Config.hbmRow r.place
def rowOpen (x : PChan) (r : HbmReq) : Bool := x.rows.any fun y => y.1 == r.bank && y.2 == r.row
def bankFree (s : State) (x : PChan) (r : HbmReq) : Bool := x.refs.all fun y => y.1 != r.bank || decide (y.2 ≤ s.now)
/-- The request whose command comes next, and whether that is a column command. -/
def nextReq (s : State) (x : PChan) : Option (HbmReq × Bool) :=
  if s.now < x.exitAt then none
  else
    let rs := x.reqs.filter (bankFree s x)
    match rs.find? fun r => decide (r.since + 1024 ≤ s.now) with
    | some r => some (r, rowOpen x r)
    | none => match rs.find? (rowOpen x) with
      | some r => some (r, true)
      | none => rs.head?.map fun r => (r, false)
def readyOn (s : State) (x : PChan) (col : Bool) : Option HbmReq := (nextReq s x).bind fun y => if y.2 = col then some y.1 else none

/-- The bank whose due refresh a pseudo-channel issues next as a row command: before its requests, but for one that has
waited 1,024 cycles (log 30). -/
def nextRefresh (s : State) (x : PChan) : Option Nat :=
  if s.now < x.exitAt || (match readyOn s x false with | some r => decide (r.since + 1024 ≤ s.now) | none => false) then none
  else x.due.head?
/-- A command a pseudo-channel is ready to issue. -/
inductive HbmCmd where
  | refresh (bank : Nat)
  | request (r : HbmReq)
  deriving DecidableEq, Repr
/-- The command of a pseudo-channel that is ready for a bus (05 R134, R135). -/
def readyCmd (s : State) (x : PChan) (col : Bool) : Option HbmCmd :=
  match (if col then none else nextRefresh s x) with
  | some b => some (.refresh b)
  | none => (readyOn s x col).map .request

/-- Which of a channel's two pseudo-channels issues: the holder of the grant, or the next one to hold it. -/
def arbitrate (b : BusSt) (r0 r1 : Bool) : Option (Bool × BusSt) :=
  let has : Bool → Bool := fun h => if h then r1 else r0
  if b.left != 0 && has b.holder then some (b.holder, { b with left := b.left - 1 })
  else if has (!b.holder) then some (!b.holder, ⟨!b.holder, 1⟩)
  else if has b.holder then some (b.holder, ⟨b.holder, 1⟩)
  else none

/-- A row command opens the row; a column command moves 32 bytes of the line. -/
def issueReq (s : State) (x : PChan) (r : HbmReq) (col : Bool) : PChan :=
  let x := { x with exitFrom := none }
  if !col then { x with rows := x.rows.filter (fun y => y.1 != r.bank) ++ [(r.bank, r.row)] }
  else if r.left ≤ 1 then { x with reqs := x.reqs.erase r, idleFrom := s.now + 1 }
  else { x with reqs := x.reqs.map fun y => if y = r then { y with left := y.left - 1 } else y }

def chKey (d : DieId) (ch : Nat) : Nat := d.val * 96 + ch % 96
def pickBus (b : HbmBusSt) (bus : HbmBus) : BusSt := match bus with | .row => b.row | .col => b.col
def putBus (b : HbmBusSt) (bus : HbmBus) (x : BusSt) : HbmBusSt := match bus with | .row => { b with row := x } | .col => { b with col := x }

/-- A refresh holds its bank's commands up for a free number of cycles; it changes no power state (05 R134; log 30). -/
def issueRefresh (s : State) (x : PChan) (bank : Nat) : PChan :=
  { x with refs := x.refs.filter (fun y => y.1 != bank) ++ [(bank, s.now + (Config.freeByte s.fresh).toNat)]
           due := x.due.filter (fun b => b != bank), idleFrom := x.idleFrom + 1 }
/-- One cycle of a command bus of channel `ch` of a die, whose pseudo-channels are 2 × ch and 2 × ch + 1 (log 30). The first
command after an exit is a sample of monitor source 2. -/
def busCycle (s : State) (d : DieId) (ch : Nat) (bus : HbmBus) : State :=
  let col := bus == .col
  let r : Bool → Option HbmCmd := fun h => readyCmd s (getPc s d (2 * ch + (if h then 1 else 0))) col
  let b := Sparse.get HbmBusSt.reset s.buses (chKey d ch)
  match (if islActive s d then arbitrate (pickBus b bus) (r false).isSome (r true).isSome else none) with
  | none => s
  | some (h, b') =>
    let pc := 2 * ch + (if h then 1 else 0)
    let x := getPc s d pc
    let granted : State → State := fun s => { s with buses := Sparse.set HbmBusSt.reset s.buses (chKey d ch) (putBus b bus b') }
    match r h with
    | none => s
    | some (.refresh k) => (setPc (granted s) d pc (issueRefresh s x k)).tickFresh
    | some (.request q) =>
      let s := match x.exitFrom with
        | some t => heard s d 2 pc (s.now - t)
        | none => s
      setPc (granted s) d pc (issueReq s x q col)
/-- HBM_COMMAND_ISSUE (05 R134, R135) on channel `unit`. -/
def execHbmCommandIssue (bus : HbmBus) (s : State) : Res1 := .next (busCycle s s.dsel (s.unit % 96) bus)

/-- HBM_REFRESH (05 R134, R135): bank `item` of pseudo-channel `unit` is to be refreshed. Its refresh is a row command, issued
now when the pseudo-channel is not exiting and the row bus grants it, and otherwise by a later command of the bus. -/
def execHbmRefresh (s : State) : Res1 :=
  let x := getPc s s.dsel s.unit
  .next (
    if !islActive s s.dsel then s
    else busCycle (setPc s s.dsel s.unit { x with due := if x.due.contains s.item then x.due else x.due ++ [s.item] })
      s.dsel (s.unit % 192 / 2) .row)

/-! ## Edges and islands (05 R127 to R131) -/

/-- EDGE_FAILURE (05 R128). -/
def execEdgeFailure (e : Edge) (s : State) : Res1 := .next (if s.edges.contains e then s else { s with edges := s.edges ++ [e] })

def edgeEnds : Edge → List DieId
  | .e01 => [0, 1] | .e02 => [0, 2] | .e13 => [1, 3] | .e23 => [2, 3]
/-- An island that has been reset; an edge serves again once both of its islands have been. -/
def resetEdges (s : State) (d : DieId) : State :=
  let marks := s.edgeRst ++ ((s.edges.filter fun e => (edgeEnds e).contains d).map fun e => (e, d))
  let whole : Edge → Bool := fun e => (edgeEnds e).all fun d => marks.contains (e, d)
  { s with edges := s.edges.filter fun e => !whole e, edgeRst := marks.filter fun m => !whole m.1 }

def inWindow (d : DieId) (pa : Nat) : Bool := pa / 0x40_0000_0000 == d.val
/-- The contents of a die's device memory and of its island are lost (05 R129, R130). The copies that L1s hold of lines homed
there go too, written ones and lines of host memory among them: DESIGN CHOICE (log 31). -/
def loseMemory (s : State) (d : DieId) : State :=
  let here : Nat → Bool := fun line => homeDie s 0 (line * 128) == d
  let drop : Core → Core := fun k => { k with l1 := k.l1.filter fun l => !here l.line }
  let s : State := { s with mem := s.mem.filter (fun x => !inWindow d x.1), tags := s.tags.filter (fun x => !inWindow d (x.1 * 16))
                            lines := s.lines.filter (fun x => !here x.1), poison := s.poison.filter (fun x => !inWindow d (x.1 * 128))
                            dsets := s.dsets.filter (fun x => x.1 / 2 ^ 17 != d.val)
                            crc := s.crc.filter (fun x => !inWindow d (x.1 * 4096)), homeTab := s.homeTab.filter (fun a => a.home != d)
                            pchans := s.pchans.filter (fun x => x.1 / 192 != d.val), buses := s.buses.filter (fun x => x.1 / 96 != d.val)
                            cores := s.cores.map drop }
  s.modDie d fun x => { x with pulls := Vector.replicate 64 Pull.idle, turn := 0 }
/-- ISLAND_STATE_CHANGE (05 R128 to R130) of the die named. An island that was off or faulty comes back reset. -/
def execIslandStateChange (st : IslState) (s : State) : Res1 :=
  let d := s.dsel
  let old := (s.die d).isl
  let s := s.modDie d fun x => { x with isl := st }
  .next (match st with
    | .active =>
      if old = .off ∨ old = .fault then
        (resetEdges s d).modDie d fun x =>
          { x with hdie := Die.reset.hdie, pdidle := Die.reset.pdidle, sridle := Die.reset.sridle, evts := Die.reset.evts }
      else s
    | .retain =>
      let s := (List.range 192).foldl (fun s pc => setPc s d pc { getPc s d pc with power := .selfRefresh, exitFrom := none, reqs := [], due := [] }) s
      { s with dsets := s.dsets.map fun x => if x.1 / 2 ^ 17 = d.val then (x.1, { x.2 with dirty := [] }) else x }
    | .off | .fault => loseMemory s d)

/-! ## Core domains (05 R129) -/

/-- GV updates that a die's cores have sent are performed by the islands; their answers find no core (05 R129). -/
def flushGv (s : State) (d : DieId) : State :=
  let s := (dieCores d).foldl (fun s c => match execGvUpdateAtHome (s.onCore c) with
    | .next t => t.onCore s.cur
    | _ => s) s
  { s with gv := s.gv.filter fun g => coreDie g.core != d }
/-- The cores, the slice, the engines and the Pointer of a die as they are after reset; what they held is lost. The governor
and the GV logic are the island's: ticks go on, and nobody waits for them. A core's atomics go on being numbered, since the
homes remember them (log 57). -/
def resetDomain (s : State) (d : DieId) : State :=
  let s := flushGv s d
  let s := (dieCores d).foldl (fun s c => s.setCore c { Core.reset with txn := (s.core c).txn }) s
  let s := allEngines.foldl (fun s e => if engineDie e = d then { s with engines := s.engines.set e [], engTlb := s.engTlb.set e [] } else s) s
  let here : CoreId → Bool := fun c => coreDie c == d
  let gone : Nat → Bool := fun gid => s.grids.any fun g => g.gid == gid && g.qdie == d
  let mine : Nat → Bool := fun q => (s.die d).qslots.any fun o => match o with | some x => x.q == q | none => false
  let s : State := { s with saved := s.saved.filter (fun x => x.die != d)
                            invs := s.invs.filter (fun i => !here i.core)
                            ticks := (s.ticks.filter fun t => !(here t.core && t.done)).map fun t =>
                              if here t.core then { t with waits := false } else t
                            dies := s.dies.map fun x => { x with ready := x.ready.filter fun e => e.uid.isSome || !gone e.gid }
                            dones := s.dones.filter fun c => !here c
                            launched := s.launched.filter fun l => !mine l.q
                            grids := s.grids.filter fun g => g.qdie != d }
  s.modDie d fun x =>
    { x with walkQ := [], walkCache := [], qtbase := 0, plbase := 0, dbghalt := 0, qslots := [], pendq := [], ready := [], faultList := []
             flwait := [], preReq := none, slotsUsed := [], noSlot := [], ptr := [], coll := [], groups := [] }
/-- The entries of a die whose domain stops go back to the slices that sent them, and it takes them again when it runs, in the
order of the dies (18 R443). -/
def domainState (s : State) (d : DieId) (st : DomState) : State :=
  let s := s.modDie d fun x => { x with dom := st }
  match st with
  | .running =>
    let mine : Ready → Bool := fun e => e.die == d && e.uid.isNone
    let others := allDies.filter fun v => v != d
    let sent := others.flatMap fun v => (s.die v).ready.filter mine
    (others.foldl (fun s v => s.modDie v fun x => { x with ready := x.ready.filter fun e => !mine e }) s).modDie d fun x =>
      { x with ready := x.ready ++ sent }
  | .inReset | .off =>
    let back := (s.die d).ready.filterMap fun e => if e.uid.isSome then none
      else (s.grids.find? fun g => g.gid == e.gid && g.qdie != d).map fun g => (g.qdie, e)
    back.foldl (fun s x => s.modDie x.1 fun y => { y with ready := y.ready ++ [x.2] }) (resetDomain s d)
/-- CORE_DOMAIN_STATE_CHANGE (05 R129, Table 5.5) of the die named. -/
def execCoreDomainStateChange (st : DomState) (s : State) : Res1 := .next (domainState s s.dsel st)

end Sys2Proof.Machine
end

