-- ==== Sys2Proof/Machine/Pulls.lean ====
section
/-!
DEFINITION. Page pulls (spec 05 R138 to R142): entry `item` of the die named.
-/

namespace Sys2Proof.Machine

def pullLines (p : Pull) : Nat := if p.size = 1 then 16384 else 32
def pullBytes (p : Pull) : Nat := 128 * pullLines p
def pullNo (n : Nat) : Fin 64 := Fin.ofNat 64 n
/-- An entry that is neither idle, done nor error. -/
def Pull.busy (p : Pull) : Bool := p.state == 1 || p.state == 2

/-- The runs of device or host memory that hold an aligned frame: a 2 MiB frame of the interleaved alias lies on every die. -/
def frameRuns (a n : Nat) : List (Nat × Nat) :=
  if resolvePa a = a ∨ n ≤ 4096 then [(resolvePa a, n)] else (List.range 4).map fun i => (resolvePa (a + 4096 * i), n / 4)
/-- Two frames overlap. -/
def framesMeet (a an b bn : Nat) : Bool :=
  (frameRuns a an).any fun x => (frameRuns b bn).any fun y => decide (x.1 < y.1 + y.2) && decide (y.1 < x.1 + x.2)
/-- ECAUSE of a registration that fails (05 R139). -/
def pullRefused (s : State) (d : DieId) (n : Fin 64) : Option Nat :=
  let p := (s.die d).pulls.get n
  let home := match target p.newPa with | .dev _ | .host => homeDie s d p.newPa == d | _ => false
  if !home || (frameRuns p.newPa (pullBytes p)).length != 1 || p.newPa % pullBytes p != 0 || p.oldPa % pullBytes p != 0 || !inDev p.ptePa then some 1
  else
    let clash : Pull → Bool := fun q =>
      q.busy && (framesMeet p.newPa (pullBytes p) q.newPa (pullBytes q)
        || framesMeet p.newPa (pullBytes p) q.oldPa (pullBytes q)
        || framesMeet p.oldPa (pullBytes p) q.newPa (pullBytes q)
        || framesMeet p.oldPa (pullBytes p) q.oldPa (pullBytes q))
    if allDies.any fun e => (List.finRange 64).any fun m => !(e == d && m == n) && clash ((s.die e).pulls.get m) then some 2 else none

/-- PULL_REGISTER (05 R139). A registered or running entry ignores the command. -/
def execPullRegister (s : State) : Res1 :=
  let d := s.dsel
  let n := pullNo s.item
  .next (
    if ((s.die d).pulls.get n).busy then s
    else match pullRefused s d n with
      | some c => raiseInt (modPull s d n fun p => { p with state := 4, cause := BitVec.ofNat 9 c, pulled := 0, bitmap := [] }) d 2
      | none => modPull s d n fun p => { p with state := 1, cause := 0, pulled := 0, bitmap := [] })
/-- PULL_START (05 R139, R142). -/
def execPullStart (s : State) : Res1 :=
  .next (modPull s s.dsel (pullNo s.item) fun p =>
    if p.state = 1 ∨ (p.state = 4 ∧ p.cause = 3) then { p with state := 2, cause := 0 } else p)
/-- PULL_CANCEL (05 R139). -/
def execPullCancel (s : State) : Res1 :=
  .next (modPull s s.dsel (pullNo s.item) fun p => if p.state = 1 then { p with state := 0 } else p)

/-- Line i of a running entry, or the entry's error; it waits while the host may hold the line. -/
def pullAt (s : State) (d : DieId) (n : Fin 64) (i : Nat) : State :=
  let p := (s.die d).pulls.get n
  if p.state ≠ 2 ∨ p.bitmap.contains i ∨ pullLines p ≤ i then s
  else if !pullReadable s d (p.oldPa + 128 * i) then pullFail s d n
  else match hostFree s (resolvePa p.newPa / 128 + i) with
    | .ok s => pullLine s d n i
    | .error (.wait m) => s.noted m
    | .error (.cause m _ _) => s.noted m
/-- PULL_FIRST_TOUCH (05 R140): physical line `item` of a running entry is read from the old frame and installed. -/
def execPullFirstTouch (s : State) : Res1 :=
  .next (match pullOf s s.item with
    | some (d, n, i) => pullAt s d n i
    | none => s)

def nextUnpulled (p : Pull) : Option Nat := (List.range (pullLines p)).find? fun i => !p.bitmap.contains i
/-- The running entry whose turn it is. -/
def pullTurn (x : Die) : Option (Fin 64) :=
  ((List.range 64).map fun i => pullNo (x.turn + i)).find? fun n =>
    (x.pulls.get n).state == 2 && decide ((x.pulls.get n).pulled < pullLines (x.pulls.get n))
/-- PULL_BACKGROUND_LINE (05 R141). -/
def execPullBackgroundLine (s : State) : Res1 :=
  let d := s.dsel
  .next (match pullTurn (s.die d) with
    | none => s
    | some n =>
      let s := s.modDie d fun x => { x with turn := n.val + 1 }
      match nextUnpulled ((s.die d).pulls.get n) with
      | some i => pullAt s d n i
      | none => s)

def pullComplete (p : Pull) : Bool := p.state == 2 && decide (pullLines p ≤ p.pulled)
/-- PULL_COMPLETE (05 R141): the PTE's pull bit, STATE, the interrupt. The entry stays running while the PTE's home cannot
serve the update (log 31). -/
def execPullComplete (s : State) : Res1 :=
  let d := s.dsel
  let n := pullNo s.item
  let p := (s.die d).pulls.get n
  .next (
    if !pullComplete p then s
    else match (do
        let (s, x) ← physRead s d p.ptePa 8
        physWrite s d p.ptePa 8 (if x.testBit 61 then x - 2 ^ 61 else x) : HOp State) with
      | .ok s2 => raiseInt (modPull s2 d n fun p => { p with state := 3 }) d 2
      | .error (.wait m) => s.noted m
      | .error (.cause m _ _) => s.noted m)

/-- PULL_SOURCE_FAILURE (05 R142): a running entry whose next line cannot be read from the old frame. -/
def execPullSourceFailure (s : State) : Res1 :=
  let d := s.dsel
  let n := pullNo s.item
  let p := (s.die d).pulls.get n
  .next (match nextUnpulled p with
    | some i => if p.state = 2 ∧ !pullReadable s d (p.oldPa + 128 * i) then pullFail s d n else s
    | none => s)

end Sys2Proof.Machine
end

