-- ==== Sys2Proof/Decode.lean ====
section
/-!
DEFINITION. Decoding of bundles and slots (spec 10 Tables 10.2 to 10.9; 11 to 14), total on every bit
pattern, refusing by the reason of 10 Table 10.12; then the encoder, from the same tables.
-/

namespace Sys2Proof

/-- Why a slot's encoding is refused: a class 1 reason (10 Table 10.12), the atomic of class 17 detail 1
(13 R329), or a class 7 reason found in a copy slot's own fields (13 R336, R339). -/
inductive EncErr where
  | opcode | operand | unused | rounding | format | range | row
  | atomWidth (g : Guard)
  | copy (reason : BitVec 4) (coll : Bool)
  deriving DecidableEq, Repr

/-- EINFO[3:0] of a class 1 fault. -/
def EncErr.reason : EncErr → BitVec 4
  | .opcode => 0 | .operand => 1 | .unused => 2 | .rounding => 3 | .format => 4 | .range => 5 | .row => 6
  | .atomWidth _ => 0
  | .copy r _ => r

abbrev Dec := Except EncErr (Option Instr)

/-- Continue when the condition holds, otherwise refuse. -/
def need (ok : Bool) (e : EncErr) (k : Dec) : Dec := if ok then k else .error e

/-! ## Slot fields (10 Table 10.6) -/

structure SRaw where
  (op : BitVec 8) (g : Guard) (d a b : BitVec 5) (imm : BitVec 21)
  deriving DecidableEq, Repr
structure LRaw where
  (op : BitVec 7) (g : Guard) (d : BitVec 6) (cap : BitVec 4) (idx : BitVec 5) (off : BitVec 22)
  deriving DecidableEq, Repr
structure XRaw where
  (op : BitVec 2) (s v : BitVec 5)
  deriving DecidableEq, Repr
structure VRaw where
  (op : BitVec 9) (mask : BitVec 8) (p : BitVec 3) (d a b c : BitVec 6) (fmt : BitVec 4) (mod : BitVec 8)
  deriving DecidableEq, Repr
structure MRaw where
  (op : BitVec 6) (tile : BitVec 5) (a b : BitVec 4) (ta tb ra rb mc zf smp du ch : Bool) (zero : BitVec 12)
  deriving DecidableEq, Repr
structure CRaw where
  (op : BitVec 6) (sf : BitVec 5) (d : BitVec 4) (flags : BitVec 8) (imm : BitVec 17)
  deriving DecidableEq, Repr

def SRaw.ofBits (w : BitVec 48) : SRaw :=
  ⟨w.extractLsb' 40 8, w.extractLsb' 36 4, w.extractLsb' 31 5, w.extractLsb' 26 5, w.extractLsb' 21 5, w.extractLsb' 0 21⟩
def SRaw.toBits (r : SRaw) : BitVec 48 := r.op ++ r.g ++ r.d ++ r.a ++ r.b ++ r.imm
def LRaw.ofBits (w : BitVec 48) : LRaw :=
  ⟨w.extractLsb' 41 7, w.extractLsb' 37 4, w.extractLsb' 31 6, w.extractLsb' 27 4, w.extractLsb' 22 5, w.extractLsb' 0 22⟩
def LRaw.toBits (r : LRaw) : BitVec 48 := r.op ++ r.g ++ r.d ++ r.cap ++ r.idx ++ r.off
def XRaw.ofBits (w : BitVec 12) : XRaw := ⟨w.extractLsb' 10 2, w.extractLsb' 5 5, w.extractLsb' 0 5⟩
def XRaw.toBits (r : XRaw) : BitVec 12 := r.op ++ r.s ++ r.v
def VRaw.ofBits (w : BitVec 56) : VRaw :=
  ⟨w.extractLsb' 47 9, w.extractLsb' 39 8, w.extractLsb' 36 3, w.extractLsb' 30 6, w.extractLsb' 24 6, w.extractLsb' 18 6,
   w.extractLsb' 12 6, w.extractLsb' 8 4, w.extractLsb' 0 8⟩
def VRaw.toBits (r : VRaw) : BitVec 56 := r.op ++ r.mask ++ r.p ++ r.d ++ r.a ++ r.b ++ r.c ++ r.fmt ++ r.mod
def MRaw.ofBits (w : BitVec 40) : MRaw :=
  ⟨w.extractLsb' 34 6, w.extractLsb' 29 5, w.extractLsb' 25 4, w.extractLsb' 21 4, w.getLsbD 20, w.getLsbD 19, w.getLsbD 18,
   w.getLsbD 17, w.getLsbD 16, w.getLsbD 15, w.getLsbD 14, w.getLsbD 13, w.getLsbD 12, w.extractLsb' 0 12⟩
def MRaw.toBits (r : MRaw) : BitVec 40 :=
  r.op ++ r.tile ++ r.a ++ r.b ++ BitVec.ofBool r.ta ++ BitVec.ofBool r.tb ++ BitVec.ofBool r.ra ++ BitVec.ofBool r.rb
    ++ BitVec.ofBool r.mc ++ BitVec.ofBool r.zf ++ BitVec.ofBool r.smp ++ BitVec.ofBool r.du ++ BitVec.ofBool r.ch ++ r.zero
def CRaw.ofBits (w : BitVec 40) : CRaw :=
  ⟨w.extractLsb' 34 6, w.extractLsb' 29 5, w.extractLsb' 25 4, w.extractLsb' 17 8, w.extractLsb' 0 17⟩
def CRaw.toBits (r : CRaw) : BitVec 40 := r.op ++ r.sf ++ r.d ++ r.flags ++ r.imm

/-! ## Operand codes -/

/-- Table 2.3; the reserved codes are refused (reason 3). -/
def RMode.ofBits (c : BitVec 3) : Option RMode :=
  match c.toNat with
  | 0 => some .rne | 1 => some .rtz | 2 => some .rup | 3 => some .rdn | 4 => some .sr | 5 => some .dyn
  | _ => none
def RMode.toBits : RMode → BitVec 3
  | .rne => 0 | .rtz => 1 | .rup => 2 | .rdn => 3 | .sr => 4 | .dyn => 5

/-- Table 10.7, with 0xD and 0xE for SFCVT (11 R262). -/
def Fmt.ofBits (c : BitVec 4) : Option Fmt :=
  match c.toNat with
  | 0 => some .f32 | 1 => some .bf16 | 2 => some .f16 | 3 => some .e4m3 | 4 => some .e5m2 | 5 => some .mxf4 | 6 => some .ps2
  | 7 => some .i8 | 8 => some .i16 | 9 => some .i32 | 10 => some .n8 | 11 => some .n16 | 12 => some .n32 | 13 => some .i64
  | 14 => some .n64
  | _ => none
def Fmt.toBits : Fmt → BitVec 4
  | .f32 => 0 | .bf16 => 1 | .f16 => 2 | .e4m3 => 3 | .e5m2 => 4 | .mxf4 => 5 | .ps2 => 6 | .i8 => 7 | .i16 => 8 | .i32 => 9
  | .n8 => 10 | .n16 => 11 | .n32 => 12 | .i64 => 13 | .n64 => 14

def Width.ofBits (c : BitVec 2) : Width :=
  match c.toNat with | 0 => .w8 | 1 => .w16 | 2 => .w32 | _ => .w64
def Width.toBits : Width → BitVec 2
  | .w8 => 0 | .w16 => 1 | .w32 => 2 | .w64 => 3

/-- Source codes of Table 10.5. -/
def VSrc.ofBits (c : BitVec 6) : Option VSrc :=
  if c.toNat < 32 then some (.reg (c.extractLsb' 0 5))
  else if c.toNat = 32 then some .v0l
  else if c.toNat = 33 then some .v1l
  else if c.toNat = 35 then some .zero
  else if 40 ≤ c.toNat ∧ c.toNat < 56 then some (.pop (BitVec.ofNat 4 (c.toNat - 40)))
  else none
def VSrc.toBits : VSrc → BitVec 6
  | .reg n => n.setWidth 6 | .v0l => 32 | .v1l => 33 | .zero => 35 | .pop q => BitVec.ofNat 6 (40 + q.toNat)

/-- Destination codes of Table 10.5. -/
def VDst.ofBits (c : BitVec 6) : Option VDst :=
  if c.toNat < 32 then some (.reg (c.extractLsb' 0 5))
  else if c.toNat = 32 then some .latch
  else if 40 ≤ c.toNat ∧ c.toNat < 56 then some (.push (BitVec.ofNat 4 (c.toNat - 40)))
  else none
def VDst.toBits : VDst → BitVec 6
  | .reg n => n.setWidth 6 | .latch => 32 | .push q => BitVec.ofNat 6 (40 + q.toNat)

def RowBase.ofBits (c : BitVec 6) : Option RowBase :=
  if c.toNat < 32 then some (.reg (c.extractLsb' 0 5)) else if c.toNat = 35 then some .zero else none
def RowBase.toBits : RowBase → BitVec 6
  | .reg n => n.setWidth 6 | .zero => 35

def Buf.ofBits (c : BitVec 2) : Option Buf :=
  match c.toNat with | 1 => some .abuf | 2 => some .wbuf | 3 => some .cbuf | _ => none
def Buf.toBits : Buf → BitVec 2
  | .abuf => 1 | .wbuf => 2 | .cbuf => 3

def Cond.ofBits (c : BitVec 3) : Option Cond :=
  match c.toNat with
  | 0 => some .eq | 1 => some .ne | 2 => some .lt | 3 => some .le | 4 => some .un | 5 => some .ord | _ => none
def Cond.toBits : Cond → BitVec 3
  | .eq => 0 | .ne => 1 | .lt => 2 | .le => 3 | .un => 4 | .ord => 5

def BCond.ofBits (c : BitVec 5) : Option BCond :=
  match c.toNat with
  | 0 => some .eqz | 1 => some .nez | 2 => some .ltz | 3 => some .gez | 4 => some .gtz | 5 => some .lez | _ => none
def BCond.toBits : BCond → BitVec 5
  | .eqz => 0 | .nez => 1 | .ltz => 2 | .gez => 3 | .gtz => 4 | .lez => 5

/-- Continue with a decoded operand, or refuse. -/
def withO {α : Type} (o : Option α) (e : EncErr) (k : α → Dec) : Dec :=
  match o with | some x => k x | none => .error e

def ok (i : Instr) : Dec := .ok (some i)

/-! ## S slot (10 Table 10.8; 11) -/

/-- A and B with I = imm[20] (11 R255). -/
def dSSrc (r : SRaw) (k : SSrc → Dec) : Dec :=
  if r.imm.getLsbD 20 then need (r.b == 0) .unused (k (.imm (r.imm.extractLsb' 0 20)))
  else need (r.imm.extractLsb' 0 20 == 0#20) .unused (k (.reg r.b))
def dAlu (mk : SAlu → Instr) (r : SRaw) : Dec := dSSrc r fun b => ok (mk ⟨r.g, r.d, r.a, b⟩)
def dReg3 (mk : SReg3 → Instr) (r : SRaw) : Dec := need (r.imm == 0) .unused (ok (mk ⟨r.g, r.d, r.a, r.b⟩))
def dFun (mk : SFun → Instr) (r : SRaw) : Dec :=
  need (r.imm.extractLsb' 6 15 == 0#15) .unused (ok (mk ⟨r.g, r.d, r.a, r.b, r.imm.extractLsb' 0 6⟩))
def dWid (mk : SWid → Instr) (r : SRaw) : Dec :=
  need (r.b == 0 && r.imm.extractLsb' 2 19 == 0#19) .unused (ok (mk ⟨r.g, r.d, r.a, .ofBits (r.imm.extractLsb' 0 2)⟩))
def dCmp (mk : SCmp → Instr) (r : SRaw) : Dec :=
  need (r.d.extractLsb' 3 2 == 0#2) .operand <| dSSrc r fun b => ok (mk ⟨r.g, r.d.extractLsb' 0 3, r.a, b⟩)
/-- Rounding code of a scalar float slot: SR is refused (11 R260). -/
def dRmS (c : BitVec 3) (k : RMode → Dec) : Dec :=
  withO (RMode.ofBits c) .rounding fun m => need (m != .sr) .rounding (k m)
def dFltFmt (c : BitVec 4) (k : Fmt → Dec) : Dec :=
  withO (Fmt.ofBits c) .format fun f => need f.isFlt .format (k f)
def dFlt (mk : SFlt → Instr) (r : SRaw) : Dec :=
  need (r.imm.extractLsb' 13 8 == 0#8 && r.imm.extractLsb' 8 4 == 0#4) .unused <|
  dRmS (r.imm.extractLsb' 0 3) fun m => dFltFmt (r.imm.extractLsb' 4 4) fun f =>
    ok (mk ⟨r.g, r.d, r.a, r.b, f, m, r.imm.getLsbD 3, r.imm.getLsbD 12⟩)
def dFma (mk : SFma → Instr) (r : SRaw) : Dec :=
  need (r.imm.extractLsb' 14 7 == 0#7 && r.imm.extractLsb' 8 4 == 0#4) .unused <|
  dRmS (r.imm.extractLsb' 0 3) fun m => dFltFmt (r.imm.extractLsb' 4 4) fun f =>
    ok (mk ⟨r.g, r.d, r.a, r.b, f, m, r.imm.getLsbD 3, r.imm.getLsbD 12, r.imm.getLsbD 13⟩)
def dCvt (r : SRaw) : Dec :=
  need (r.b == 0 && r.imm.extractLsb' 12 9 == 0#9) .unused <|
  dRmS (r.imm.extractLsb' 0 3) fun m =>
  withO (Fmt.ofBits (r.imm.extractLsb' 4 4)) .format fun s => withO (Fmt.ofBits (r.imm.extractLsb' 8 4)) .format fun d =>
  need (s.sfcvt && d.sfcvt) .format (ok (.sfcvt ⟨r.g, r.d, r.a, s, d, m, r.imm.getLsbD 3⟩))
def dFcmp (r : SRaw) : Dec :=
  need (r.d.extractLsb' 3 2 == 0#2) .operand <|
  need (r.imm.extractLsb' 11 10 == 0#10 && r.imm.extractLsb' 0 4 == 0#4) .unused <|
  dFltFmt (r.imm.extractLsb' 4 4) fun f => withO (Cond.ofBits (r.imm.extractLsb' 8 3)) .range fun c =>
    ok (.sfcmp ⟨r.g, r.d.extractLsb' 0 3, r.a, r.b, f, c⟩)
/-- A capability named by a 5-bit field (11 R269). -/
def dCapF (x : BitVec 5) (k : CReg → Dec) : Dec := need (x.extractLsb' 4 1 == 0#1) .operand (k (x.extractLsb' 0 4))
def dDesc (md : Bool) (r : SRaw) : Dec :=
  dCapF r.d fun d =>
  need (r.b == 0) .unused <|
  if r.imm.getLsbD 20 then
    dCapF r.a fun a =>
    if md then need (r.imm.extractLsb' 0 20 == 0#20) .unused (ok (.mdsetCap ⟨r.g, d, a⟩))
    else need (r.imm.extractLsb' 1 19 == 0#19) .unused (ok (.cdsetCap ⟨r.g, d, r.imm.getLsbD 0, a⟩))
  else
    need (r.imm.extractLsb' 2 18 == 0#18) .unused <|
    if md then need (r.imm.extractLsb' 1 1 == 0#1) .range (ok (.mdsetWord ⟨r.g, d, r.imm.extractLsb' 0 1, r.a⟩))
    else ok (.cdsetWord ⟨r.g, d, r.imm.extractLsb' 0 2, r.a⟩)

def decodeSRaw (r : SRaw) : Dec :=
  match r.op.toNat with
  | 0x00 => need (r.toBits == 0) .opcode (.ok none)
  | 0x01 => dAlu .add r
  | 0x02 => need (r.b == 0) .unused (ok (.addi ⟨r.g, r.d, r.a, r.imm⟩))
  | 0x03 => dAlu .sub r
  | 0x04 => dReg3 .mul r
  | 0x05 => dReg3 .mulh r
  | 0x06 => dReg3 .mulhn r
  | 0x07 => dReg3 .div r
  | 0x08 => dReg3 .divn r
  | 0x09 => dReg3 .mod r
  | 0x0A => dReg3 .modn r
  | 0x0B => dAlu .and r
  | 0x0C => dAlu .or r
  | 0x0D => dAlu .xor r
  | 0x0E => dAlu .andn r
  | 0x0F => dAlu .shl r
  | 0x10 => dAlu .shr r
  | 0x11 => dAlu .shra r
  | 0x12 => dAlu .rotl r
  | 0x13 => dFun .fshl r
  | 0x14 => dFun .fshr r
  | 0x15 => dWid .clz r
  | 0x16 => dWid .ctz r
  | 0x17 => dWid .popc r
  | 0x18 => dAlu .min r
  | 0x19 => dAlu .max r
  | 0x1A => dAlu .minn r
  | 0x1B => dAlu .maxn r
  | 0x1C => dWid .sext r
  | 0x1D => dWid .zext r
  | 0x1E => need (r.a == 0 && r.b == 0) .unused (ok (.li ⟨r.g, r.d, r.imm⟩))
  | 0x1F => need (r.b == 0 && r.imm.extractLsb' 18 3 == 0#3) .unused
      (ok (.lih ⟨r.g, r.d, r.a, r.imm.extractLsb' 0 16, r.imm.extractLsb' 16 2⟩))
  | 0x20 => need (r.b == 0 && r.imm == 0) .unused (ok (.mov ⟨r.g, r.d, r.a⟩))
  | 0x21 => need (r.imm.extractLsb' 4 17 == 0#17) .unused (ok (.sel ⟨r.g, r.d, r.a, r.b, r.imm.extractLsb' 0 4⟩))
  | 0x22 => dCmp .cmpeq r
  | 0x23 => dCmp .cmpne r
  | 0x24 => dCmp .cmplt r
  | 0x25 => dCmp .cmple r
  | 0x26 => dCmp .cmpltn r
  | 0x27 => dCmp .cmplen r
  | 0x30 => dFlt .sfadd r
  | 0x31 => dFlt .sfmul r
  | 0x32 => dFma .sffma r
  | 0x33 => dCvt r
  | 0x34 => dFcmp r
  | 0x40 => need (r.d == 0 && r.a == 0 && r.b == 0) .unused (ok (.br ⟨r.g, r.imm⟩))
  | 0x41 => need (r.d == 0) .unused <| withO (BCond.ofBits r.b) .range fun c => ok (.brc ⟨r.g, r.a, c, r.imm⟩)
  | 0x42 => need (r.a == 0 && r.b == 0) .unused (ok (.call ⟨r.g, r.d, r.imm⟩))
  | 0x43 => need (r.d == 0 && r.b == 0 && r.imm == 0) .unused (ok (.ret ⟨r.g, r.a⟩))
  | 0x44 => need (r.d == 0 && r.b == 0) .unused (ok (.jmpi ⟨r.g, r.a, r.imm⟩))
  | 0x45 => need (r.d.extractLsb' 2 3 == 0#3 && r.imm.extractLsb' 5 2 == 0#2) .unused
      (ok (.loop ⟨r.g, r.d.extractLsb' 0 2, r.a, r.b, r.imm.extractLsb' 9 12, r.imm.extractLsb' 7 2, r.imm.extractLsb' 0 5⟩))
  | 0x46 => need (r.d == 0 && r.a == 0 && r.b == 0 && r.imm.extractLsb' 1 20 == 0#20) .unused
      (ok (if r.imm.getLsbD 0 then .lbreakDrain ⟨r.g⟩ else .lbreak ⟨r.g⟩))
  | 0x50 => dCapF r.d fun d => dCapF r.a fun a => need (r.imm.extractLsb' 5 16 == 0#16) .unused
      (ok (.cnarrow ⟨r.g, d, a, r.b, r.imm.extractLsb' 0 5⟩))
  | 0x51 => dCapF r.d fun d => dCapF r.a fun a => need (r.b == 0 && r.imm.extractLsb' 7 14 == 0#14) .unused
      (ok (.cperm ⟨r.g, d, a, r.imm.extractLsb' 0 7⟩))
  | 0x52 => dCapF r.a fun a => need (r.b == 0 && r.imm == 0) .unused (ok (.cgetb ⟨r.g, r.d, a⟩))
  | 0x53 => dCapF r.a fun a => need (r.b == 0 && r.imm == 0) .unused (ok (.cgetl ⟨r.g, r.d, a⟩))
  | 0x54 => dCapF r.a fun a => need (r.b == 0 && r.imm == 0) .unused (ok (.cgeth ⟨r.g, r.d, a⟩))
  | 0x55 => need (r.d.extractLsb' 3 2 == 0#2) .operand <| dCapF r.a fun a =>
      need (r.b == 0 && r.imm.extractLsb' 7 14 == 0#14) .unused
      (ok (.ctest ⟨r.g, r.d.extractLsb' 0 3, a, r.imm.extractLsb' 0 7⟩))
  | 0x56 => dCapF r.d fun d => dCapF r.a fun a => need (r.b == 0 && r.imm == 0) .unused (ok (.cmov ⟨r.g, d, a⟩))
  | 0x58 => dDesc true r
  | 0x59 => dDesc false r
  | 0x60 => need (r.d == 0 && r.a == 0 && r.b == 0 && r.imm.extractLsb' 4 17 == 0#17) .unused
      (ok (.trap ⟨r.g, r.imm.extractLsb' 0 4⟩))
  | 0x61 => need (r.d == 0 && r.a == 0 && r.b == 0 && r.imm == 0) .unused (ok (.rett ⟨r.g⟩))
  | 0x62 => need (r.a == 0 && r.b == 0 && r.imm.extractLsb' 12 9 == 0#9) .unused <|
      need (sysNumOk (r.imm.extractLsb' 0 12)) .operand (ok (.mfsr ⟨r.g, r.d, r.imm.extractLsb' 0 12⟩))
  | 0x63 => need (r.d == 0 && r.b == 0 && r.imm.extractLsb' 12 9 == 0#9) .unused <|
      need (sysNumOk (r.imm.extractLsb' 0 12)) .operand (ok (.mtsr ⟨r.g, r.a, r.imm.extractLsb' 0 12⟩))
  | _ => .error .opcode

/-! ## L slot (10 Table 10.8; 11 R278 to R287; 13 Table 13.1) -/

/-- A scalar code: d[5] zero. -/
def dScal (r : LRaw) (k : SReg → Dec) : Dec := need (!r.d.getLsbD 5) .operand (k (r.d.extractLsb' 0 5))
def lM (r : LRaw) : MAddr := ⟨r.cap, r.idx, r.off⟩
def lM17 (r : LRaw) : MAddr17 := ⟨r.cap, r.idx, r.off.extractLsb' 0 17⟩
def lM10 (r : LRaw) : MAddr10 := ⟨r.cap, r.idx, r.off.extractLsb' 0 10⟩
def lEv (r : LRaw) : EvOp := ⟨r.idx, r.off⟩
def dLs (mk : LScal → Instr) (r : LRaw) : Dec := dScal r fun d => ok (mk ⟨r.g, d, lM r⟩)
def dAtom (mk : LAtom → Instr) (r : LRaw) : Dec := dScal r fun d => ok (mk ⟨r.g, d, lM17 r, r.off.extractLsb' 17 5⟩)
def dCapD (r : LRaw) (k : CReg → Dec) : Dec := need (r.d.extractLsb' 4 2 == 0#2) .operand (k (r.d.extractLsb' 0 4))
/-- Rounding code of a memory slot. -/
def dRm (c : BitVec 3) (k : RMode → Dec) : Dec := withO (RMode.ofBits c) .rounding k
def dProbe (r : LRaw) : Dec :=
  dScal r fun d =>
  let o : LProbe := ⟨r.g, d, lM10 r, r.off.extractLsb' 10 10⟩
  match (r.off.extractLsb' 20 2).toNat with
  | 0 => ok (.probeLookup o) | 1 => ok (.probePin o) | 2 => ok (.probeUnpin o) | _ => .error .range
def dStvSrc (r : LRaw) (k : VSrc → Dec) : Dec :=
  withO (VSrc.ofBits r.d) .operand fun v => need v.noPop .operand (k v)

def decodeLRaw (r : LRaw) : Dec :=
  match r.op.toNat with
  | 0x00 => need (r.toBits == 0) .opcode (.ok none)
  | 0x01 => dLs .ldI8 r
  | 0x02 => dLs .ldN8 r
  | 0x03 => dLs .ldI16 r
  | 0x04 => dLs .ldN16 r
  | 0x05 => dLs .ldI32 r
  | 0x06 => dLs .ldN32 r
  | 0x07 => dLs .ldI64 r
  | 0x08 => dLs .stI8 r
  | 0x09 => dLs .stI16 r
  | 0x0A => dLs .stI32 r
  | 0x0B => dLs .stI64 r
  | 0x0C => dScal r fun d =>
      if r.off.getLsbD 21 then dRm (r.off.extractLsb' 18 3) fun m => ok (.ldvCvt ⟨r.g, d, lM17 r, m, r.off.getLsbD 17⟩)
      else need (r.off.extractLsb' 17 4 == 0#4) .unused (ok (.ldv ⟨r.g, d, lM17 r⟩))
  | 0x0D => dStvSrc r fun v =>
      if r.off.getLsbD 21 then dRm (r.off.extractLsb' 18 3) fun m => ok (.stvCvt ⟨r.g, v, lM17 r, m, r.off.getLsbD 17⟩)
      else need (r.off.extractLsb' 17 4 == 0#4) .unused (ok (.stv ⟨r.g, v, lM17 r⟩))
  | 0x0E => withO (VDst.ofBits r.d) .operand fun d => need (d != .latch) .operand (ok (.ldvu ⟨r.g, d, lM r⟩))
  | 0x0F => withO (VSrc.ofBits r.d) .operand fun v => ok (.stvm ⟨r.g, v, lM17 r, r.off.extractLsb' 17 5⟩)
  | 0x10 => dCapD r fun c => ok (.cld ⟨r.g, c, lM r⟩)
  | 0x11 => dCapD r fun c => ok (.cst ⟨r.g, c, lM r⟩)
  | 0x12 =>
      need (!r.d.getLsbD 4) .unused <|
      if r.d.getLsbD 5 then
        ok (.ldblk ⟨r.g, r.d.extractLsb' 0 4, r.off.extractLsb' 15 7, lM10 r, some (r.off.extractLsb' 10 5)⟩)
      else need (r.off.extractLsb' 10 5 == 0#5) .unused
        (ok (.ldblk ⟨r.g, r.d.extractLsb' 0 4, r.off.extractLsb' 15 7, lM10 r, none⟩))
  | 0x13 => need (r.d.extractLsb' 4 2 == 0#2 && r.cap == 0 && r.idx == 0 && r.off == 0) .unused
      (ok (.blkrel ⟨r.g, r.d.extractLsb' 0 4⟩))
  | 0x14 => need (r.d.extractLsb' 4 2 == 0#2 && r.cap == 0 && r.idx == 0 && r.off == 0) .unused
      (ok (.blkwait ⟨r.g, r.d.extractLsb' 0 4⟩))
  | 0x15 => need (r.d.extractLsb' 1 5 == 0#5) .unused (ok (.pref ⟨r.g, lM r, r.d.getLsbD 0⟩))
  | 0x16 => dProbe r
  | 0x18 => dAtom .amoaddI32 r
  | 0x19 => dAtom .amoaddI64 r
  | 0x1A => dAtom .amominI32 r
  | 0x1B => dAtom .amominI64 r
  | 0x1C => dAtom .amomaxI32 r
  | 0x1D => dAtom .amomaxI64 r
  | 0x1E => dAtom .amominnI32 r
  | 0x1F => dAtom .amominnI64 r
  | 0x20 => dAtom .amomaxnI32 r
  | 0x21 => dAtom .amomaxnI64 r
  | 0x22 => dAtom .amoandI32 r
  | 0x23 => dAtom .amoandI64 r
  | 0x24 => dAtom .amoorI32 r
  | 0x25 => dAtom .amoorI64 r
  | 0x26 => dAtom .amoxorI32 r
  | 0x27 => dAtom .amoxorI64 r
  | 0x28 => dAtom .amoswpI32 r
  | 0x29 => dAtom .amoswpI64 r
  | 0x2A => dAtom .amocasI32 r
  | 0x2B => dAtom .amocasI64 r
  | 0x2C => dAtom .amofaddF32 r
  | 0x2D => .error (.atomWidth r.g)
  | 0x2E => dAtom .amobaddI32 r
  | 0x2F => dAtom .amobaddI64 r
  | 0x30 => need (r.d == 0 && r.cap == 0 && r.idx == 0 && r.off.extractLsb' 19 3 == 0#3) .unused
      (ok (.pfence ⟨r.g, r.off.extractLsb' 16 3, r.off.extractLsb' 8 8, r.off.extractLsb' 0 8⟩))
  | 0x31 => need (r.d.extractLsb' 3 3 == 0#3 && r.cap == 0) .unused <|
      match (r.off.extractLsb' 20 2).toNat with
      | 0 => ok (.actset ⟨r.g, r.d.extractLsb' 0 3, r.idx, r.off.extractLsb' 0 20, .none⟩)
      | 1 => ok (.actset ⟨r.g, r.d.extractLsb' 0 3, r.idx, r.off.extractLsb' 0 20, .four⟩)
      | 2 => ok (.actset ⟨r.g, r.d.extractLsb' 0 3, r.idx, r.off.extractLsb' 0 20, .eight⟩)
      | _ => .error .range
  | 0x32 => need (r.d.extractLsb' 3 3 == 0#3 && r.cap == 0) .unused <|
      need (r.off.extractLsb' 20 2 == 0#2) .range (ok (.actclr ⟨r.g, r.d.extractLsb' 0 3, r.idx, r.off.extractLsb' 0 20⟩))
  | 0x33 => need (r.cap == 0) .unused <|
      match (r.off.extractLsb' 20 2).toNat with
      | 0 => need (r.off.extractLsb' 5 15 == 0#15) .unused <| dScal r fun a => ok (.tlbinvRng ⟨r.g, a, r.idx, r.off.extractLsb' 0 5⟩)
      | 1 => need (r.d == 0 && r.idx == 0 && r.off.extractLsb' 5 15 == 0#15) .unused (ok (.tlbinvAsid ⟨r.g, r.off.extractLsb' 0 5⟩))
      | 2 => need (r.d == 0 && r.idx == 0 && r.off.extractLsb' 0 20 == 0#20) .unused (ok (.tlbinvAll ⟨r.g⟩))
      | _ => .error .range
  | 0x38 => need (r.d == 0 && r.cap == 0) .unused (ok (.waitev ⟨r.g, lEv r⟩))
  | 0x39 => need (r.cap == 0) .unused <| dScal r fun d => ok (.signal ⟨r.g, d, lEv r⟩)
  | 0x3A => need (r.cap == 0) .unused <| dScal r fun d => ok (.evinit ⟨r.g, d, lEv r⟩)
  | 0x3B => need (r.cap == 0) .unused <| dScal r fun d => ok (.evquery ⟨r.g, d, lEv r⟩)
  | 0x3C => dLs .launch r
  | 0x3D => need (r.cap.extractLsb' 2 2 == 0#2) .unused <| dScal r fun d =>
      need (r.cap.getLsbD 1 || d == 0) .unused <|
      need (r.cap.getLsbD 0 || (r.idx == 0 && r.off == 0)) .unused
      (ok (.taskend ⟨r.g, if r.cap.getLsbD 0 then some (lEv r) else none, if r.cap.getLsbD 1 then some d else none⟩))
  | 0x40 => need (r.cap.extractLsb' 2 2 == 0#2 && r.d == 0) .unused <|
      need (r.cap.getLsbD 0 || (r.idx == 0 && r.off == 0)) .unused
      (ok (.govtick ⟨r.g, if r.cap.getLsbD 0 then some (lEv r) else none, r.cap.getLsbD 1⟩))
  | 0x41 => need (r.d == 0) .unused (ok (.rescale ⟨r.g, lM r⟩))
  | 0x42 => dLs .stepbegin r
  | 0x43 => need (r.cap == 0 && r.idx == 0 && r.off == 0) .unused <| dScal r fun d => ok (.stepcommit ⟨r.g, d⟩)
  | 0x44 => need (r.d == 0 && r.cap == 0 && r.idx == 0 && r.off == 0) .unused (ok (.stepabort ⟨r.g⟩))
  | 0x45 => need (r.d.extractLsb' 1 5 == 0#5) .unused (ok (.rbqpush ⟨r.g, lM r, r.d.getLsbD 0⟩))
  | _ => .error .opcode

/-! ## X slot (11 Table 11.6) -/

/-- S→V half, bits [23:12]. -/
def decodeXsv (r : XRaw) : Dec :=
  match r.op.toNat with
  | 0 => need (r.s == 0 && r.v == 0) .unused (.ok none)
  | 1 => ok (.xsv ⟨r.s, r.v⟩)
  | 2 => ok (.xsvl ⟨r.s, r.v⟩)
  | _ => need (!r.v.getLsbD 4) .unused (ok (.xsp ⟨r.s, r.v.getLsbD 3, r.v.extractLsb' 0 3⟩))
/-- V→S half, bits [11:0]. -/
def decodeXvs (r : XRaw) : Dec :=
  match r.op.toNat with
  | 0 => need (r.s == 0 && r.v == 0) .unused (.ok none)
  | 1 => ok (.xvs ⟨r.s, r.v⟩)
  | 2 =>
    if r.v.getLsbD 4 then need (!r.v.getLsbD 3) .unused (ok (.xpsAny ⟨r.s, r.v.extractLsb' 0 3⟩))
    else ok (.xps ⟨r.s, r.v.getLsbD 3, r.v.extractLsb' 0 3⟩)
  | _ => .error .opcode

/-! ## V slot (10 Table 10.9; 12) -/

def vG (r : VRaw) : VG := ⟨r.mask, r.p⟩
def dSrc (x : BitVec 6) (k : VSrc → Dec) : Dec := withO (VSrc.ofBits x) .operand k
def dDst (x : BitVec 6) (k : VDst → Dec) : Dec := withO (VDst.ofBits x) .operand k
def dVFmt (r : VRaw) (acc : Fmt → Bool) (k : Fmt → Dec) : Dec :=
  withO (Fmt.ofBits r.fmt) .format fun f => need (f.vec && acc f) .format (k f)
/-- Modifier [7:5] and [4] of a rounding form; the low bits must be as the form says. -/
def dVRm (r : VRaw) (k : RMode → Bool → Dec) : Dec := dRm (r.mod.extractLsb' 5 3) fun m => k m (r.mod.getLsbD 4)

def dVBin (mk : VBin → Instr) (r : VRaw) : Dec :=
  dDst r.d fun d => dSrc r.a fun a => dSrc r.b fun b =>
  need (r.c == 0 && r.mod.extractLsb' 0 3 == 0#3) .unused <| dVRm r fun m sat => dVFmt r Fmt.isFlt fun f =>
    ok (mk ⟨vG r, d, a, b, f, m, sat, r.mod.getLsbD 3⟩)
def dVTer (mk : VTer → Instr) (r : VRaw) : Dec :=
  dDst r.d fun d => dSrc r.a fun a => dSrc r.b fun b => dSrc r.c fun c =>
  need (r.mod.extractLsb' 0 3 == 0#3) .unused <| dVRm r fun m sat => dVFmt r Fmt.isFlt fun f =>
    ok (mk ⟨vG r, d, a, b, c, f, m, sat, r.mod.getLsbD 3⟩)
def dVMinMax (mk : VMinMax → Instr) (r : VRaw) : Dec :=
  dDst r.d fun d => dSrc r.a fun a => dSrc r.b fun b =>
  need (r.c == 0 && r.mod == 0) .unused <| dVFmt r Fmt.isFlt fun f => ok (mk ⟨vG r, d, a, b, f⟩)
def dVSign (acc : Fmt → Bool) (mk : VSign → Instr) (r : VRaw) : Dec :=
  dDst r.d fun d => dSrc r.a fun a =>
  need (r.b == 0 && r.c == 0 && r.mod == 0) .unused <| dVFmt r acc fun f => ok (mk ⟨vG r, d, a, f⟩)
def dVSpec (mk : VSpec → Instr) (r : VRaw) : Dec :=
  dDst r.d fun d => dSrc r.a fun a =>
  need (r.b == 0 && r.c == 0 && r.mod.extractLsb' 0 4 == 0#4) .unused <| dVRm r fun m sat => dVFmt r Fmt.isFlt fun f =>
    ok (mk ⟨vG r, d, a, f, m, sat⟩)
def dVInt (mk : VInt → Instr) (r : VRaw) : Dec :=
  dDst r.d fun d => dSrc r.a fun a => dSrc r.b fun b =>
  need (r.c == 0 && r.mod.extractLsb' 5 3 == 0#3 && r.mod.extractLsb' 0 4 == 0#4) .unused <| dVFmt r Fmt.isVInt fun f =>
    ok (mk ⟨vG r, d, a, b, f, r.mod.getLsbD 4⟩)
def dVIntP (mk : VIntP → Instr) (r : VRaw) : Dec :=
  dDst r.d fun d => dSrc r.a fun a => dSrc r.b fun b =>
  need (r.c == 0 && r.mod == 0) .unused <| dVFmt r Fmt.isVInt fun f => ok (mk ⟨vG r, d, a, b, f⟩)
def dVInt3 (mk : VInt3 → Instr) (r : VRaw) : Dec :=
  dDst r.d fun d => dSrc r.a fun a => dSrc r.b fun b => dSrc r.c fun c =>
  need (r.mod == 0) .unused <| dVFmt r Fmt.isVInt fun f => ok (mk ⟨vG r, d, a, b, c, f⟩)
def dVCmp (r : VRaw) : Dec :=
  need (r.d.extractLsb' 3 3 == 0#3) .unused <| dSrc r.a fun a => dSrc r.b fun b =>
  need (r.c == 0 && r.mod.extractLsb' 3 5 == 0#5) .unused <|
  dVFmt r (fun f => f == .f32 || f == .i32 || f == .n32) fun f =>
  withO (Cond.ofBits (r.mod.extractLsb' 0 3)) .range fun c =>
  need (f == .f32 || (c != .un && c != .ord)) .range (ok (.vcmp ⟨vG r, r.d.extractLsb' 0 3, a, b, f, c⟩))
def dVSel (r : VRaw) : Dec :=
  dDst r.d fun d => dSrc r.a fun a => dSrc r.b fun b =>
  need (r.c.extractLsb' 3 3 == 0#3 && r.mod == 0) .unused <| need (r.fmt == 0) .unused
    (ok (.vsel ⟨vG r, d, a, b, r.c.extractLsb' 0 3⟩))
def dVGrp (sum : Bool) (mk : VGrp → Instr) (r : VRaw) : Dec :=
  dDst r.d fun d => dSrc r.a fun a =>
  need (r.b == 0 && r.c == 0 && r.mod.extractLsb' 2 2 == 0#2) .unused <|
  dVFmt r (fun f => f.isFlt || f.isVInt) fun f =>
  if sum && f.isFlt then dVRm r fun m sat => ok (mk ⟨vG r, d, a, f, r.mod.extractLsb' 0 2, m, sat⟩)
  else need (r.mod.extractLsb' 5 3 == 0#3 && (sum || !r.mod.getLsbD 4)) .unused
    (ok (mk ⟨vG r, d, a, f, r.mod.extractLsb' 0 2, .rne, r.mod.getLsbD 4⟩))
def dVPerm (r : VRaw) : Dec :=
  dDst r.d fun d => dSrc r.a fun a => dSrc r.b fun b =>
  need (r.c == 0 && r.mod == 0) .unused <| need (r.fmt == 0) .unused (ok (.vperm ⟨vG r, d, a, b⟩))
def dVBcast (r : VRaw) : Dec :=
  dDst r.d fun d => dSrc r.a fun a =>
  need (r.b == 0 && r.mod.extractLsb' 2 6 == 0#6) .unused <| need (r.fmt == 0) .unused
    (ok (.vbcastl ⟨vG r, d, a, r.mod.extractLsb' 0 1 ++ r.c, r.mod.getLsbD 1⟩))
def dVXsec (r : VRaw) : Dec :=
  dDst r.d fun d => dSrc r.a fun a => dSrc r.b fun b =>
  need (r.mod.extractLsb' 2 6 == 0#6) .unused <| need (r.fmt == 0) .unused <|
  match (r.mod.extractLsb' 0 2).toNat with
  | 0 => ok (.vxsec ⟨vG r, d, a, b, r.c, .up⟩)
  | 1 => ok (.vxsec ⟨vG r, d, a, b, r.c, .down⟩)
  | 2 => need (r.b == 0) .unused <| need (r.c.toNat < 8) .range (ok (.vxsec ⟨vG r, d, a, b, r.c, .rot⟩))
  | _ => .error .range
/-- Fields of 12 Table 12.4. -/
def vOff (r : VRaw) : BitVec 10 := r.mod.extractLsb' 0 4 ++ r.c
def dVBufF (r : VRaw) (k : RowBase → Buf → Dec) : Dec :=
  withO (RowBase.ofBits r.a) .operand fun base => need (!r.mod.getLsbD 4) .unused <|
  withO (Buf.ofBits (r.mod.extractLsb' 6 2)) .range fun b => k base b
def dVLdb (r : VRaw) : Dec :=
  dDst r.d fun d => need (r.b == 0) .unused <| dVBufF r fun base buf =>
  if r.mod.getLsbD 5 then
    withO (Fmt.ofBits r.fmt) .row fun f => need (f.transposes && buf == .wbuf) .row
      (ok (.vldb ⟨vG r, d, base, buf, vOff r, some f⟩))
  else need (r.fmt == 0) .unused (ok (.vldb ⟨vG r, d, base, buf, vOff r, none⟩))
def dVStb (r : VRaw) : Dec :=
  dSrc r.d fun s => need (r.b == 0) .unused <| dVBufF r fun base buf =>
  need (!r.mod.getLsbD 5) .row <| need (r.fmt == 0) .unused (ok (.vstb ⟨vG r, s, base, buf, vOff r⟩))
def dVStbm (r : VRaw) : Dec :=
  dSrc r.d fun s => need (!r.b.getLsbD 5) .operand <| dVBufF r fun base buf =>
  need (!r.mod.getLsbD 5) .row <| need (r.fmt == 0) .unused
    (ok (.vstbm ⟨vG r, s, base, buf, vOff r, r.b.extractLsb' 0 5⟩))
def dVCvt (r : VRaw) : Dec :=
  dDst r.d fun d => dSrc r.a fun a => dSrc r.b fun b => dVRm r fun m sat =>
  withO (Fmt.ofBits (r.mod.extractLsb' 0 4)) .format fun src =>
  dVFmt r (fun f => f != .ps2) fun dst => need src.vec .format <|
  need ((r.c.extractLsb' 3 3).toNat < src.perLane && (r.c.extractLsb' 0 3).toNat < dst.perLane) .range <|
  need (dst.perLane != 1 || b == .zero) .operand
    (ok (.vcvt ⟨vG r, d, a, b, r.c.extractLsb' 3 3, r.c.extractLsb' 0 3, src, dst, m, sat⟩))
def dVMaxexp (r : VRaw) : Dec :=
  dSrc r.a fun a => need (r.d == 0 && r.b == 0 && r.c == 0 && r.mod.extractLsb' 4 4 == 0#4) .unused <|
  dVFmt r Fmt.narrow fun f => ok (.vmaxexp ⟨vG r, a, f, r.mod.extractLsb' 0 4⟩)
def dVQps2 (r : VRaw) : Dec :=
  dDst r.d fun d => dSrc r.a fun a => need (r.b == 0 && r.c == 0 && r.mod.extractLsb' 0 4 == 0#4) .unused <|
  dVRm r fun m sat => need (m != .sr) .rounding <| dVFmt r (fun f => f == .ps2) fun _ => ok (.vqps2 ⟨vG r, d, a, m, sat⟩)
def dVPack (r : VRaw) : Dec :=
  dDst r.d fun d => dSrc r.a fun a => dSrc r.b fun b =>
  need (r.c.extractLsb' 3 3 == 0#3 && r.mod == 0) .unused <| dVFmt r Fmt.packs fun f =>
  need ((r.c.extractLsb' 0 3).toNat < f.perLane) .range (ok (.vpack ⟨vG r, d, a, b, f, r.c.extractLsb' 0 3⟩))
def dVUnpack (r : VRaw) : Dec :=
  dDst r.d fun d => dSrc r.a fun a =>
  need (r.b == 0 && r.c.extractLsb' 3 3 == 0#3 && r.mod == 0) .unused <| dVFmt r Fmt.packs fun f =>
  need ((r.c.extractLsb' 0 3).toNat < f.perLane) .range (ok (.vunpack ⟨vG r, d, a, f, r.c.extractLsb' 0 3⟩))
def dVTan (mk : VTan → Instr) (r : VRaw) : Dec :=
  need (!r.d.getLsbD 5) .operand <| dSrc r.a fun a =>
  need (r.b == 0 && r.c.extractLsb' 3 3 == 0#3 && r.mod == 0) .unused <| need (r.fmt == 0) .unused <|
  need (1 ≤ (r.c.extractLsb' 0 3).toNat && (r.c.extractLsb' 0 3).toNat ≤ 4) .range
    (ok (mk ⟨vG r, r.d.extractLsb' 0 5, a, r.c.extractLsb' 0 3⟩))

def decodeVRaw (r : VRaw) : Dec :=
  match r.op.toNat with
  | 0x000 => need (r.toBits == 0) .opcode (.ok none)
  | 0x001 => dVBin .vadd r
  | 0x002 => dVBin .vsub r
  | 0x003 => dVBin .vmul r
  | 0x004 => dVTer .vfma r
  | 0x005 => dVTer .vfms r
  | 0x006 => dVTer .vfnma r
  | 0x007 => dVMinMax .vmin r
  | 0x008 => dVMinMax .vmax r
  | 0x009 => dVSign Fmt.isFlt .vabs r
  | 0x00A => dVSign Fmt.isFlt .vneg r
  | 0x00B => dVSpec .vrcp r
  | 0x00C => dVSpec .vrsqrt r
  | 0x00D => dVSpec .vsqrt r
  | 0x00E => dVSpec .vexp2 r
  | 0x00F => dVSpec .vlog2 r
  | 0x010 => dVSpec .vsin r
  | 0x011 => dVSpec .vcos r
  | 0x020 => dVInt .viadd r
  | 0x021 => dVInt .visub r
  | 0x022 => dVInt .vimul r
  | 0x023 => dVIntP .vimulh r
  | 0x024 => dVIntP .vimin r
  | 0x025 => dVIntP .vimax r
  | 0x026 => dVIntP .vand r
  | 0x027 => dVIntP .vor r
  | 0x028 => dVIntP .vxor r
  | 0x029 => dVIntP .vandn r
  | 0x02A => dVIntP .vshl r
  | 0x02B => dVIntP .vshr r
  | 0x02C => dVIntP .vshra r
  | 0x02D => dVInt3 .vfshl r
  | 0x02E => dVInt3 .vfshr r
  | 0x02F => dVSign Fmt.isVInt .vclz r
  | 0x030 => dVSign Fmt.isVInt .vctz r
  | 0x031 => dVSign Fmt.isVInt .vpopc r
  | 0x040 => dVCmp r
  | 0x041 => dVSel r
  | 0x042 => dVGrp false .vgmax r
  | 0x043 => dVGrp false .vgmin r
  | 0x044 => dVGrp true .vgsum r
  | 0x050 => dVPerm r
  | 0x051 => dVBcast r
  | 0x052 => dVXsec r
  | 0x053 => dVLdb r
  | 0x054 => dVStb r
  | 0x055 => dVStbm r
  | 0x060 => dVCvt r
  | 0x061 => dVMaxexp r
  | 0x062 => dVQps2 r
  | 0x063 => dVPack r
  | 0x064 => dVUnpack r
  | 0x070 => dVTan .vtget r
  | 0x071 => dVTan .vtset r
  | 0x072 => need (!r.d.getLsbD 5) .operand <| need (r.a == 0 && r.b == 0 && r.c == 0 && r.mod == 0) .unused <|
      need (r.fmt == 0) .unused (ok (.vtzero ⟨vG r, r.d.extractLsb' 0 5⟩))
  | _ => .error .opcode

/-! ## M slot (10 Table 10.9; 14) -/

def dMMul (mk : MMul → Instr) (r : MRaw) : Dec :=
  need (!r.zf && !r.smp && r.zero == 0) .unused (ok (mk ⟨r.tile, r.a, r.b, r.ta, r.tb, r.ra, r.rb, r.mc, r.du, r.ch⟩))
/-- The flags of a tile operation that must be zero (14 R361). -/
def mNoFlags (r : MRaw) : Bool := !r.ta && !r.tb && !r.ra && !r.rb && !r.mc && !r.zf && !r.smp && !r.ch && r.zero == 0
def decodeMRaw (r : MRaw) : Dec :=
  match r.op.toNat with
  | 0x00 => need (r.toBits == 0) .opcode (.ok none)
  | 0x01 => dMMul .mma r
  | 0x02 => dMMul .mmaz r
  | 0x03 => need (!r.ch && !r.smp && r.zero == 0) .unused
      (ok (.mrs ⟨r.tile, r.a, r.b, r.ta, r.tb, r.ra, r.rb, r.mc, r.zf, r.du⟩))
  | 0x04 => need (r.tile == 0 && !r.ta && !r.tb && !r.ra && !r.rb && !r.mc && !r.du && !r.ch && !r.zf && r.zero == 0) .unused
      (ok (.malias ⟨r.a, r.b, r.smp⟩))
  | 0x05 => need (r.tile == 0 && !r.du && !r.ch && !r.zf && !r.smp && r.zero == 0) .unused
      (ok (.mnorm ⟨r.a, r.b, r.ta, r.tb, r.ra, r.rb, r.mc⟩))
  | 0x06 => need (mNoFlags r && !r.du && r.a == 0 && r.b == 0) .unused (ok (.mfro ⟨r.tile⟩))
  | 0x07 => need (mNoFlags r && r.a == 0 && r.b == 0) .unused (ok (.mscale ⟨r.tile, r.du⟩))
  | 0x08 => need (mNoFlags r && r.a == 0 && r.b == 0) .unused (ok (.mzero ⟨r.tile, r.du⟩))
  | 0x09 => need (mNoFlags r && !r.du && r.b == 0) .unused <|
      if r.a == 0 then ok (.mtwait ⟨some r.tile⟩)
      else if r.a == 1 then need (r.tile == 0) .unused (ok (.mtwait ⟨none⟩))
      else .error .range
  | _ => .error .opcode

/-! ## C slots (10 Table 10.9; 13) -/

/-- sf as a flag or no flag: NF with a flag number is class 7 reason 4 (13 Table 13.7). -/
def dCFlag (r : CRaw) (k : Option Flag → Dec) : Dec :=
  if r.sf.getLsbD 4 then need (r.sf.extractLsb' 0 4 == 0#4) (.copy 4 (r.op == 7)) (k none) else k (some (r.sf.extractLsb' 0 4))
def CFmt.ofBits (c : BitVec 4) : Option CFmt :=
  if c.toNat = 15 then some .viaRecord
  else match Fmt.ofBits c with
    | some f => if f.copies then some (.fmt f) else none
    | none => none
def CFmt.toBits : CFmt → BitVec 4
  | .fmt f => f.toBits | .viaRecord => 15
/-- flags[23:18] and the formats of CPY, GATHER and SCATTER. -/
def dCCvt (r : CRaw) (s d : BitVec 4) (k : Option CCvt → Dec) : Dec :=
  if r.flags.getLsbD 6 then
    dRm (r.flags.extractLsb' 3 3) fun m => need (m != .sr && m != .dyn) (.copy 5 false) <|
    withO (CFmt.ofBits s) (.copy 5 false) fun sf => withO (CFmt.ofBits d) (.copy 5 false) fun df =>
    need (!r.flags.getLsbD 1 || (sf == .viaRecord && df == .viaRecord)) (.copy 5 false)
      (k (some ⟨sf, df, m, r.flags.getLsbD 2, r.flags.getLsbD 1⟩))
  else need (r.flags.extractLsb' 2 4 == 0#4 && s == 0 && d == 0) .unused <| need (!r.flags.getLsbD 1) (.copy 5 false) (k none)
def dCIdx (mk : CIdx → Instr) (r : CRaw) : Dec :=
  need (r.imm.extractLsb' 4 4 == 0#4 && !r.imm.getLsbD 16 && !r.flags.getLsbD 0) .unused <| dCFlag r fun f =>
  dCCvt r (r.imm.extractLsb' 8 4) (r.imm.extractLsb' 12 4) fun cv =>
    ok (mk ⟨r.d, r.imm.extractLsb' 0 4, f, r.flags.getLsbD 7, cv⟩)
def dCWait (mk : CWait → Instr) (r : CRaw) : Dec :=
  need (!r.sf.getLsbD 4 && r.flags.extractLsb' 0 3 == 0#3 && r.d == 0) .unused
    (ok (mk ⟨r.sf.extractLsb' 0 4, r.flags.extractLsb' 5 3, r.flags.getLsbD 4, r.flags.getLsbD 3, r.imm⟩))
def dCPlain (mk : CCpys → Instr) (r : CRaw) : Dec :=
  need (r.flags.extractLsb' 0 7 == 0#7 && r.imm == 0) .unused <| dCFlag r fun f => ok (mk ⟨r.d, f, r.flags.getLsbD 7⟩)
def decodeCRaw (r : CRaw) : Dec :=
  match r.op.toNat with
  | 0x00 => need (r.toBits == 0) .opcode (.ok none)
  | 0x01 => need (!r.flags.getLsbD 0 && r.imm.extractLsb' 8 9 == 0#9) .unused <| dCFlag r fun f =>
      dCCvt r (r.imm.extractLsb' 0 4) (r.imm.extractLsb' 4 4) fun cv => ok (.cpy ⟨r.d, f, r.flags.getLsbD 7, cv⟩)
  | 0x02 => dCPlain .cpys r
  | 0x03 => need (!r.sf.getLsbD 4 && r.d == 0 && r.flags == 0 && r.imm == 0) .unused (ok (.qclose ⟨r.sf.extractLsb' 0 4⟩))
  | 0x04 => dCWait .cpyw r
  | 0x05 => dCIdx .gather r
  | 0x06 => dCIdx .scatter r
  | 0x07 => dCPlain .coll r
  | 0x08 => dCWait .collw r
  | _ => .error .opcode

/-! ## Slots and bundles -/

def decodeS (w : BitVec 48) : Dec := decodeSRaw (.ofBits w)
def decodeL (w : BitVec 48) : Dec := decodeLRaw (.ofBits w)
def decodeV (w : BitVec 56) : Dec := decodeVRaw (.ofBits w)
def decodeM (w : BitVec 40) : Dec := decodeMRaw (.ofBits w)
def decodeC (w : BitVec 40) : Dec := decodeCRaw (.ofBits w)
def decodeXsvBits (w : BitVec 24) : Dec := decodeXsv (.ofBits (w.extractLsb' 12 12))
def decodeXvsBits (w : BitVec 24) : Dec := decodeXvs (.ofBits (w.extractLsb' 0 12))

/-- The header (10 Table 10.3). -/
structure Header where
  (rsv : BitVec 4) (stC1 stC0 stM stV1 stV0 stL stS : BitVec 2) (bp : Bool) (rep : BitVec 3) (dm : BitVec 4)
  (dual q : Bool) (stall : BitVec 4)
  deriving DecidableEq, Repr

/-- A bundle cut into its slots (10 Table 10.2). -/
structure Bundle where
  (h : Header) (s l : BitVec 48) (x : BitVec 24) (v0 v1 : BitVec 56) (m c0 c1 : BitVec 40)
  deriving DecidableEq, Repr

def Header.ofBits (w : BitVec 32) : Header :=
  ⟨w.extractLsb' 28 4, w.extractLsb' 26 2, w.extractLsb' 24 2, w.extractLsb' 22 2, w.extractLsb' 20 2, w.extractLsb' 18 2,
   w.extractLsb' 16 2, w.extractLsb' 14 2, w.getLsbD 13, w.extractLsb' 10 3, w.extractLsb' 6 4, w.getLsbD 5, w.getLsbD 4,
   w.extractLsb' 0 4⟩

def Bundle.ofBits (w : BitVec 384) : Bundle :=
  ⟨.ofBits (w.extractLsb' 0 32), w.extractLsb' 32 48, w.extractLsb' 80 48, w.extractLsb' 128 24, w.extractLsb' 152 56,
   w.extractLsb' 208 56, w.extractLsb' 264 40, w.extractLsb' 304 40, w.extractLsb' 344 40⟩

/-- The slots of a bundle in commit order with their slot numbers (10 Table 10.2, R231): the transfer
slot stands twice, one entry for each half. -/
def Bundle.slots (b : Bundle) : List (Nat × Dec) :=
  [(0, decodeS b.s), (1, decodeL b.l), (2, decodeXsvBits b.x), (2, decodeXvsBits b.x), (3, decodeV b.v0), (4, decodeV b.v1),
   (5, decodeM b.m), (6, decodeC b.c0), (7, decodeC b.c1)]

/-- The instruction of an opcode-table word: 24 bits name a transfer slot, its S→V half first; 384 bits a
whole bundle with one occupied slot, which is answered. -/
def decodeTableWord (nbits w : Nat) : Option Instr :=
  let pick : List (Nat × Dec) → Option Instr := fun l =>
    match l.filterMap (fun x => match x.2 with | .ok (some i) => some i | _ => none) with
    | i :: _ => some i
    | [] => none
  if nbits = 24 then
    let x := BitVec.ofNat 24 w
    match decodeXsvBits x, decodeXvsBits x with
    | .ok (some i), _ => some i
    | .ok none, .ok o => o
    | _, _ => none
  else if nbits ≤ 384 then pick (Bundle.ofBits (BitVec.ofNat 384 w)).slots
  else none

/-! ## The encoder: the word of an instruction in its slot (10 Tables 10.6 to 10.9; 11 to 14) -/

/-- The word of one slot, or of one half of the transfer slot. -/
inductive SlotWord where
  | s (w : BitVec 48)
  | l (w : BitVec 48)
  | xsv (w : BitVec 12)
  | xvs (w : BitVec 12)
  | v (w : BitVec 56)
  | m (w : BitVec 40)
  | c (w : BitVec 40)
  deriving DecidableEq, Repr

def decodeWord : SlotWord → Dec
  | .s w => decodeS w
  | .l w => decodeL w
  | .xsv w => decodeXsv (.ofBits w)
  | .xvs w => decodeXvs (.ofBits w)
  | .v w => decodeV w
  | .m w => decodeM w
  | .c w => decodeC w

/-! ### S -/

def eS (op : BitVec 8) (g : Guard) (d a b : BitVec 5) (imm : BitVec 21) : SlotWord := .s (SRaw.toBits ⟨op, g, d, a, b, imm⟩)
/-- A and B with I = imm[20]. -/
def eSrc (op : BitVec 8) (g : Guard) (d a : BitVec 5) : SSrc → SlotWord
  | .reg b => eS op g d a b 0
  | .imm v => eS op g d a 0 (1#1 ++ v)
def eAlu (op : BitVec 8) (o : SAlu) : SlotWord := eSrc op o.g o.d o.a o.b
def eReg3 (op : BitVec 8) (o : SReg3) : SlotWord := eS op o.g o.d o.a o.b 0
def eFun (op : BitVec 8) (o : SFun) : SlotWord := eS op o.g o.d o.a o.b (0#15 ++ o.n)
def eWid (op : BitVec 8) (o : SWid) : SlotWord := eS op o.g o.d o.a 0 (0#19 ++ o.w.toBits)
def eCmp (op : BitVec 8) (o : SCmp) : SlotWord := eSrc op o.g (0#2 ++ o.p) o.a o.b
/-- NP, 0, format, SAT, RM. -/
def eFlt (op : BitVec 8) (o : SFlt) : SlotWord :=
  eS op o.g o.d o.a o.b (0#8 ++ BitVec.ofBool o.np ++ 0#4 ++ o.fmt.toBits ++ BitVec.ofBool o.sat ++ o.rm.toBits)
def eFma (op : BitVec 8) (o : SFma) : SlotWord :=
  eS op o.g o.d o.a o.b (0#7 ++ BitVec.ofBool o.nc ++ BitVec.ofBool o.np ++ 0#4 ++ o.fmt.toBits ++ BitVec.ofBool o.sat ++ o.rm.toBits)
def eCvt (op : BitVec 8) (o : SFCvt) : SlotWord :=
  eS op o.g o.d o.a 0 (0#9 ++ o.dst.toBits ++ o.src.toBits ++ BitVec.ofBool o.sat ++ o.rm.toBits)
def eFcmp (op : BitVec 8) (o : SFCmp) : SlotWord :=
  eS op o.g (0#2 ++ o.p) o.a o.b (0#10 ++ o.cond.toBits ++ o.fmt.toBits ++ 0#4)
def eCget (op : BitVec 8) (o : SCget) : SlotWord := eS op o.g o.d (0#1 ++ o.a) 0 0

/-! ### L -/

def eL (op : BitVec 7) (g : Guard) (d : BitVec 6) (cap : BitVec 4) (idx : BitVec 5) (off : BitVec 22) : SlotWord :=
  .l (LRaw.toBits ⟨op, g, d, cap, idx, off⟩)
def eScal (op : BitVec 7) (o : LScal) : SlotWord := eL op o.g (0#1 ++ o.d) o.m.cap o.m.idx o.m.imm
def eAtom (op : BitVec 7) (o : LAtom) : SlotWord := eL op o.g (0#1 ++ o.d) o.m.cap o.m.idx (o.b ++ o.m.imm)
def eProbe (k : BitVec 2) (o : LProbe) : SlotWord := eL 0x16 o.g (0#1 ++ o.d) o.m.cap o.m.idx (k ++ o.target ++ o.m.imm)
def eCapM (op : BitVec 7) (o : LCap) : SlotWord := eL op o.g (0#2 ++ o.c) o.m.cap o.m.idx o.m.imm
def eFlag (op : BitVec 7) (o : LFlag) : SlotWord := eL op o.g (0#2 ++ o.f) 0 0 0
def eEvReg (op : BitVec 7) (o : LEvReg) : SlotWord := eL op o.g (0#1 ++ o.d) 0 o.e.idx o.e.imm
def Nb.toBits : Nb → BitVec 2
  | .none => 0 | .four => 1 | .eight => 2

/-! ### X -/

def eXs (op : BitVec 2) (s v : BitVec 5) : SlotWord := .xsv (XRaw.toBits ⟨op, s, v⟩)
def eXv (op : BitVec 2) (s v : BitVec 5) : SlotWord := .xvs (XRaw.toBits ⟨op, s, v⟩)

/-! ### V -/

def eV (op : BitVec 9) (g : VG) (d a b c : BitVec 6) (fmt : BitVec 4) (mod : BitVec 8) : SlotWord :=
  .v (VRaw.toBits ⟨op, g.mask, g.p, d, a, b, c, fmt, mod⟩)
def eRm (rm : RMode) (sat : Bool) (low : BitVec 4) : BitVec 8 := rm.toBits ++ BitVec.ofBool sat ++ low
def eVBin (op : BitVec 9) (o : VBin) : SlotWord :=
  eV op o.g o.d.toBits o.a.toBits o.b.toBits 0 o.fmt.toBits (eRm o.rm o.sat (BitVec.ofBool o.na ++ 0#3))
def eVTer (op : BitVec 9) (o : VTer) : SlotWord :=
  eV op o.g o.d.toBits o.a.toBits o.b.toBits o.c.toBits o.fmt.toBits (eRm o.rm o.sat (BitVec.ofBool o.na ++ 0#3))
def eVMinMax (op : BitVec 9) (o : VMinMax) : SlotWord := eV op o.g o.d.toBits o.a.toBits o.b.toBits 0 o.fmt.toBits 0
def eVSign (op : BitVec 9) (o : VSign) : SlotWord := eV op o.g o.d.toBits o.a.toBits 0 0 o.fmt.toBits 0
def eVSpec (op : BitVec 9) (o : VSpec) : SlotWord := eV op o.g o.d.toBits o.a.toBits 0 0 o.fmt.toBits (eRm o.rm o.sat 0)
def eVInt (op : BitVec 9) (o : VInt) : SlotWord :=
  eV op o.g o.d.toBits o.a.toBits o.b.toBits 0 o.fmt.toBits (0#3 ++ BitVec.ofBool o.sat ++ 0#4)
def eVIntP (op : BitVec 9) (o : VIntP) : SlotWord := eV op o.g o.d.toBits o.a.toBits o.b.toBits 0 o.fmt.toBits 0
def eVInt3 (op : BitVec 9) (o : VInt3) : SlotWord :=
  eV op o.g o.d.toBits o.a.toBits o.b.toBits o.c.toBits o.fmt.toBits 0
def eVGrp (op : BitVec 9) (o : VGrp) : SlotWord :=
  eV op o.g o.d.toBits o.a.toBits 0 0 o.fmt.toBits (eRm o.rm o.sat (0#2 ++ o.gsz))
def XMode.toBits : XMode → BitVec 2
  | .up => 0 | .down => 1 | .rot => 2
/-- Buffer, T and the high offset bits of 12 Table 12.4. -/
def eBufMod (buf : Buf) (t : Bool) (off : BitVec 10) : BitVec 8 :=
  buf.toBits ++ BitVec.ofBool t ++ 0#1 ++ off.extractLsb' 6 4
def eVLdb (o : VLdbOp) : SlotWord :=
  eV 0x053 o.g o.d.toBits o.base.toBits 0 (o.off.extractLsb' 0 6) (match o.t with | some f => f.toBits | none => 0)
    (eBufMod o.buf o.t.isSome o.off)
def eVTan (op : BitVec 9) (o : VTan) : SlotWord := eV op o.g (0#1 ++ o.d) o.a.toBits 0 (0#3 ++ o.k) 0 0

/-! ### M and C -/

def eM (op : BitVec 6) (tile : BitVec 5) (a b : BitVec 4) (ta tb ra rb mc zf smp du ch : Bool) : SlotWord :=
  .m (MRaw.toBits ⟨op, tile, a, b, ta, tb, ra, rb, mc, zf, smp, du, ch, 0⟩)
def eMul (op : BitVec 6) (o : MMul) : SlotWord := eM op o.tile o.a o.b o.ta o.tb o.ra o.rb o.mc false false o.du o.ch
def eTile (op : BitVec 6) (tile : BitVec 5) (du : Bool) (a : BitVec 4) : SlotWord :=
  eM op tile a 0 false false false false false false false du false
def eC (op : BitVec 6) (sf : BitVec 5) (d : BitVec 4) (flags : BitVec 8) (imm : BitVec 17) : SlotWord :=
  .c (CRaw.toBits ⟨op, sf, d, flags, imm⟩)
/-- sf: NF for no flag. -/
def eSf : Option Flag → BitVec 5
  | some f => 0#1 ++ f
  | none => 0x10
/-- flags[23:16] of a copy: EV, CV, RM, SAT, TG, 0. -/
def eCvFlags (ev : Bool) : Option CCvt → BitVec 8
  | some c => BitVec.ofBool ev ++ 1#1 ++ c.rm.toBits ++ BitVec.ofBool c.sat ++ BitVec.ofBool c.tg ++ 0#1
  | none => BitVec.ofBool ev ++ 0#7
def eCvSrc : Option CCvt → BitVec 4
  | some c => c.src.toBits
  | none => 0
def eCvDst : Option CCvt → BitVec 4
  | some c => c.dst.toBits
  | none => 0
def eCIdx (op : BitVec 6) (o : CIdx) : SlotWord :=
  eC op (eSf o.f) o.d (eCvFlags o.ev o.cv) (0#1 ++ eCvDst o.cv ++ eCvSrc o.cv ++ 0#4 ++ o.x)
def eCPlain (op : BitVec 6) (o : CCpys) : SlotWord := eC op (eSf o.f) o.d (BitVec.ofBool o.ev ++ 0#7) 0
def eCWait (op : BitVec 6) (o : CWait) : SlotWord :=
  eC op (0#1 ++ o.f) 0 (o.p ++ BitVec.ofBool o.pv ++ BitVec.ofBool o.tr ++ 0#3) o.limit

/-- The word of a slot instruction; the event steps have no encoding. -/
def encode : Instr → Option SlotWord
  | .add o => some (eAlu 0x01 o)
  | .sub o => some (eAlu 0x03 o)
  | .and o => some (eAlu 0x0B o)
  | .or o => some (eAlu 0x0C o)
  | .xor o => some (eAlu 0x0D o)
  | .andn o => some (eAlu 0x0E o)
  | .shl o => some (eAlu 0x0F o)
  | .shr o => some (eAlu 0x10 o)
  | .shra o => some (eAlu 0x11 o)
  | .rotl o => some (eAlu 0x12 o)
  | .min o => some (eAlu 0x18 o)
  | .max o => some (eAlu 0x19 o)
  | .minn o => some (eAlu 0x1A o)
  | .maxn o => some (eAlu 0x1B o)
  | .addi o => some (eS 0x02 o.g o.d o.a 0 o.imm)
  | .mul o => some (eReg3 0x04 o)
  | .mulh o => some (eReg3 0x05 o)
  | .mulhn o => some (eReg3 0x06 o)
  | .div o => some (eReg3 0x07 o)
  | .divn o => some (eReg3 0x08 o)
  | .mod o => some (eReg3 0x09 o)
  | .modn o => some (eReg3 0x0A o)
  | .fshl o => some (eFun 0x13 o)
  | .fshr o => some (eFun 0x14 o)
  | .clz o => some (eWid 0x15 o)
  | .ctz o => some (eWid 0x16 o)
  | .popc o => some (eWid 0x17 o)
  | .sext o => some (eWid 0x1C o)
  | .zext o => some (eWid 0x1D o)
  | .li o => some (eS 0x1E o.g o.d 0 0 o.imm)
  | .lih o => some (eS 0x1F o.g o.d o.a 0 (0#3 ++ o.k ++ o.imm))
  | .mov o => some (eS 0x20 o.g o.d o.a 0 0)
  | .sel o => some (eS 0x21 o.g o.d o.a o.b (0#17 ++ o.p))
  | .cmpeq o => some (eCmp 0x22 o)
  | .cmpne o => some (eCmp 0x23 o)
  | .cmplt o => some (eCmp 0x24 o)
  | .cmple o => some (eCmp 0x25 o)
  | .cmpltn o => some (eCmp 0x26 o)
  | .cmplen o => some (eCmp 0x27 o)
  | .sfadd o => some (eFlt 0x30 o)
  | .sfmul o => some (eFlt 0x31 o)
  | .sffma o => some (eFma 0x32 o)
  | .sfcvt o => some (eCvt 0x33 o)
  | .sfcmp o => some (eFcmp 0x34 o)
  | .br o => some (eS 0x40 o.g 0 0 0 o.off)
  | .brc o => some (eS 0x41 o.g 0 o.a o.cond.toBits o.off)
  | .call o => some (eS 0x42 o.g o.d 0 0 o.off)
  | .ret o => some (eS 0x43 o.g 0 o.a 0 0)
  | .jmpi o => some (eS 0x44 o.g 0 o.a 0 o.off)
  | .loop o => some (eS 0x45 o.g (0#3 ++ o.lp) o.cnt o.start (o.blen ++ o.stages ++ 0#2 ++ o.ireg))
  | .lbreak o => some (eS 0x46 o.g 0 0 0 0)
  | .lbreakDrain o => some (eS 0x46 o.g 0 0 0 1)
  | .cnarrow o => some (eS 0x50 o.g (0#1 ++ o.d) (0#1 ++ o.a) o.off (0#16 ++ o.len))
  | .cperm o => some (eS 0x51 o.g (0#1 ++ o.d) (0#1 ++ o.a) 0 (0#14 ++ o.mask))
  | .cgetb o => some (eCget 0x52 o)
  | .cgetl o => some (eCget 0x53 o)
  | .cgeth o => some (eCget 0x54 o)
  | .ctest o => some (eS 0x55 o.g (0#2 ++ o.p) (0#1 ++ o.a) 0 (0#14 ++ o.mask))
  | .cmov o => some (eS 0x56 o.g (0#1 ++ o.d) (0#1 ++ o.a) 0 0)
  | .mdsetWord o => some (eS 0x58 o.g (0#1 ++ o.d) o.a 0 (0#20 ++ o.w))
  | .mdsetCap o => some (eS 0x58 o.g (0#1 ++ o.d) (0#1 ++ o.a) 0 0x100000)
  | .cdsetWord o => some (eS 0x59 o.g (0#1 ++ o.d) o.a 0 (0#19 ++ o.w))
  | .cdsetCap o => some (eS 0x59 o.g (0#1 ++ o.d) (0#1 ++ o.a) 0 (1#1 ++ 0#19 ++ BitVec.ofBool o.dst))
  | .trap o => some (eS 0x60 o.g 0 0 0 (0#17 ++ o.n))
  | .rett o => some (eS 0x61 o.g 0 0 0 0)
  | .mfsr o => some (eS 0x62 o.g o.d 0 0 (0#9 ++ o.num))
  | .mtsr o => some (eS 0x63 o.g 0 o.a 0 (0#9 ++ o.num))
  | .xsv o => some (eXs 1 o.s o.v)
  | .xsvl o => some (eXs 2 o.s o.v)
  | .xsp o => some (eXs 3 o.s (0#1 ++ BitVec.ofBool o.h ++ o.p))
  | .xvs o => some (eXv 1 o.s o.v)
  | .xps o => some (eXv 2 o.s (0#1 ++ BitVec.ofBool o.h ++ o.p))
  | .xpsAny o => some (eXv 2 o.s (2#2 ++ o.p))
  | .ldI8 o => some (eScal 0x01 o)
  | .ldN8 o => some (eScal 0x02 o)
  | .ldI16 o => some (eScal 0x03 o)
  | .ldN16 o => some (eScal 0x04 o)
  | .ldI32 o => some (eScal 0x05 o)
  | .ldN32 o => some (eScal 0x06 o)
  | .ldI64 o => some (eScal 0x07 o)
  | .stI8 o => some (eScal 0x08 o)
  | .stI16 o => some (eScal 0x09 o)
  | .stI32 o => some (eScal 0x0A o)
  | .stI64 o => some (eScal 0x0B o)
  | .ldv o => some (eL 0x0C o.g (0#1 ++ o.d) o.m.cap o.m.idx (0#5 ++ o.m.imm))
  | .ldvCvt o => some (eL 0x0C o.g (0#1 ++ o.d) o.m.cap o.m.idx (1#1 ++ o.rm.toBits ++ BitVec.ofBool o.sat ++ o.m.imm))
  | .stv o => some (eL 0x0D o.g o.src.toBits o.m.cap o.m.idx (0#5 ++ o.m.imm))
  | .stvCvt o => some (eL 0x0D o.g o.src.toBits o.m.cap o.m.idx (1#1 ++ o.rm.toBits ++ BitVec.ofBool o.sat ++ o.m.imm))
  | .ldvu o => some (eL 0x0E o.g o.d.toBits o.m.cap o.m.idx o.m.imm)
  | .stvm o => some (eL 0x0F o.g o.src.toBits o.m.cap o.m.idx (o.vm ++ o.m.imm))
  | .cld o => some (eCapM 0x10 o)
  | .cst o => some (eCapM 0x11 o)
  | .ldblk o => some (match o.ev with
      | some e => eL 0x12 o.g (2#2 ++ o.f) o.m.cap o.m.idx (o.n ++ e ++ o.m.imm)
      | none => eL 0x12 o.g (0#2 ++ o.f) o.m.cap o.m.idx (o.n ++ 0#5 ++ o.m.imm))
  | .blkrel o => some (eFlag 0x13 o)
  | .blkwait o => some (eFlag 0x14 o)
  | .pref o => some (eL 0x15 o.g (0#5 ++ BitVec.ofBool o.drop) o.m.cap o.m.idx o.m.imm)
  | .probeLookup o => some (eProbe 0 o)
  | .probePin o => some (eProbe 1 o)
  | .probeUnpin o => some (eProbe 2 o)
  | .amoaddI32 o => some (eAtom 0x18 o)
  | .amoaddI64 o => some (eAtom 0x19 o)
  | .amominI32 o => some (eAtom 0x1A o)
  | .amominI64 o => some (eAtom 0x1B o)
  | .amomaxI32 o => some (eAtom 0x1C o)
  | .amomaxI64 o => some (eAtom 0x1D o)
  | .amominnI32 o => some (eAtom 0x1E o)
  | .amominnI64 o => some (eAtom 0x1F o)
  | .amomaxnI32 o => some (eAtom 0x20 o)
  | .amomaxnI64 o => some (eAtom 0x21 o)
  | .amoandI32 o => some (eAtom 0x22 o)
  | .amoandI64 o => some (eAtom 0x23 o)
  | .amoorI32 o => some (eAtom 0x24 o)
  | .amoorI64 o => some (eAtom 0x25 o)
  | .amoxorI32 o => some (eAtom 0x26 o)
  | .amoxorI64 o => some (eAtom 0x27 o)
  | .amoswpI32 o => some (eAtom 0x28 o)
  | .amoswpI64 o => some (eAtom 0x29 o)
  | .amocasI32 o => some (eAtom 0x2A o)
  | .amocasI64 o => some (eAtom 0x2B o)
  | .amofaddF32 o => some (eAtom 0x2C o)
  | .amobaddI32 o => some (eAtom 0x2E o)
  | .amobaddI64 o => some (eAtom 0x2F o)
  | .pfence o => some (eL 0x30 o.g 0 0 0 (0#3 ++ o.scope ++ o.succ ++ o.pred))
  | .actset o => some (eL 0x31 o.g (0#3 ++ o.list) 0 o.idx (o.nb.toBits ++ o.imm))
  | .actclr o => some (eL 0x32 o.g (0#3 ++ o.list) 0 o.idx (0#2 ++ o.imm))
  | .tlbinvRng o => some (eL 0x33 o.g (0#1 ++ o.a) 0 o.b (0#17 ++ o.c))
  | .tlbinvAsid o => some (eL 0x33 o.g 0 0 0 (1#2 ++ 0#15 ++ o.c))
  | .tlbinvAll o => some (eL 0x33 o.g 0 0 0 (2#2 ++ 0#20))
  | .waitev o => some (eL 0x38 o.g 0 0 o.e.idx o.e.imm)
  | .signal o => some (eEvReg 0x39 o)
  | .evinit o => some (eEvReg 0x3A o)
  | .evquery o => some (eEvReg 0x3B o)
  | .launch o => some (eScal 0x3C o)
  | .taskend o => some (let e := o.e1.getD ⟨0, 0⟩
      eL 0x3D o.g (0#1 ++ o.e2.getD 0) (0#2 ++ BitVec.ofBool o.e2.isSome ++ BitVec.ofBool o.e1.isSome) e.idx e.imm)
  | .govtick o => some (let e := o.e.getD ⟨0, 0⟩
      eL 0x40 o.g 0 (0#2 ++ BitVec.ofBool o.wait ++ BitVec.ofBool o.e.isSome) e.idx e.imm)
  | .rescale o => some (eL 0x41 o.g 0 o.m.cap o.m.idx o.m.imm)
  | .stepbegin o => some (eScal 0x42 o)
  | .stepcommit o => some (eL 0x43 o.g (0#1 ++ o.d) 0 0 0)
  | .stepabort o => some (eL 0x44 o.g 0 0 0 0)
  | .rbqpush o => some (eL 0x45 o.g (0#5 ++ BitVec.ofBool o.flush) o.m.cap o.m.idx o.m.imm)
  | .vadd o => some (eVBin 0x001 o)
  | .vsub o => some (eVBin 0x002 o)
  | .vmul o => some (eVBin 0x003 o)
  | .vfma o => some (eVTer 0x004 o)
  | .vfms o => some (eVTer 0x005 o)
  | .vfnma o => some (eVTer 0x006 o)
  | .vmin o => some (eVMinMax 0x007 o)
  | .vmax o => some (eVMinMax 0x008 o)
  | .vabs o => some (eVSign 0x009 o)
  | .vneg o => some (eVSign 0x00A o)
  | .vrcp o => some (eVSpec 0x00B o)
  | .vrsqrt o => some (eVSpec 0x00C o)
  | .vsqrt o => some (eVSpec 0x00D o)
  | .vexp2 o => some (eVSpec 0x00E o)
  | .vlog2 o => some (eVSpec 0x00F o)
  | .vsin o => some (eVSpec 0x010 o)
  | .vcos o => some (eVSpec 0x011 o)
  | .viadd o => some (eVInt 0x020 o)
  | .visub o => some (eVInt 0x021 o)
  | .vimul o => some (eVInt 0x022 o)
  | .vimulh o => some (eVIntP 0x023 o)
  | .vimin o => some (eVIntP 0x024 o)
  | .vimax o => some (eVIntP 0x025 o)
  | .vand o => some (eVIntP 0x026 o)
  | .vor o => some (eVIntP 0x027 o)
  | .vxor o => some (eVIntP 0x028 o)
  | .vandn o => some (eVIntP 0x029 o)
  | .vshl o => some (eVIntP 0x02A o)
  | .vshr o => some (eVIntP 0x02B o)
  | .vshra o => some (eVIntP 0x02C o)
  | .vfshl o => some (eVInt3 0x02D o)
  | .vfshr o => some (eVInt3 0x02E o)
  | .vclz o => some (eVSign 0x02F o)
  | .vctz o => some (eVSign 0x030 o)
  | .vpopc o => some (eVSign 0x031 o)
  | .vcmp o => some (eV 0x040 o.g (0#3 ++ o.p) o.a.toBits o.b.toBits 0 o.fmt.toBits (0#5 ++ o.cond.toBits))
  | .vsel o => some (eV 0x041 o.g o.d.toBits o.a.toBits o.b.toBits (0#3 ++ o.p) 0 0)
  | .vgmax o => some (eVGrp 0x042 o)
  | .vgmin o => some (eVGrp 0x043 o)
  | .vgsum o => some (eVGrp 0x044 o)
  | .vperm o => some (eV 0x050 o.g o.d.toBits o.a.toBits o.b.toBits 0 0 0)
  | .vbcastl o => some (eV 0x051 o.g o.d.toBits o.a.toBits 0 (o.lane.extractLsb' 0 6) 0 (0#6 ++ BitVec.ofBool o.sec ++ o.lane.extractLsb' 6 1))
  | .vxsec o => some (eV 0x052 o.g o.d.toBits o.a.toBits o.b.toBits o.n 0 (0#6 ++ o.mode.toBits))
  | .vldb o => some (eVLdb o)
  | .vstb o => some (eV 0x054 o.g o.src.toBits o.base.toBits 0 (o.off.extractLsb' 0 6) 0 (eBufMod o.buf false o.off))
  | .vstbm o => some (eV 0x055 o.g o.src.toBits o.base.toBits (0#1 ++ o.vm) (o.off.extractLsb' 0 6) 0 (eBufMod o.buf false o.off))
  | .vcvt o => some (eV 0x060 o.g o.d.toBits o.a.toBits o.b.toBits (o.sp ++ o.dp) o.dst.toBits (eRm o.rm o.sat o.src.toBits))
  | .vmaxexp o => some (eV 0x061 o.g 0 o.a.toBits 0 0 o.fmt.toBits (0#4 ++ o.h))
  | .vqps2 o => some (eV 0x062 o.g o.d.toBits o.a.toBits 0 0 6 (eRm o.rm o.sat 0))
  | .vpack o => some (eV 0x063 o.g o.d.toBits o.a.toBits o.b.toBits (0#3 ++ o.p) o.fmt.toBits 0)
  | .vunpack o => some (eV 0x064 o.g o.d.toBits o.a.toBits 0 (0#3 ++ o.p) o.fmt.toBits 0)
  | .vtget o => some (eVTan 0x070 o)
  | .vtset o => some (eVTan 0x071 o)
  | .vtzero o => some (eV 0x072 o.g (0#1 ++ o.d) 0 0 0 0 0)
  | .mma o => some (eMul 1 o)
  | .mmaz o => some (eMul 2 o)
  | .mrs o => some (eM 3 o.tile o.a o.b o.ta o.tb o.ra o.rb o.mc o.zf false o.du false)
  | .malias o => some (eM 4 0 o.a o.b false false false false false false o.sidecar false false)
  | .mnorm o => some (eM 5 0 o.a o.b o.ta o.tb o.ra o.rb o.mc false false false false)
  | .mfro o => some (eTile 6 o.tile false 0)
  | .mscale o => some (eTile 7 o.tile o.du 0)
  | .mzero o => some (eTile 8 o.tile o.du 0)
  | .mtwait o => some (match o.tile with
      | some t => eTile 9 t false 0
      | none => eTile 9 0 false 1)
  | .cpy o => some (eC 1 (eSf o.f) o.d (eCvFlags o.ev o.cv) (0#9 ++ eCvDst o.cv ++ eCvSrc o.cv))
  | .cpys o => some (eCPlain 2 o)
  | .qclose o => some (eC 3 (0#1 ++ o.q) 0 0 0)
  | .cpyw o => some (eCWait 4 o)
  | .gather o => some (eCIdx 5 o)
  | .scatter o => some (eCIdx 6 o)
  | .coll o => some (eCPlain 7 o)
  | .collw o => some (eCWait 8 o)
  | .tlbinvAgentRequest _ | .tlbinvAgentAck _ | .lorelleFrameReceive _ | .groupFaultDetect _ _ | .lsHomeRequest _ _
  | .pseudoChannelExit _ _ _ | .hbmCommandIssue _ | .uncorrectableError _ | .edgeFailure _ | .islandStateChange _
  | .doorbell _ | .resume _ | .prmpt _ | .dbghalt _ | .hostCxlMemAccess _ | .mmioRegisterWrite _ | .moncfgClr _
  | .monitorSample _ _ _ | .pstate _ | .thermalPowerThrottle _ _ | .thermalLowestStep _ | .thermalReset _ | .dieBoot _ _ _ _ _
  | .challenge _ | .getMeasurements _ | .spdmUnsupportedRequest _ | .coreDomainStateChange _ | .lorellePortTraining _
  | .throttlingEnds _ _ | .bundleIssue | .resultLanding | .loadValueArrival | .atomicAtHome | .atomicResponseArrival
  | .tlbinvComplete | .waitevSpinLimit | .taskCompletion | .rbqGenerate | .matrixOpStart | .matrixOpComplete
  | .samplingVarianceCheck | .matrixDeferredFault | .cpywLimitExpiry | .writeQueueDrain | .ptsTick | .statsFlushReply
  | .taskLoading | .preemptAtQBundle | .preemptAtLoopPass | .switchIn | .trapEntry | .gridFatalFault | .preboundExceeded
  | .watchdogExpiry | .gvUpdateAtHome | .activationUpdateApply | .pageWalk | .tickGovern | .stepStateRewrite
  | .pullBackgroundLine | .patrolScrub | .dispatch | .ageingPromotion | .taskSteal | .flpop | .getVersion
  | .getCapabilities | .negotiateAlgorithms | .getDigests | .getCertificate | .voltageSettled | .powerLossNotice
  | .ldblkFillDone | .ldblkFillFail | .frameFillDone | .frameFillFault | .copyComplete | .streamRowTransfer
  | .collectiveComplete | .pullComplete | .pullRegister | .pullStart | .pullCancel | .pullFirstTouch
  | .pullSourceFailure | .pseudoChannelPowerDown | .pseudoChannelSelfRefresh | .queuePacketRead | .queueSwitchIn
  | .queueSwitchOut | .gridComplete | .activationGenerationSwap | .tickComplete | .dieCacheEviction | .hostSnoop
  | .backInvalidateResponse | .statsFlush | .lorellePortRemoval | .groupFaultNotification | .hbmRefresh
  | .interruptMessage | .progress => none

end Sys2Proof
end

