-- ==== Sys2Proof/Machine/SysReg.lean ====
section
/-!
DEFINITION. MFSR and MTSR (spec 11 R272, R273, Table 11.4), every register's map, and the transfer slot (11
R276, R277).
-/

namespace Sys2Proof.Machine

/-- User access of a register number (11 Table 11.4). -/
inductive UAcc where
  | none | r | rw
  deriving DecidableEq, Repr

def userAcc (n : Nat) : UAcc :=
  if n = 0 then .r
  else if n ≤ 5 then .none
  else if n ≤ 0x14 then .r
  else if n ≤ 0x29 then .rw
  else if n = 0x2A then .r
  else if n = 0x2B ∨ n = 0x2C then .rw
  else if n = 0x2D then .r
  else if n ≤ 0x50 then .none
  else .r

/-- A privileged write to these is ignored (08 R188; 11 Table 11.4; 16 Table 16.3). -/
def loopNo (n : Nat) : Fin 4 := Fin.ofNat 4 (n % 4)

/-- Value of a system register (COREID, DIEID and the loop registers are not stored as registers). -/
def sysRead (c : CoreId) (d : Die) (t : TState) (y : Sys) (n : Nat) : Word :=
  match n with
  | 0x00 => y.status | 0x01 => y.cause | 0x02 => y.epc | 0x03 => y.slotres | 0x04 => y.eva | 0x05 => y.einfo
  | 0x10 => y.taskid | 0x11 => BitVec.ofNat 64 c.val | 0x12 => BitVec.ofNat 64 (coreDie c).val | 0x13 => y.ldie | 0x14 => y.asid
  | 0x20 => y.fpctl | 0x21 => y.chkctl | 0x22 => y.dualctl | 0x23 => y.xlane | 0x24 => y.scl | 0x25 => y.stol
  | 0x26 => t.sys.svar | 0x27 => t.sys.scnt | 0x28 => y.abft | 0x29 => y.evctl | 0x2A => y.lease | 0x2B => y.rngkey
  | 0x2C => y.rngctr | 0x2D => y.prebound | 0x2E => y.wdog
  | 0x40 => y.ptroot | 0x41 => y.rtbase | 0x42 => y.rtcnt | 0x43 => y.etbase | 0x44 => y.etcnt | 0x45 => y.ptbase
  | 0x46 => y.spbase | 0x47 => y.spcnt | 0x48 => y.albase
  | 0x50 => d.rebal
  | 0x60 | 0x61 | 0x62 | 0x63 => (t.loops.get (loopNo n)).index
  | 0x64 | 0x65 | 0x66 | 0x67 =>
    let l := t.loops.get (loopNo n)
    BitVec.ofNat 64 (l.n % 2 ^ 32 * 2 ^ 32 + l.pass % 2 ^ 32)
  | _ => 0

/-- The bits of a write that a map keeps. -/
def keep (m x : Word) : Word := x &&& m
/-- A field kept at its old value. -/
def keepOld (m old x : Word) : Word := (x &&& ~~~m) ||| (old &&& m)

/-- A write through the register's map (RSV bits read zero; out-of-range fields stay). SLOTRES.NEW is set by
a write to EPC (16 R402). -/
def sysWrite (y : Sys) (n : Nat) (x : Word) : Sys :=
  match n with
  | 0x02 => { y with epc := keep 0xFF_FFFF x, slotres := setBit y.slotres 14 true }
  | 0x20 => let v := keep 0xFF x
            { y with fpctl := if 5 ≤ (v.extractLsb' 0 3).toNat then keepOld 7 y.fpctl v else v }
  | 0x21 => { y with chkctl := if x.extractLsb' 0 2 = 3#2 then y.chkctl else keep 3 x }
  | 0x22 => let v := keep 0x1F x
            { y with dualctl := if 5 ≤ (v.extractLsb' 0 3).toNat then keepOld 7 y.dualctl v else v }
  | 0x23 => { y with xlane := keep 0xFFFF x }
  | 0x24 => { y with scl := keep 0xFFFF_FFFF x }
  | 0x25 => { y with stol := x }
  | 0x26 => { y with svar := x }
  | 0x27 => { y with scnt := keep 0xC000_0000_FFFF_FFFF x }
  | 0x28 => let v := keep 0xFF_01FF x
            { y with abft := if 256 < (v.extractLsb' 0 9).toNat then keepOld 0x1FF y.abft v else v }
  | 0x29 => { y with evctl := keep 0xFFFF x }
  | 0x2A => { y with lease := keep 0xFF x }
  | 0x2B => { y with rngkey := x }
  | 0x2C => { y with rngctr := x }
  | 0x2D => { y with prebound := keep 0xFFFF_FFFF x }
  | 0x2E => { y with wdog := x }
  | 0x40 => { y with ptroot := keep 0xF_FFFF_FFFF_F000 x }
  | 0x41 => { y with rtbase := keep 0x1FF_FFFF_FFFF_FFC0 x }
  | 0x42 => { y with rtcnt := keep 0xFF_FFFF x }
  | 0x43 => { y with etbase := keep 0x1FF_FFFF_FFFF_FFC0 x }
  | 0x44 => let v := keep 0x1_FFFF x
            { y with etcnt := if 65536 < v.toNat then y.etcnt else v }
  | 0x45 => { y with ptbase := keep 0x1FF_FFFF_FFFF_FF00 x }
  | 0x46 => { y with spbase := keep 0x1FF_FFFF_FFFF_FFC0 x }
  | 0x47 => { y with spcnt := keep 0xFFFF_FFFF x }
  | 0x48 => { y with albase := keep 0x1FF_FFFF_FFFF_FE00 x }
  | _ => y

def clearT (k : Nat) (t : STan) : STan := Vector.ofFn fun i => if i.val < k then t.get i else 0
def clearVT (k : Nat) (t : VTan4) : VTan4 := Vector.ofFn fun i => if i.val < k then t.get i else 0
def Res.clearAbove (k : Nat) : Res → Res
  | .s r x t => .s r x (clearT k t)
  | .v d l en x t => .v d l en x (clearVT k t)
  | .vtan d j l en x => if k < j then .vtan d j l 0 x else .vtan d j l en x
  | r => r
def PLoad.clearAbove (k : Nat) (l : PLoad) : PLoad := { l with cvt := l.cvt.map fun v => { v with planes := v.planes.take k } }
/-- Clears the tangent shadows above K in registers, latches, pending results and pending loads, those that a trap set aside
with them (15 R373). -/
def clearShadows (k : Nat) (t : TState) : TState :=
  let land : List Land → List Land := fun l => l.map fun e => { e with res := e.res.clearAbove k }
  { t with regs := { t.regs with sd := t.regs.sd.map (clearT k), vd := t.regs.vd.map (clearVT k), vld := t.regs.vld.map (clearVT k) },
           land := land t.land, loads := t.loads.map (PLoad.clearAbove k)
           aside := t.aside.map fun a => { a with land := land a.land, loads := a.loads.map (PLoad.clearAbove k)
                                                  arrived := a.arrived.map (Res.clearAbove k) } }
def kOf (y : Sys) : Nat := min 4 (y.dualctl.extractLsb' 0 3).toNat

/-- A matrix operation that writes SVAR or SCNT is queued or running (11 R273). -/
def MKind.sampling : MKind → Bool
  | .mrs .. | .draws _ | .fro => true
  | _ => false
def samplingBusy (m : Mat) : Bool :=
  m.queue.any (fun o => o.kind.sampling) || (match m.run with | some r => r.op.kind.sampling | none => false)

/-- MFSR (11 R272, R273). -/
def execMfsr (o : SMfsr) (s : State) : Res1 :=
  guarded o.g s (
    let n := o.num.toNat
    if !privMode s.k && userAcc n == .none then raise s 3 1
    else if (n = 0x26 ∨ n = 0x27) ∧ samplingBusy s.k.mat then freeze s
    else .ok (s.outS 1 o.d (sysRead s.cur (s.die (coreDie s.cur)) s.k.t s.isys n)))

/-- MTSR writes at commit (11 R272, R273). -/
def execMtsr (o : SMtsr) (s : State) : Res1 :=
  guarded o.g s (
    let n := o.num.toNat
    let x := s.sR o.a
    if !privMode s.k && userAcc n != .rw then raise s 3 (if n = 0x2A then 0 else 1)
    else if n = 0x50 then .ok (allDies.foldl (fun s d => s.modDie d fun y => { y with rebal := keep 0xFFFF_0000_FFFF x }) s)
    else if n = 0x28 then
      if s.k.t.frames.toList.any (fun f => f.f) then freeze s
      else .ok (s.modT fun t => { t with sys := sysWrite t.sys n x, frames := Vector.replicate 256 Frame.invalid })
    else if n = 0x22 then
      .ok (s.modT fun t =>
        let y := sysWrite t.sys n x
        clearShadows (kOf y) { t with sys := y })
    else .ok (s.modSys fun y => sysWrite y n x))

/-! ## Transfer slot (11 Table 11.6) -/

/-- Whole-lane tangents of a scalar register, broadcast. -/
def State.bcastT (s : State) (r : SReg) : VTan4 :=
  Vector.ofFn fun i => if i.val < s.tk then rowOf fun _ => (s.sTan r (i.val + 1)).toNat else 0

def execXsv (o : XReg) (s : State) : Res1 :=
  finish (.ok (s.land 3 (.v (some o.v) none (BitVec.allOnes 128) (rowOf fun _ => (s.sR o.s).toNat % 2 ^ 32) (s.bcastT o.s))))
/-- XLANE.IN moves on when IINC is set. -/
def execXsvl (o : XReg) (s : State) : Res1 :=
  let x := s.isys.xlane
  let i := (x.extractLsb' 0 7).toNat
  let s1 := s.land 3 (.v (some o.v) none (1#128 <<< i) (rowOf fun _ => (s.sR o.s).toNat % 2 ^ 32) (s.bcastT o.s))
  finish (.ok (if x.getLsbD 7 then s1.modSys fun y =>
    { y with xlane := keepOld (~~~0x7F#64) y.xlane (BitVec.ofNat 64 ((i + 1) % 128)) } else s1))
def execXsp (o : XPred) (s : State) : Res1 :=
  let sh := if o.h then 64 else 0
  finish (.ok (s.land 3 (.vp o.p (0xFFFF_FFFF_FFFF_FFFF#128 <<< sh) ((s.sR o.s).setWidth 128 <<< sh))))
def execXvs (o : XReg) (s : State) : Res1 :=
  let x := s.isys.xlane
  let i := (x.extractLsb' 8 7).toNat
  let r := s.iregs.v.get o.v.toFin
  let t : STan := Vector.ofFn fun k => if k.val < s.tk then BitVec.ofNat 32 (lane ((s.iregs.vd.get o.v.toFin).get k) i) else 0
  let s1 := s.land 3 (.s o.s (BitVec.ofNat 64 (lane r i)) t)
  finish (.ok (if x.getLsbD 15 then s1.modSys fun y =>
    { y with xlane := keepOld (~~~0x7F00#64) y.xlane (BitVec.ofNat 64 ((i + 1) % 128 * 256)) } else s1))
def execXps (o : XPred) (s : State) : Res1 :=
  finish (.ok (s.outS 3 o.s (((s.vP o.p) >>> (if o.h then 64 else 0)).setWidth 64)))
def execXpsAny (o : XAny) (s : State) : Res1 :=
  finish (.ok (s.outS 3 o.s (if s.vP o.p = 0 then 0 else 1)))

end Sys2Proof.Machine
end

