-- ==== Sys2Proof/Machine/Matrix.lean ====
section
/-!
DEFINITION. The matrix engine and the alias unit (spec 14; 15 R385 to R387): descriptor checks at issue, the queue,
products with their tangent passes, tile operations, norms, the alias table and random sampling.
-/

namespace Sys2Proof.Machine

open Sys2Proof.NumFmt (XV)

/-! ## Descriptors (14 Table 14.1) -/

def MDesc.f (d : MDesc) (hi lo : Nat) : Nat := d.w0.toNat / 2 ^ lo % 2 ^ (hi - lo + 1)
def MDesc.g (d : MDesc) (hi lo : Nat) : Nat := d.w1.toNat / 2 ^ lo % 2 ^ (hi - lo + 1)
def MDesc.buf (d : MDesc) : Option Buf := match d.f 63 62 with | 1 => some .abuf | 2 => some .wbuf | _ => none
def MDesc.peer (d : MDesc) : Nat := d.f 61 60
def MDesc.fmt (d : MDesc) : Option Fmt := Fmt.ofBits (BitVec.ofNat 4 (d.f 59 56))
def MDesc.base (d : MDesc) : Nat := d.f 55 43
def MDesc.bsrow (d : MDesc) : Nat := d.f 42 30
def MDesc.len (d : MDesc) : Nat := d.f 29 15
def MDesc.rs (d : MDesc) : Bool := d.f 14 14 = 1
def MDesc.tr (d : MDesc) : Bool := d.f 13 13 = 1
def MDesc.rows (d : MDesc) : Nat := d.g 63 51 + 1
def MDesc.tstr (d : MDesc) : Nat := d.g 50 38
def MDesc.sig (d : MDesc) : Int := NumFmt.toSigned 8 (d.g 37 30)
def MDesc.koff (d : MDesc) : Nat := d.g 29 6

/-- Contraction indices of one operand row and cycle; none for a format the array does not accept (Table 14.2). -/
def arrayP : Fmt → Option Nat
  | .e4m3 | .e5m2 => some 4
  | .mxf4 | .ps2 => some 8
  | .bf16 => some 2
  | _ => none
def MDesc.p (d : MDesc) : Nat := ((d.fmt.bind arrayP).getD 4)
/-- Buffer rows of a contraction length: K/p, or K/4 for PS2. -/
def MDesc.opRows (d : MDesc) : Nat := if d.fmt = some .ps2 then d.len / 4 else d.len / d.p
/-- Block-scale rows (14 R354). -/
def MDesc.scaleRows (d : MDesc) : Nat :=
  match d.fmt with
  | some .mxf4 => (d.len / 8 + 15) / 16
  | some .ps2 => (d.len / 8 + 3) / 4
  | _ => 0

/-- MALIAS reads no operand rows. -/
def MKind.reads : MKind → Bool
  | .draws _ => false
  | _ => true
/-- Class 10 details found at issue (14 R351, Table 14.6), the lowest detail first. `t` is the slot's TA or TB, `dk` the
tangents of a dual operation, `reads` whether it reads block-scale rows. -/
def descErr (t : Bool) (dk : Nat) (reads : Bool) (d : MDesc) (det : Nat) : Bool :=
  match det with
  | 0 => d.buf.isNone
  | 1 => (d.fmt.bind arrayP).isNone
  | 2 => d.len < 32 || 16384 < d.len || d.len % 32 != 0 || decide (d.rows < d.opRows)
  | 3 => decide (8192 < d.base + d.rows) || (reads && d.scaleRows != 0 && decide (8192 < d.bsrow + d.scaleRows))
      || (dk != 0 && decide (8192 < d.base + dk * d.tstr + d.len / 2))
  | 4 => (d.tr != t) && (d.fmt == some .mxf4 || d.buf == some .abuf)
  | 5 => d.f 12 0 != 0 || d.g 5 0 != 0
  | _ => false

/-- Tiles a dual operation may name (15 R385). -/
def tileErr (dk tile : Nat) : Bool := (dk == 1 && decide (16 ≤ tile)) || ((dk == 2 || dk == 3) && decide (8 ≤ tile))

/-- Sigma of an operand, and the address of the record it engages; with RS the live format is checked too (14 R355). `mop`
asks for the capability anyway. -/
def sigmaOf (s : State) (d : MDesc) (mop : Bool) : Op (State × Int × Nat) :=
  if !d.rs && !mop then .ok (s, d.sig, 0)
  else if !d.cap.tag then raise s 4 0
  else if !d.cap.perms.getLsbD 4 then raise s 4 3
  else if d.cap.handle = 0 then raise s 4 10
  else do
    let v := s.gvOf
    let (s, r) ← gvOp s d.cap.handle 0 (engage s v.d v.ctx d.cap.handle)
    if !d.rs then pure (s, d.sig, r.va)
    else if d.fmt != some (recFmt r.w.fmt) then raise s 10 7
    else pure (s, r.w.sigma r.w.live, r.va)

/-- Puts an operation into the queue, setting the busy bits of its tiles (14 R349, 04 R115). -/
def queueOp (s : State) (o : MOp) : Op State :=
  if 4 ≤ s.k.mat.queue.length then freeze s
  else .ok (s.modK fun k =>
    let k := o.tiles.foldl (fun k t => setTile k t true) k
    { k with mat := { k.mat with queue := k.mat.queue ++ [o] } })

def nullMDesc : MDesc := ⟨0, 0, Cap.null⟩

/-- Flags of an operand slot (14 R356, R357). -/
structure MFlags where
  (ta tb ra rb mc : Bool)
  deriving DecidableEq, Repr

/-- Checks two descriptors and queues the operation; `sameK` is false for MNORM alone, `mop` asks for the records of
MALIAS with sidecar norms, `late` is the detail of class 12 that then stands against the slot. DESIGN CHOICE (log 61): of several
details of class 10 the lowest is raised. -/
def pairOp (s : State) (kind : MKind) (tile : Nat) (a b : BitVec 4) (fl : MFlags) (dk : Nat) (sameK mop : Bool) (late : Option Nat) :
    Op State :=
  let da := s.iregs.md.get a.toFin
  let db := s.iregs.md.get b.toFin
  let reads := kind.reads
  let bad : Nat → Bool := fun det =>
    descErr fl.ta dk reads da det || descErr fl.tb dk reads db det
      || (det == 1 && (da.fmt.bind arrayP) != (db.fmt.bind arrayP))
      || (det == 2 && sameK && da.len != db.len)
      || (det == 6 && tileErr dk tile)
      || (det == 8 && fl.mc && !fl.ra && !fl.rb)
  match [0, 1, 2, 3, 4, 5, 6, 8].find? bad with
  | some det => raise s 10 det
  | none => do
    let (s, sa, va) ← sigmaOf s da mop
    let (s, sb, vb) ← sigmaOf s db mop
    match late with
    | some e => raise s 12 e
    | none =>
      queueOp s { kind := kind, tile := tile, a := da, b := db, ta := da.tr != fl.ta, tb := db.tr != fl.tb, ra := fl.ra, rb := fl.rb
                  dual := dk != 0, k := dk, sigA := sa, sigB := sb, ftz := s.ftz, recA := va, recB := vb }

/-- Tangents of a matrix slot: DUALCTL.K when the bundle or the slot is dual (15 R372). -/
def State.mtk (s : State) (du : Bool) : Nat := if s.dual || du then s.dk else 0

/-! ## Slots -/

def mulOp (zero : Bool) (o : MMul) (s : State) : Res1 :=
  finish (
    let dk := s.mtk o.du
    if dk = 4 then raise s 13 3
    else pairOp s (.mul zero o.ch) o.tile.toNat o.a o.b ⟨o.ta, o.tb, o.ra, o.rb, o.mc⟩ dk true false none)
def execMma (o : MMul) (s : State) : Res1 := mulOp false o s
def execMmaz (o : MMul) (s : State) : Res1 := mulOp true o s

/-- SCNT.T and STOL.NMAX (14 Table 14.5). -/
def scntT (y : Sys) : Nat := (y.scnt.extractLsb' 0 32).toNat
def stolNmax (w : Word) : Nat := (w.extractLsb' 48 16).toNat
def stolSmin (w : Word) : Nat := (w.extractLsb' 32 16).toNat

/-- MRS (14 R365): the table, the count and the dual state are checked at issue. -/
def execMrs (o : MMrs) (s : State) : Res1 :=
  finish (
    if s.dual || o.du then raise s 13 0
    else
      let y := s.isys
      let stol := y.stol
      let len := (s.iregs.md.get o.a.toFin).len
      let late : Option Nat :=
        match s.k.mat.table with
        | none => some 0
        | some (n, _) =>
          if n ≠ len then some 1
          else if stolNmax stol = 0 ∨ (!o.zf ∧ 64 * stolNmax stol ≤ scntT y) then some 3
          else none
      pairOp s (.mrs o.zf stol (if o.zf then 0 else scntT y)) o.tile.toNat o.a o.b ⟨o.ta, o.tb, o.ra, o.rb, o.mc⟩ 0 true false late)

def execMalias (o : MAli) (s : State) : Res1 :=
  finish (pairOp s (.draws o.sidecar) 0 o.a o.b ⟨false, false, false, false, false⟩ 0 true o.sidecar none)
def execMnorm (o : MNor) (s : State) : Res1 :=
  finish (pairOp s .norm 0 o.a o.b ⟨o.ta, o.tb, o.ra, o.rb, o.mc⟩ 0 false false none)

/-- A tile operation (14 R361). -/
def tileOp (s : State) (kind : MKind) (tile : Nat) (dk : Nat) : Op State :=
  if dk = 4 then raise s 13 3
  else if tileErr dk tile then raise s 10 6
  else queueOp s { kind := kind, tile := tile, a := nullMDesc, b := nullMDesc, ta := false, tb := false, ra := false, rb := false
                   dual := dk != 0, k := dk, sigA := 0, sigB := 0, ftz := s.ftz }
def execMzero (o : MTile) (s : State) : Res1 := finish (tileOp s .zero o.tile.toNat (s.mtk o.du))
def execMscale (o : MTile) (s : State) : Res1 :=
  finish (if scntT s.isys = 0 then raise s 12 6 else tileOp s .scale o.tile.toNat (s.mtk o.du))
def execMfro (o : MTile0) (s : State) : Res1 := finish (tileOp s .fro o.tile.toNat 0)

/-- MTWAIT (14 R361): residency ends first; a tile waits for its bit, `all` for the queue and every bit. -/
def execMtwait (o : MWait) (s : State) : Res1 :=
  finish (
    match o.tile with
    | some t =>
      match tileAccess s.k t.toNat with
      | some k => .ok (s.setCore s.cur k)
      | none => freeze s
    | none =>
      if !s.k.mat.queue.isEmpty || s.k.mat.run.isSome then freeze s
      else
        let k := endResidency s.k
        if k.mat.busy = 0 then .ok (s.setCore s.cur k) else freeze s)

/-! ## Operands (14 R353 to R357) -/

/-- The core whose buffer an operand reads (01 R24). -/
def peerCore (c : CoreId) (i : Nat) : CoreId := ⟨c.val / 4 * 4 + i % 4, by omega⟩
/-- A remote operand whose peer runs no task of the context: it is idle, or its next task has not started (04 R117; 08
R191). -/
def peerBad (s : State) (c : CoreId) (remote : Bool) (d : MDesc) : Bool :=
  let p := peerCore c d.peer
  remote && p != c && (match (s.core p).task, (s.core c).task with
    | some a, some b => (s.core p).loading.isSome || a.ctx.asid != b.ctx.asid
    | _, _ => true)

/-- An operand as the engine sees it. -/
structure Side1 where
  (d : MDesc) (buf : Buf) (f : Fmt) (tr : Bool) (k : Core) (sigma : Int)
def sideOf (s : State) (c : CoreId) (remote : Bool) (d : MDesc) (tr : Bool) (sigma : Int) : Side1 :=
  ⟨d, d.buf.getD .wbuf, d.fmt.getD .bf16, tr, if remote then s.core (peerCore c d.peer) else s.core c, sigma⟩
def MOp.sideA (o : MOp) (s : State) (c : CoreId) : Side1 := sideOf s c o.ra o.a o.ta o.sigA
def MOp.sideB (o : MOp) (s : State) (c : CoreId) : Side1 := sideOf s c o.rb o.b o.tb o.sigB

/-- A row of the operand, transposed when its effective T is set. -/
def Side1.row (x : Side1) (f : Fmt) (r : Nat) : Row := readRow x.k x.buf (if x.tr then some f else none) r
/-- Row of contraction index k and its lane's element (14 R353). -/
def Side1.at_ (x : Side1) (k : Nat) : Nat × Nat :=
  let per := if x.f = .ps2 then 4 else x.d.p
  (x.d.base + k / per, k % per)
/-- Block-scale code of lane i at index k (14 R354). -/
def Side1.code (x : Side1) (k i : Nat) : Nat :=
  let c := k / 8
  match x.f with
  | .mxf4 => rowByte (bufRow x.k x.buf (x.d.bsrow + c / 16)) (4 * i + c / 4 % 4)
  | .ps2 => rowByte (bufRow x.k x.buf (x.d.bsrow + c / 4)) (4 * i + c % 4)
  | _ => 127
/-- Decoded element with its block scale, without 2^sigma. -/
def Side1.raw (x : Side1) (k i : Nat) : XV :=
  let (r, j) := x.at_ k
  NumFmt.byE8m0 (x.code k i) (NumFmt.decode x.f (elem (NumFmt.width x.f) (lane (x.row x.f r) i) j))
def Side1.val (x : Side1) (k i : Nat) : XV := (x.raw k i).scale x.sigma
/-- Tangent t of an element: BF16 rows, no scales (15 R386). -/
def Side1.tan (x : Side1) (t k i : Nat) : XV :=
  NumFmt.decode .bf16 (elem 16 (lane (x.row .bf16 (x.d.base + t * x.d.tstr + k / 2)) i) (k % 2))
/-- A row the operation reads, an operand row, a block-scale row or one of dk tangents' rows, lies in a frame that fills
(04 R113). -/
def Side1.filling (x : Side1) (dk : Nat) : Bool :=
  let busy : Nat → Nat → Bool := fun base n => (List.range n).any fun i => frameBusy x.k (base + i)
  x.buf == .abuf && (busy x.d.base x.d.opRows || busy x.d.bsrow x.d.scaleRows
    || (List.range dk).any fun t => busy (x.d.base + (t + 1) * x.d.tstr) (x.d.len / 2))

/-! ## Products -/

def accVal (a : BitVec 32) : XV := NumFmt.decode .f32 a.toNat
def accRound (ftz : Bool) (x : XV) : BitVec 32 := BitVec.ofNat 32 (NumFmt.roundTo .f32 .rne false ftz 0 x).1
/-- One cell: cycles c0, c0 + 1, … each add p exact products with one rounding (02 R57). -/
def cell (ftz : Bool) (prods : Nat → List XV) : Nat → Nat → BitVec 32 → BitVec 32
  | 0, _, a => a
  | n + 1, c, a => cell ftz prods n (c + 1) (accRound ftz (NumFmt.sum false (accVal a :: prods c)))
/-- Every cell of a tile. -/
def eachCell (acc : List (BitVec 32)) (f : Nat → Nat → BitVec 32 → BitVec 32) : List (BitVec 32) :=
  acc.zipIdx.map fun (a, i) => f (i / 128) (i % 128) a
def primalPass (o : MOp) (x y : Side1) (acc : List (BitVec 32)) : List (BitVec 32) :=
  let p := o.a.p
  eachCell acc fun m n a => cell o.ftz (fun c => (List.range p).map fun j => NumFmt.mul (x.val (p * c + j) m) (y.val (p * c + j) n)) (o.a.len / p) 0 a
/-- A product whose tangent factor is a zero contributes exactly zero (15 R375). -/
def tanMul (d x : XV) : XV := if d.isZero then XV.zero false else NumFmt.mul d x
/-- The two passes of tangent t (15 R386). -/
def tanPass (o : MOp) (x y : Side1) (t : Nat) (acc : List (BitVec 32)) : List (BitVec 32) :=
  let pass : (Nat → Nat → Nat → XV) → List (BitVec 32) → List (BitVec 32) := fun f acc =>
    eachCell acc fun m n a => cell o.ftz (fun c => (List.range 2).map fun j => f (2 * c + j) m n) (o.a.len / 2) 0 a
  pass (fun k m n => tanMul (y.tan t k n) (x.val k m)) (pass (fun k m n => tanMul (x.tan t k m) (y.val k n)) acc)

def zeroTile : List (BitVec 32) := List.replicate 16384 0

/-! ## MATRIX_OP_START (14 R349, R358) -/

/-- The next queued operation takes the array: the tile it needs stays or is loaded, another is written back. -/
def execMatrixOpStart (s : State) : Res1 :=
  match s.k.mat.run, s.k.mat.queue with
  | none, o :: rest => .next (s.modK fun k =>
      let stays : Option (List (BitVec 32)) := match o.kind, k.mat.resident with
        | .mul false _, some (t, acc) => if t = o.tile then some acc else none
        | _, _ => none
      let k := match stays with
        | some _ => { k with mat := { k.mat with resident := none } }
        | none => if o.kind.usesTile then endResidency k else k
      let acc := match stays with
        | some a => a
        | none => match o.kind with
          | .mul true _ => zeroTile
          | .mrs true _ _ => zeroTile
          | .zero => zeroTile
          | .norm => []
          | .draws _ => []
          | _ => tileRows k o.tile
      let t0 := match o.kind with | .mrs _ _ t => t | _ => 0
      let r : MRun := { op := o, acc := acc, t := t0, stopped := false, word := 0, fault := none, drawn := 0 }
      { k with mat := { k.mat with queue := rest, run := some r } })
  | _, _ => .next s

/-! ## Norms and the alias table (14 R364) -/

/-- FP32 by RNE where FTZ does not apply: F, SVAR.VAR, MFRO (14 R367). -/
def f32 (x : XV) : BitVec 32 := accRound false x
/-- Squared norms of an operand, 16,384 entries. -/
def normsOf (ftz : Bool) (x : Side1) : List (BitVec 32) :=
  (List.range 16384).map fun k =>
    if k < x.d.len then accRound ftz (NumFmt.sum false ((List.range 128).map fun i => let v := x.raw k i; NumFmt.mul v v)) else 0

/-- Smallest power of two at or above K. -/
def tableSize (k : Nat) : Nat := if 2 ^ Nat.log2 k = k then k else 2 ^ (Nat.log2 k + 1)

/-- An alias construction on its way: remaining weights, PROB and ALIAS, the small and large lists. -/
structure Build where
  (u prob other : List Nat) (small large : List Nat)
  deriving DecidableEq, Repr
def buildStep (b : Build) : Build :=
  match b.small, b.large with
  | i :: sm, l :: lg =>
    let ui := b.u.getD i 0
    let ul := b.u.getD l 0 - (65536 - ui)
    ⟨b.u.set l ul, b.prob.set i ui, b.other.set i l, if ul < 65536 then sm ++ [l] else sm, if ul < 65536 then lg else l :: lg⟩
  | _, _ => b
def buildAll : Nat → Build → Build
  | 0, b => b
  | n + 1, b => if b.small.isEmpty || b.large.isEmpty then b else buildAll n (buildStep b)
/-- Adds 1 to the d lowest entries with a weight. -/
def topUp (n : List Nat) : Nat → List Nat → List Nat
  | d, u :: us => match n with
    | w :: ws => if 0 < w ∧ 0 < d then (u + 1) :: topUp ws (d - 1) us else u :: topUp ws d us
    | [] => u :: us
  | _, [] => []

/-- The table of weights n, or the class 12 detail: 5 for a bad norm, 2 for a bad sum. -/
def aliasTable (ftz : Bool) (len : Nat) (n : List (BitVec 32)) : Except Nat (BitVec 32 × List AliasEnt) :=
  let vs := n.map accVal
  if vs.any (fun v => v.isNan || v.isInf) then .error 5
  else
    let unit := vs.foldl (fun k v => if v.isZero then k else min k v.expo) (1024 : Int)
    let ws := vs.map fun v => if v.isZero then 0 else (v.units unit).toNat
    let sx := ws.foldl (· + ·) 0
    let sumn := accRound ftz (if sx = 0 then XV.zero false else .fin false sx unit false)
    if sx = 0 || !(accVal sumn).isFin then .error 2
    else
      let size := tableSize len
      let u := ws.map fun w => 65536 * size * w / sx
      let u := topUp ws (65536 * size - u.foldl (· + ·) 0) u
      let ix := List.range size
      let b := buildAll (2 * size)
        { u := u, prob := List.replicate size 65536, other := ix
          small := ix.filter fun i => decide (u.getD i 0 < 65536), large := ix.filter fun i => decide (65536 ≤ u.getD i 0) }
      .ok (sumn, ix.map fun i =>
        ⟨b.prob.getD i 65536, b.other.getD i i, if (ws.getD i 0) = 0 then 0 else accRound ftz (NumFmt.div (accVal sumn) (vs.getD i (XV.zero false)))⟩)

/-- Norms of the sidecar of the record engaged at issue, at KOFF + k; none when they are absent or out of range. -/
def sidecarNorms (s : State) (c : CoreId) (d : MDesc) (rva : Nat) : GOp (State × Option (List (BitVec 32))) := do
  let v : Gv := ⟨coreDie c, (s.core c).ctx⟩
  let (s, r) ← recOfVa s v.d v.ctx d.cap.handle rva
  if !r.w.kmaj || decide (r.w.krows < d.koff + d.len) then pure (s, none)
  else do
    let (s, bs) ← gRead s v.d v.ctx true (r.w.side.norms + 4 * d.koff) (4 * d.len)
    pure (s, some ((List.range 16384).map fun k =>
      if k < d.len then BitVec.ofNat 32 (bytesToNat ((bs.drop (4 * k)).take 4)) else 0))

/-- EINFO of a deferred fault: the tile, and for class 10 detail 10 the cause (14 R360, Table 14.6). -/
def matInfo (tile cause : Nat) : Word := BitVec.ofNat 64 (cause * 32 + tile)

/-- Marks a fault the engine found (14 R360); MATRIX_DEFERRED_FAULT ends the operation. -/
def stopOp (s : State) (r : MRun) (cls det cause : Nat) : State :=
  s.modK fun k => { k with mat := { k.mat with run := some { r with fault := some ⟨cls, det, 0, matInfo r.op.tile cause⟩ } } }

/-- The norms MALIAS takes: those of the sidecars, or those of the last MNORM (14 R364). -/
def aliasNorms (s : State) (o : MOp) (sidecar : Bool) : GOp (State × Option (List (BitVec 32) × List (BitVec 32))) :=
  if sidecar then do
    let (s, na) ← sidecarNorms s s.cur o.a o.recA
    let (s, nb) ← sidecarNorms s s.cur o.b o.recB
    pure (s, na.bind fun a => nb.map fun b => (a, b))
  else pure (s, s.k.mat.norms)

/-- MALIAS: its norms, then its table. Details 2 and 5 leave the table invalid, the other faults leave it as it was. -/
def runAlias (s : State) (r : MRun) (sidecar : Bool) : State :=
  let o := r.op
  match aliasNorms s o sidecar with
  | .error (.wait n) => s.noted n
  | .error (.bad n c det ..) =>
    let (c, det) := if c = 4 then (20, 2) else (c, det)
    stopOp (s.noted n) r 10 10 (c * 16 + det)
  | .ok (s, none) => stopOp s r 12 4 0
  | .ok (s, some (na, nb)) =>
    let n := (List.range (tableSize o.a.len)).map fun k =>
      if k < o.a.len then accRound o.ftz ((NumFmt.sqrt (NumFmt.mul (accVal (na.getD k 0)) (accVal (nb.getD k 0)))).scale (o.sigA + o.sigB)) else 0
    match aliasTable o.ftz o.a.len n with
    | .error det => stopOp (s.modK fun k => { k with mat := { k.mat with table := none } }) r 12 det 0
    | .ok (sumn, t) => s.modK fun k =>
      { k with mat := { k.mat with table := some (o.a.len, t), run := none }
               t := { k.t with sys := { k.t.sys with svar := keepOld 0xFFFF_FFFF k.t.sys.svar (BitVec.ofNat 64 (sumn.toNat * 2 ^ 32)) } } }

/-! ## Random sampling (14 R365 to R367) -/

/-- The next sample: RBQ words left, the word in use, the 32 bits; none while the RBQ is empty. -/
def drawOne (q : List RWord) (w : BitVec 1024) (u : Nat) : Option (List RWord × BitVec 1024 × Nat) :=
  let bits : BitVec 1024 → Nat := fun w => w.toNat / 2 ^ (32 * (u % 32)) % 2 ^ 32
  if u % 32 = 0 then match q with
    | h :: t => some (t, h.w, bits h.w)
    | [] => none
  else some (q, w, bits w)
/-- Index k a sample draws. -/
def drawK (size : Nat) (t : List AliasEnt) (x : Nat) : Nat :=
  let i := x % 2 ^ 14 / 2 ^ (14 - Nat.log2 size)
  let e := t.getD i ⟨65536, i, 0⟩
  if x / 2 ^ 14 % 2 ^ 16 < e.prob then i else e.other

/-- A group (14 R366): indices drawn so far. None when a sample has to wait for a word. -/
def groupOf (size : Nat) (tab : List AliasEnt) (bankA bankB : Nat → Nat) (lim : Nat) :
    Nat → List RWord → BitVec 1024 → Nat → Nat → List Nat → Option (List RWord × BitVec 1024 × List Nat)
  | 0, q, w, _, _, ks => some (q, w, ks)
  | n + 1, q, w, u, t, ks =>
    if ks.length = lim ∨ (!ks.isEmpty ∧ (t + ks.length) % 64 = 0) then some (q, w, ks)
    else match drawOne q w (u + ks.length) with
      | none => none
      | some (q', w', x) =>
        let k := drawK size tab x
        if ks.any fun j => bankA j == bankA k || bankB j == bankB k then some (q, w, ks)
        else groupOf size tab bankA bankB lim n q' w' u t (ks ++ [k])

/-- Adds one group into the tile. -/
def addGroup (o : MOp) (x y : Side1) (tab : List AliasEnt) (ks : List Nat) (acc : List (BitVec 32)) : List (BitVec 32) :=
  eachCell acc fun m n a => accRound o.ftz (NumFmt.sum false (accVal a :: ks.map fun k =>
    NumFmt.mul (NumFmt.mul (x.val k m) (y.val k n)) (accVal (tab.getD k ⟨0, 0, 0⟩).wgt)))

/-- Samples until t is a multiple of 64 or a word is missing. -/
def sampleRun (x y : Side1) (tab : List AliasEnt) : Nat → List RWord → MRun → List RWord × MRun
  | 0, q, r => (q, r)
  | n + 1, q, r =>
    let o := r.op
    let lim := if o.ra || o.rb then 1 else 4
    let size := tableSize o.a.len
    match groupOf size tab (fun k => (x.at_ k).1 % 4) (fun k => (y.at_ k).1 % 4) lim 5 q r.word r.drawn r.t [] with
    | none => (q, r)
    | some (q, w, ks) =>
      let r := { r with acc := addGroup o x y tab ks r.acc, t := r.t + ks.length, drawn := r.drawn + ks.length, word := w }
      if r.t % 64 = 0 then (q, r) else sampleRun x y tab n q r

/-- The exact sum of the squares of a tile. -/
def sumSq (acc : List (BitVec 32)) : XV := NumFmt.sum false (acc.map fun a => NumFmt.mul (accVal a) (accVal a))
/-- F and SVAR.VAR at a check (14 R367). -/
def varianceOf (acc : List (BitVec 32)) (t : Nat) (sumn : BitVec 32) : BitVec 32 × BitVec 32 :=
  let f := f32 (NumFmt.div (sumSq acc) (XV.ofInt (t * t : Nat)))
  let d := NumFmt.sum false [NumFmt.mul (accVal sumn) (accVal sumn), (accVal f).neg]
  let d := if d.isNan then d else if d.sign then XV.zero false else d
  (f, f32 (NumFmt.div d (XV.ofInt t)))
/-- Whether a check stops the product, and how. -/
def stopOf (stol : Word) (t : Nat) (f var : BitVec 32) : Option Nat :=
  let tol := accVal (stol.extractLsb' 0 32)
  let lim := NumFmt.mul (NumFmt.mul tol tol) (accVal f)
  let within := match NumFmt.cmp (accVal var) lim with | some .gt => false | some _ => true | none => false
  if decide (64 * stolSmin stol ≤ t) && within then some 1
  else if t = 64 * stolNmax stol then some 2
  else none
def putScnt (y : Sys) (stop t : Nat) : Sys := { y with scnt := BitVec.ofNat 64 (stop % 4 * 2 ^ 62 + t % 2 ^ 32) }

/-- An MRS that samples: the run, when one is going on. -/
def mrsRun (k : Core) : Option (MRun × Word) :=
  match k.mat.run with
  | some r => match r.op.kind with | .mrs _ stol _ => if r.stopped || r.fault.isSome then none else some (r, stol) | _ => none
  | none => none

/-! ## MATRIX_OP_COMPLETE and MATRIX_DEFERRED_FAULT -/

/-- The end of an operation: its tiles are written and no longer busy, but for those other operations queue for. -/
def writeBack (k : Core) (o : MOp) (tiles : List (Nat × List (BitVec 32))) : Core :=
  let k := { k with mat := { k.mat with run := none } }
  let k := tiles.foldl (fun k x => writeTile k x.1 x.2) k
  o.tiles.foldl (fun k t => if tileQueued k t then k else setTile k t false) k

/-- Quotient of a cell by SCNT.T; where SCNT.T has become 0 since issue the spec states no quotient (log 6). -/
def scaleTile (ftz : Bool) (t : Nat) (free : Nat → Row) (acc : List (BitVec 32)) : List (BitVec 32) :=
  eachCell acc fun m n a =>
    if t = 0 then BitVec.ofNat 32 (lane (free m) n) else accRound ftz (NumFmt.div (accVal a) (XV.ofInt t))

/-- Tangent tiles of an operation with their numbers. -/
def MOp.tanTiles (o : MOp) : List (Nat × Nat) := (o.tiles.drop 1).zipIdx.map fun (t, i) => (i + 1, t)

/-- MATRIX_OP_COMPLETE (14 R356 to R368): what the running operation leaves. -/
def execMatrixOpComplete (s : State) : Res1 :=
  match s.k.mat.run with
  | none => .next s
  | some r =>
    let o := r.op
    if r.fault.isSome then .next s
    else
      match o.kind with
      | .mul zero chain =>
        if peerBad s s.cur o.ra o.a || peerBad s s.cur o.rb o.b then .next (stopOp s r 10 9 0)
        else
          let x := o.sideA s s.cur
          let y := o.sideB s s.cur
          if x.filling o.k || y.filling o.k then .next s
          else
            let acc := primalPass o x y r.acc
            let tans := o.tanTiles.map fun (t, tile) => (tile, tanPass o x y t (if zero then zeroTile else tileRows s.k tile))
            .next (s.modK fun k =>
              if chain then
                let k := writeBack k o tans
                let k := setTile k o.tile true
                { k with mat := { k.mat with resident := some (o.tile, acc) } }
              else writeBack k o ((o.tile, acc) :: tans))
      | .mrs .. => .next (if r.stopped then s.modK fun k => writeBack k o [(o.tile, r.acc)] else s)
      | .draws sidecar => .next (runAlias s r sidecar)
      | .norm =>
        if peerBad s s.cur o.ra o.a || peerBad s s.cur o.rb o.b then .next (stopOp s r 10 9 0)
        else
          let x := o.sideA s s.cur
          let y := o.sideB s s.cur
          if x.filling o.k || y.filling o.k then .next s
          else .next (s.modK fun k =>
            { k with mat := { k.mat with run := none, norms := some (normsOf o.ftz x, normsOf o.ftz y) } })
      | .fro => .next (s.modK fun k =>
          let k := writeBack k o []
          { k with t := { k.t with sys := { k.t.sys with svar := keepOld (~~~0xFFFF_FFFF#64) k.t.sys.svar ((f32 (sumSq r.acc)).setWidth 64) } } })
      | .scale =>
        let t := scntT s.k.t.sys
        let free : Nat → Row := fun m => Config.freeRow (s.fresh + m)
        let tans : List (Nat × List (BitVec 32)) := o.tanTiles.map fun x => (x.2, scaleTile o.ftz t free (tileRows s.k x.2))
        .next ({ s with fresh := s.fresh + 128 }.modK fun k => writeBack k o ((o.tile, scaleTile o.ftz t free r.acc) :: tans))
      | .zero => .next (s.modK fun k => writeBack k o (o.tiles.map fun t => (t, zeroTile)))

/-- MATRIX_DEFERRED_FAULT (14 R360): the operation's rows stay in its tile, later operations are discarded, and the fault
waits for the next boundary. A resident tile that a discarded operation names is written back, since its bit clears. An
MRS ends with STOP 0b11. -/
def execMatrixDeferredFault (s : State) : Res1 :=
  match s.k.mat.run with
  | none => .next s
  | some r =>
    match r.fault with
    | none => .next s
    | some f =>
      let s := s.modK fun k =>
        let later := k.mat.queue
        let k := { k with mat := { k.mat with queue := [] } }
        let kept : Bool := match k.mat.resident with
          | some (t, _) => !(later.any fun o => o.tiles.contains t)
          | none => true
        let k := if kept then k else endResidency k
        let k := later.foldl (fun k o => o.tiles.foldl (fun k t => setTile k t false) k) k
        let k := writeBack k r.op (if r.op.kind.usesTile then [(r.op.tile, r.acc)] else [])
        match r.op.kind with
        | .mrs .. => { k with t := { k.t with sys := putScnt k.t.sys 3 (scntT k.t.sys) } }
        | _ => k
      .next (pendFault s s.cur f)

end Sys2Proof.Machine
end

