-- ==== Sys2Proof/Machine/Uses.lean ====
section
/-!
DEFINITION. What an instruction names (spec 10 R232, R238, R243, R245; 11 R266): the registers it reads and writes, its
guard, its stream operands, its rounding code, and whether it may stand in a repeated bundle.
-/

namespace Sys2Proof.Machine

/-- A register, latch or special register (10 Table 10.4). -/
inductive RegN where
  | s (r : SReg) | sp (p : BitVec 3) | c (r : CReg) | md (d : BitVec 4) | cd (d : BitVec 4)
  | v (r : BitVec 5) | vp (p : BitVec 3) | latch (l : BitVec 1) | sys (n : Nat)
  deriving DecidableEq, Repr

/-- Registers read and written. s0 is left out, and so are reads of the constants sp0 and vp0. -/
structure Uses where
  (r w : List RegN)
  deriving DecidableEq, Repr

def nS (r : SReg) : List RegN := if r = 0 then [] else [.s r]
def nP (p : BitVec 3) : List RegN := if p = 0 then [] else [.sp p]
def nVp (p : BitVec 3) : List RegN := if p = 0 then [] else [.vp p]
/-- A predicate written: sp0 and vp0 discard, but only s0 may be named by several slots (10 R232). -/
def wP (p : BitVec 3) : List RegN := [.sp p]
def wVp (p : BitVec 3) : List RegN := [.vp p]
def nG (g : Guard) : List RegN := nP (g.extractLsb' 0 3)
def nB : SSrc → List RegN
  | .reg b => nS b
  | .imm _ => []
def nV : VSrc → List RegN
  | .reg n => [.v n] | .v0l => [.latch 0] | .v1l => [.latch 1] | .zero => [] | .pop _ => []
def nD : VDst → List RegN
  | .reg n => [.v n] | .latch => [] | .push _ => []
def nBase : RowBase → List RegN
  | .reg n => [.v n] | .zero => []
def nM (m : MAddr) : List RegN := .c m.cap :: nS m.idx
def nM17 (m : MAddr17) : List RegN := .c m.cap :: nS m.idx
def nM10 (m : MAddr10) : List RegN := .c m.cap :: nS m.idx
/-- Reads of a vector slot beside its sources. -/
def nVg (g : VG) (xs : List VSrc) : List RegN := nVp g.p ++ xs.flatMap nV

def uAlu (o : SAlu) : Uses := ⟨nG o.g ++ nS o.a ++ nB o.b, nS o.d⟩
def uReg3 (o : SReg3) : Uses := ⟨nG o.g ++ nS o.a ++ nS o.b, nS o.d⟩
def uFun (o : SFun) : Uses := ⟨nG o.g ++ nS o.a ++ nS o.b, nS o.d⟩
def uWid (o : SWid) : Uses := ⟨nG o.g ++ nS o.a, nS o.d⟩
def uCmp (o : SCmp) : Uses := ⟨nG o.g ++ nS o.a ++ nB o.b, wP o.p⟩
def uFlt (o : SFlt) : Uses := ⟨nG o.g ++ nS o.a ++ nS o.b, nS o.d⟩
def uCget (o : SCget) : Uses := ⟨nG o.g ++ [.c o.a], nS o.d⟩
def uLd (o : LScal) : Uses := ⟨nG o.g ++ nM o.m, nS o.d⟩
def uSt (o : LScal) : Uses := ⟨nG o.g ++ nM o.m ++ nS o.d, []⟩
def uAtom (o : LAtom) : Uses := ⟨nG o.g ++ nM17 o.m ++ nS o.b, nS o.d⟩
/-- AMOCAS also reads its destination. -/
def uCas (o : LAtom) : Uses := ⟨nG o.g ++ nM17 o.m ++ nS o.b ++ nS o.d, nS o.d⟩
def uProbe (o : LProbe) : Uses := ⟨nG o.g ++ nM10 o.m, nS o.d⟩
def uVBin (o : VBin) : Uses := ⟨nVg o.g [o.a, o.b], nD o.d⟩
def uVTer (o : VTer) : Uses := ⟨nVg o.g [o.a, o.b, o.c], nD o.d⟩
def uVMm (o : VMinMax) : Uses := ⟨nVg o.g [o.a, o.b], nD o.d⟩
def uVSign (o : VSign) : Uses := ⟨nVg o.g [o.a], nD o.d⟩
def uVSpec (o : VSpec) : Uses := ⟨nVg o.g [o.a], nD o.d⟩
def uVInt (o : VInt) : Uses := ⟨nVg o.g [o.a, o.b], nD o.d⟩
def uVIntP (o : VIntP) : Uses := ⟨nVg o.g [o.a, o.b], nD o.d⟩
def uVInt3 (o : VInt3) : Uses := ⟨nVg o.g [o.a, o.b, o.c], nD o.d⟩
def uVGrp (o : VGrp) : Uses := ⟨nVg o.g [o.a], nD o.d⟩
def uMul (o : MMul) : Uses := ⟨[.md o.a, .md o.b], []⟩
def noUses : Uses := ⟨[], []⟩

/-- Registers of an instruction; the event steps are no slots. -/
def usesOf : Instr → Uses
  | .add o | .sub o | .and o | .or o | .xor o | .andn o | .shl o | .shr o | .shra o | .rotl o | .min o | .max o | .minn o | .maxn o => uAlu o
  | .addi o => ⟨nG o.g ++ nS o.a, nS o.d⟩
  | .mul o | .mulh o | .mulhn o | .div o | .divn o | .mod o | .modn o => uReg3 o
  | .fshl o | .fshr o => uFun o
  | .clz o | .ctz o | .popc o | .sext o | .zext o => uWid o
  | .li o => ⟨nG o.g, nS o.d⟩
  | .lih o => ⟨nG o.g ++ nS o.a, nS o.d⟩
  | .mov o => ⟨nG o.g ++ nS o.a, nS o.d⟩
  | .sel o => ⟨nG o.g ++ nS o.a ++ nS o.b ++ nG o.p, nS o.d⟩
  | .cmpeq o | .cmpne o | .cmplt o | .cmple o | .cmpltn o | .cmplen o => uCmp o
  | .sfadd o | .sfmul o => uFlt o
  | .sffma o => ⟨nG o.g ++ nS o.a ++ nS o.b ++ nS o.d, nS o.d⟩
  | .sfcvt o => ⟨nG o.g ++ nS o.a, nS o.d⟩
  | .sfcmp o => ⟨nG o.g ++ nS o.a ++ nS o.b, wP o.p⟩
  | .br o => ⟨nG o.g, []⟩
  | .brc o => ⟨nG o.g ++ nS o.a, []⟩
  | .call o => ⟨nG o.g, nS o.d⟩
  | .ret o => ⟨nG o.g ++ nS o.a, []⟩
  | .jmpi o => ⟨nG o.g ++ nS o.a, []⟩
  | .loop o => ⟨nG o.g ++ nS o.cnt ++ nS o.start, nS o.ireg⟩
  | .lbreak o | .lbreakDrain o => ⟨nG o.g, []⟩
  | .cnarrow o => ⟨nG o.g ++ [.c o.a] ++ nS o.off ++ nS o.len, [.c o.d]⟩
  | .cperm o => ⟨nG o.g ++ [.c o.a], [.c o.d]⟩
  | .cgetb o | .cgetl o | .cgeth o => uCget o
  | .ctest o => ⟨nG o.g ++ [.c o.a], wP o.p⟩
  | .cmov o => ⟨nG o.g ++ [.c o.a], [.c o.d]⟩
  | .mdsetWord o => ⟨nG o.g ++ nS o.a, [.md o.d]⟩
  | .mdsetCap o => ⟨nG o.g ++ [.c o.a], [.md o.d]⟩
  | .cdsetWord o => ⟨nG o.g ++ nS o.a, [.cd o.d]⟩
  | .cdsetCap o => ⟨nG o.g ++ [.c o.a], [.cd o.d]⟩
  | .trap o => ⟨nG o.g, []⟩
  | .rett o => ⟨nG o.g, []⟩
  | .mfsr o => ⟨nG o.g ++ [.sys o.num.toNat], nS o.d⟩
  | .mtsr o => ⟨nG o.g ++ nS o.a, [.sys o.num.toNat]⟩
  | .xsv o => ⟨nS o.s, [.v o.v]⟩
  | .xsvl o => ⟨nS o.s ++ [.sys 0x23], [.v o.v]⟩
  | .xsp o => ⟨nS o.s, wVp o.p⟩
  | .xvs o => ⟨[.v o.v, .sys 0x23], nS o.s⟩
  | .xps o => ⟨nVp o.p, nS o.s⟩
  | .xpsAny o => ⟨nVp o.p, nS o.s⟩
  | .ldI8 o | .ldN8 o | .ldI16 o | .ldN16 o | .ldI32 o | .ldN32 o | .ldI64 o => uLd o
  | .stI8 o | .stI16 o | .stI32 o | .stI64 o => uSt o
  | .ldv o => ⟨nG o.g ++ nM17 o.m, [.v o.d]⟩
  | .ldvCvt o => ⟨nG o.g ++ nM17 o.m, [.v o.d]⟩
  | .stv o => ⟨nG o.g ++ nM17 o.m ++ nV o.src, []⟩
  | .stvCvt o => ⟨nG o.g ++ nM17 o.m ++ nV o.src, []⟩
  | .ldvu o => ⟨nG o.g ++ nM o.m, nD o.d⟩
  | .stvm o => ⟨nG o.g ++ nM17 o.m ++ nV o.src ++ [.v o.vm], []⟩
  | .cld o => ⟨nG o.g ++ nM o.m, [.c o.c]⟩
  | .cst o => ⟨nG o.g ++ nM o.m ++ [.c o.c], []⟩
  | .ldblk o => ⟨nG o.g ++ nM10 o.m ++ (match o.ev with | some e => nS e | none => []), []⟩
  | .blkrel o | .blkwait o => ⟨nG o.g, []⟩
  | .pref o => ⟨nG o.g ++ nM o.m, []⟩
  | .probeLookup o | .probePin o | .probeUnpin o => uProbe o
  | .amoaddI32 o | .amoaddI64 o | .amominI32 o | .amominI64 o | .amomaxI32 o | .amomaxI64 o | .amominnI32 o | .amominnI64 o
  | .amomaxnI32 o | .amomaxnI64 o | .amoandI32 o | .amoandI64 o | .amoorI32 o | .amoorI64 o | .amoxorI32 o | .amoxorI64 o
  | .amoswpI32 o | .amoswpI64 o | .amofaddF32 o | .amobaddI32 o | .amobaddI64 o => uAtom o
  | .amocasI32 o | .amocasI64 o => uCas o
  | .pfence o => ⟨nG o.g, []⟩
  | .actset o => ⟨nG o.g ++ nS o.idx, []⟩
  | .actclr o => ⟨nG o.g ++ nS o.idx, []⟩
  | .tlbinvRng o => ⟨nG o.g ++ nS o.a ++ nS o.b ++ nS o.c, []⟩
  | .tlbinvAsid o => ⟨nG o.g ++ nS o.c, []⟩
  | .tlbinvAll o => ⟨nG o.g, []⟩
  | .waitev o => ⟨nG o.g ++ nS o.e.idx, []⟩
  | .signal o => ⟨nG o.g ++ nS o.e.idx ++ nS o.d, []⟩
  | .evinit o => ⟨nG o.g ++ nS o.e.idx ++ nS o.d, []⟩
  | .evquery o => ⟨nG o.g ++ nS o.e.idx, nS o.d⟩
  | .launch o => uSt o
  | .taskend o => ⟨nG o.g ++ (match o.e1 with | some e => nS e.idx | none => []) ++ (match o.e2 with | some r => nS r | none => []), []⟩
  | .govtick o => ⟨nG o.g ++ (match o.e with | some e => nS e.idx | none => []), []⟩
  | .rescale o => ⟨nG o.g ++ nM o.m, []⟩
  | .stepbegin o => uSt o
  | .stepcommit o => ⟨nG o.g, nS o.d⟩
  | .stepabort o => ⟨nG o.g, []⟩
  | .rbqpush o => ⟨nG o.g ++ nM o.m, []⟩
  | .vadd o | .vsub o | .vmul o => uVBin o
  | .vfma o | .vfms o | .vfnma o => uVTer o
  | .vmin o | .vmax o => uVMm o
  | .vabs o | .vneg o | .vclz o | .vctz o | .vpopc o => uVSign o
  | .vrcp o | .vrsqrt o | .vsqrt o | .vexp2 o | .vlog2 o | .vsin o | .vcos o => uVSpec o
  | .viadd o | .visub o | .vimul o => uVInt o
  | .vimulh o | .vimin o | .vimax o | .vand o | .vor o | .vxor o | .vandn o | .vshl o | .vshr o | .vshra o => uVIntP o
  | .vfshl o | .vfshr o => uVInt3 o
  | .vcmp o => ⟨nVg o.g [o.a, o.b], wVp o.p⟩
  | .vsel o => ⟨nVg o.g [o.a, o.b] ++ nVp o.p, nD o.d⟩
  | .vgmax o | .vgmin o | .vgsum o => uVGrp o
  | .vperm o => ⟨nVg o.g [o.a, o.b], nD o.d⟩
  | .vbcastl o => ⟨nVg o.g [o.a], nD o.d⟩
  | .vxsec o => ⟨nVg o.g (if o.mode = .rot then [o.a] else [o.a, o.b]), nD o.d⟩
  | .vldb o => ⟨nVg o.g [] ++ nBase o.base, nD o.d⟩
  | .vstb o => ⟨nVg o.g [o.src] ++ nBase o.base, []⟩
  | .vstbm o => ⟨nVg o.g [o.src] ++ nBase o.base ++ [.v o.vm], []⟩
  | .vcvt o => ⟨nVg o.g [o.a, o.b] ++ (if o.src.narrow || o.dst.narrow then [.sys 0x24] else []), nD o.d⟩
  | .vmaxexp o => ⟨nVg o.g [o.a], [.sys 0x24]⟩
  | .vqps2 o => ⟨nVg o.g [o.a], nD o.d⟩
  | .vpack o => ⟨nVg o.g [o.a, o.b], nD o.d⟩
  | .vunpack o => ⟨nVg o.g [o.a], nD o.d⟩
  | .vtget o => ⟨nVg o.g [o.a], [.v o.d]⟩
  | .vtset o => ⟨nVg o.g [o.a], [.v o.d]⟩
  | .vtzero o => ⟨nVg o.g [], [.v o.d]⟩
  | .mma o | .mmaz o => uMul o
  | .mrs o => ⟨[.md o.a, .md o.b], []⟩
  | .malias o => ⟨[.md o.a, .md o.b], []⟩
  | .mnorm o => ⟨[.md o.a, .md o.b], []⟩
  | .cpy o => ⟨[.cd o.d], []⟩
  | .cpys o => ⟨[.cd o.d], []⟩
  | .gather o | .scatter o => ⟨[.cd o.d, .cd o.x], []⟩
  | .coll o => ⟨[.cd o.d], []⟩
  | .cpyw o | .collw o => ⟨[], if o.pv then wP o.p else []⟩
  | _ => noUses

/-- Guard of an S or L instruction. -/
def sGuardOf : Instr → Option Guard
  | .add o | .sub o | .and o | .or o | .xor o | .andn o | .shl o | .shr o | .shra o | .rotl o | .min o | .max o | .minn o | .maxn o => some o.g
  | .addi o => some o.g
  | .mul o | .mulh o | .mulhn o | .div o | .divn o | .mod o | .modn o => some o.g
  | .fshl o | .fshr o => some o.g
  | .clz o | .ctz o | .popc o | .sext o | .zext o => some o.g
  | .li o => some o.g
  | .lih o => some o.g
  | .mov o => some o.g
  | .sel o => some o.g
  | .cmpeq o | .cmpne o | .cmplt o | .cmple o | .cmpltn o | .cmplen o => some o.g
  | .sfadd o | .sfmul o => some o.g
  | .sffma o => some o.g
  | .sfcvt o => some o.g
  | .sfcmp o => some o.g
  | .br o => some o.g
  | .brc o => some o.g
  | .call o => some o.g
  | .ret o => some o.g
  | .jmpi o => some o.g
  | .loop o => some o.g
  | .lbreak o | .lbreakDrain o => some o.g
  | .cnarrow o => some o.g
  | .cperm o => some o.g
  | .cgetb o | .cgetl o | .cgeth o => some o.g
  | .ctest o => some o.g
  | .cmov o => some o.g
  | .mdsetWord o => some o.g
  | .mdsetCap o => some o.g
  | .cdsetWord o => some o.g
  | .cdsetCap o => some o.g
  | .trap o => some o.g
  | .rett o => some o.g
  | .mfsr o => some o.g
  | .mtsr o => some o.g
  | .ldI8 o | .ldN8 o | .ldI16 o | .ldN16 o | .ldI32 o | .ldN32 o | .ldI64 o => some o.g
  | .stI8 o | .stI16 o | .stI32 o | .stI64 o => some o.g
  | .ldv o => some o.g
  | .ldvCvt o => some o.g
  | .stv o => some o.g
  | .stvCvt o => some o.g
  | .ldvu o => some o.g
  | .stvm o => some o.g
  | .cld o => some o.g
  | .cst o => some o.g
  | .ldblk o => some o.g
  | .blkrel o | .blkwait o => some o.g
  | .pref o => some o.g
  | .probeLookup o | .probePin o | .probeUnpin o => some o.g
  | .amoaddI32 o | .amoaddI64 o | .amominI32 o | .amominI64 o | .amomaxI32 o | .amomaxI64 o | .amominnI32 o | .amominnI64 o
  | .amomaxnI32 o | .amomaxnI64 o | .amoandI32 o | .amoandI64 o | .amoorI32 o | .amoorI64 o | .amoxorI32 o | .amoxorI64 o
  | .amoswpI32 o | .amoswpI64 o | .amofaddF32 o | .amobaddI32 o | .amobaddI64 o | .amocasI32 o | .amocasI64 o => some o.g
  | .pfence o => some o.g
  | .actset o => some o.g
  | .actclr o => some o.g
  | .tlbinvRng o => some o.g
  | .tlbinvAsid o => some o.g
  | .tlbinvAll o => some o.g
  | .waitev o => some o.g
  | .signal o | .evinit o | .evquery o => some o.g
  | .launch o => some o.g
  | .taskend o => some o.g
  | .govtick o => some o.g
  | .rescale o => some o.g
  | .stepbegin o => some o.g
  | .stepcommit o => some o.g
  | .stepabort o => some o.g
  | .rbqpush o => some o.g
  | _ => none

/-- Mask and lane guard of a vector instruction. -/
def vGuardOf : Instr → Option VG
  | .vadd o | .vsub o | .vmul o => some o.g
  | .vfma o | .vfms o | .vfnma o => some o.g
  | .vmin o | .vmax o => some o.g
  | .vabs o | .vneg o | .vclz o | .vctz o | .vpopc o => some o.g
  | .vrcp o | .vrsqrt o | .vsqrt o | .vexp2 o | .vlog2 o | .vsin o | .vcos o => some o.g
  | .viadd o | .visub o | .vimul o => some o.g
  | .vimulh o | .vimin o | .vimax o | .vand o | .vor o | .vxor o | .vandn o | .vshl o | .vshr o | .vshra o => some o.g
  | .vfshl o | .vfshr o => some o.g
  | .vcmp o => some o.g
  | .vsel o => some o.g
  | .vgmax o | .vgmin o | .vgsum o => some o.g
  | .vperm o => some o.g
  | .vbcastl o => some o.g
  | .vxsec o => some o.g
  | .vldb o => some o.g
  | .vstb o => some o.g
  | .vstbm o => some o.g
  | .vcvt o => some o.g
  | .vmaxexp o => some o.g
  | .vqps2 o => some o.g
  | .vpack o => some o.g
  | .vunpack o => some o.g
  | .vtget o | .vtset o => some o.g
  | .vtzero o => some o.g
  | _ => none

/-- Vector sources in operand order a, b, c (10 R235). -/
def vSrcsOf : Instr → List VSrc
  | .stvm o => [o.src]
  | .vadd o | .vsub o | .vmul o => [o.a, o.b]
  | .vfma o | .vfms o | .vfnma o => [o.a, o.b, o.c]
  | .vmin o | .vmax o => [o.a, o.b]
  | .vabs o | .vneg o | .vclz o | .vctz o | .vpopc o => [o.a]
  | .vrcp o | .vrsqrt o | .vsqrt o | .vexp2 o | .vlog2 o | .vsin o | .vcos o => [o.a]
  | .viadd o | .visub o | .vimul o => [o.a, o.b]
  | .vimulh o | .vimin o | .vimax o | .vand o | .vor o | .vxor o | .vandn o | .vshl o | .vshr o | .vshra o => [o.a, o.b]
  | .vfshl o | .vfshr o => [o.a, o.b, o.c]
  | .vcmp o => [o.a, o.b]
  | .vsel o => [o.a, o.b]
  | .vgmax o | .vgmin o | .vgsum o => [o.a]
  | .vperm o => [o.a, o.b]
  | .vbcastl o => [o.a]
  | .vxsec o => [o.a, o.b]
  | .vstb o => [o.src]
  | .vstbm o => [o.src]
  | .vcvt o => [o.a, o.b]
  | .vmaxexp o => [o.a]
  | .vqps2 o => [o.a]
  | .vpack o => [o.a, o.b]
  | .vunpack o => [o.a]
  | .vtget o | .vtset o => [o.a]
  | _ => []

/-- Vector destination. -/
def vDstOf : Instr → Option VDst
  | .ldvu o => some o.d
  | .vadd o | .vsub o | .vmul o => some o.d
  | .vfma o | .vfms o | .vfnma o => some o.d
  | .vmin o | .vmax o => some o.d
  | .vabs o | .vneg o | .vclz o | .vctz o | .vpopc o => some o.d
  | .vrcp o | .vrsqrt o | .vsqrt o | .vexp2 o | .vlog2 o | .vsin o | .vcos o => some o.d
  | .viadd o | .visub o | .vimul o => some o.d
  | .vimulh o | .vimin o | .vimax o | .vand o | .vor o | .vxor o | .vandn o | .vshl o | .vshr o | .vshra o => some o.d
  | .vfshl o | .vfshr o => some o.d
  | .vsel o => some o.d
  | .vgmax o | .vgmin o | .vgsum o => some o.d
  | .vperm o => some o.d
  | .vbcastl o => some o.d
  | .vxsec o => some o.d
  | .vldb o => some o.d
  | .vcvt o => some o.d
  | .vqps2 o => some o.d
  | .vpack o => some o.d
  | .vunpack o => some o.d
  | _ => none

/-- Rounding code of an instruction that can take a random word (10 R238; 13 R320). -/
def rmOf : Instr → Option RMode
  | .vadd o | .vsub o | .vmul o => some o.rm
  | .vfma o | .vfms o | .vfnma o => some o.rm
  | .vrcp o | .vrsqrt o | .vsqrt o | .vexp2 o | .vlog2 o | .vsin o | .vcos o => some o.rm
  | .vgsum o => some o.rm
  | .vcvt o => some o.rm
  | .ldvCvt o => some o.rm
  | .stvCvt o => some o.rm
  | _ => none

/-- Instructions refused in a bundle with REP ≠ 0 (11 R266; 13 R327). -/
def noRepOf : Instr → Bool
  | .br _ | .brc _ | .call _ | .ret _ | .jmpi _ | .loop _ | .lbreak _ | .lbreakDrain _ | .trap _ | .rett _ | .waitev _ | .launch _
  | .taskend _ | .govtick _ | .rescale _ | .stepbegin _ | .stepcommit _ | .stepabort _ | .probeLookup _ | .probePin _
  | .probeUnpin _ => true
  | _ => false

/-- Whether a slot's instruction runs, its stage enable being set (10 R246). -/
def slotOn (s : State) (i : Instr) : Bool :=
  (match sGuardOf i with | some g => s.guard g | none => true) && (match vGuardOf i with | some g => s.enabled g != 0 | none => true)

/-- Register of a landing-queue entry, with its latch. -/
def Res.names : Res → List RegN
  | .s r .. => nS r
  | .p r _ => nP r
  | .c r _ => [.c r]
  | .md d .. => [.md d]
  | .mdc d _ => [.md d]
  | .cd d .. => [.cd d]
  | .cdc d .. => [.cd d]
  | .v d l .. => (match d with | some n => [.v n] | none => []) ++ (match l with | some n => [.latch n] | none => [])
  | .vtan d _ l .. => [.v d, .latch l]
  | .vtz d l _ => [.v d, .latch l]
  | .vp d .. => nVp d
  | .scl .. => [.sys 0x24]
/-- Register of a pending load. -/
def LdDst.names : LdDst → List RegN
  | .s r .. => nS r
  | .v r => [.v r]
  | .c r => [.c r]
  | .push _ => []
/-- Streams that an instruction pushes to or closes. -/
def pushesOf (i : Instr) : List (BitVec 4) :=
  (match vDstOf i with | some (.push q) => [q] | _ => []) ++ (match i with | .qclose o => [o.q] | _ => [])

end Sys2Proof.Machine
end

