-- ==== Sys2Proof/Machine/Save.lean ====
section
/-!
DEFINITION. Context descriptors, save slots, leaving a core and coming back (spec 16 R404 to R406, R408, R411; 08 R192; 04
R100, R110, R120; 01 R33 to R37).
-/

namespace Sys2Proof.Machine

/-! ## Contexts (16 Table 16.5) -/

/-- The values of the words of a context descriptor at physical address pa. -/
def ctxOf (w : Nat → Nat) (tag : Bool) (pa : Nat) : Ctx :=
  let bv : Nat → Word := fun i => BitVec.ofNat 64 (w i)
  let nums := [0x40, 0x41, 0x42, 0x43, 0x44, 0x45, 0x46, 0x47, 0x48, 0x2A, 0x2B, 0x2D]
  let y := nums.zipIdx.foldl (fun y x => sysWrite y x.1 (bv (x.2 + 1))) Sys.reset
  { asid := BitVec.ofNat 16 (w 0), priv := (w 0).testBit 17, ptroot := y.ptroot, rtbase := y.rtbase, rtcnt := y.rtcnt, etbase := y.etbase
    etcnt := y.etcnt, ptbase := y.ptbase, spbase := y.spbase, spcnt := y.spcnt, albase := y.albase, lease := y.lease, rngkey := y.rngkey
    prebound := y.prebound, wdlim := BitVec.ofNat 32 (w 13), hmask := BitVec.ofNat 24 (w 14), hcode := BitVec.ofNat 57 (w 15)
    hclen := BitVec.ofNat 24 (w 16), hdcap := ⟨BitVec.ofNat 128 (w 17 + 2 ^ 64 * w 18), tag⟩
    tfbase := BitVec.ofNat 57 (w 19), sapool := BitVec.ofNat 52 (w 20), sacount := BitVec.ofNat 16 (w 21), ctxpa := pa }
/-- The context descriptor at a physical address; HDCAP's tag is that of the granule its first byte lies in (log 26). -/
def readCtx (s : State) (d : DieId) (pa : Nat) : HOp (State × Ctx) :=
  (physRead s d pa 176).map fun (s, x) => (s, ctxOf (fun i => x / 2 ^ (64 * i) % 2 ^ 64) (rdTag s (resolvePa (pa + 136))) pa)

/-- The registers of the descriptor that user code cannot reach; the others are saved with the task (log 59). -/
def Sys.fromCtx (y : Sys) (c : Ctx) : Sys :=
  { y with ptroot := c.ptroot, rtbase := c.rtbase, rtcnt := c.rtcnt, etbase := c.etbase, etcnt := c.etcnt, ptbase := c.ptbase
           spbase := c.spbase, spcnt := c.spcnt, albase := c.albase, prebound := c.prebound }
/-- A task with its descriptor as it stands at switch-in (16 R404); one that cannot be read leaves the values taken last
(log 59). -/
def ctxNow (s : State) (d : DieId) (t : Task) : Except HNote (State × Task) :=
  match readCtx s d t.ctx.ctxpa with
  | .ok (s, c) => .ok (s, { t with ctx := c })
  | .error (.wait n) => .error n
  | .error (.cause n _ _) => .ok (s.noted n, t)
/-- The same for a saved task, whose registers take the descriptor's. -/
def freshCtx (s : State) (d : DieId) (t : Task) (x : TState) : Except HNote (State × Task × TState) :=
  (ctxNow s d t).map fun (s, t) => (s, t, { x with sys := x.sys.fromCtx t.ctx })

/-! ## Save slots (16 R405) -/

/-- Buffers a task saves: bit 0 ABUF, 1 WBUF, 2 CBUF (09 Table 9.4). -/
def bsave (t : Task) : BitVec 3 := t.pkt.bytes.extractLsb' 40 3
def slotOf (s : State) (uid : Nat) : Option Nat :=
  allDies.findSome? fun d => ((s.die d).slotsUsed.find? fun x => x.1 == uid).map Prod.snd
/-- Slots of a pool that tasks hold. -/
def slotsTaken (s : State) (pool : BitVec 52) : List Nat :=
  allDies.flatMap fun d => (s.die d).slotsUsed.filterMap fun x =>
    match findTask s x.1 with
    | some t => if t.ctx.sapool = pool then some x.2 else none
    | none => none
def freeSlot (s : State) (ctx : Ctx) : Option Nat :=
  let used := slotsTaken s ctx.sapool
  (List.range (used.length + 1)).find? fun i => decide (i < ctx.sacount.toNat) && !used.contains i
/-- The slot of a task that leaves its core: the one it holds, or a free one. -/
def saveSlot (s : State) (t : Task) : Option Nat :=
  match slotOf s t.uid with
  | some i => some i
  | none => freeSlot s t.ctx
/-- The cases of a task that lacked a slot end: a slot is there, the task is Done, or what asked for it has ended. -/
def endLack (s : State) (gone : Nat × Nat → Bool) : State :=
  { s with dies := s.dies.map fun x => { x with noSlot := x.noSlot.filter fun y => !gone y } }
def takeSlot (s : State) (d : DieId) (uid slot : Nat) : State :=
  let s := endLack s fun y => y.1 == uid
  if (slotOf s uid).isSome then s else s.modDie d fun x => { x with slotsUsed := x.slotsUsed ++ [(uid, slot)] }
/-- The task is Done: its slot is free. -/
def dropSlot (s : State) (uid : Nat) : State :=
  let s := endLack s fun y => y.1 == uid
  { s with dies := s.dies.map fun x => { x with slotsUsed := x.slotsUsed.filter fun y => y.1 != uid } }
/-- No slot is free: the die raises its scheduler interrupt, once in each case: 0 a pre-emption request, 1 a WAITEV, 2 a
grid-fatal save. -/
def lacksSlot (s : State) (d : DieId) (uid why : Nat) : State :=
  if (s.die d).noSlot.contains (uid, why) then s
  else raiseInt (s.modDie d fun x => { x with noSlot := x.noSlot ++ [(uid, why)] }) d 1

/-- Bytes 0x000 to 0x037 of the control region (16 R406). -/
def controlWords (t : TState) : List Byte :=
  [BitVec.ofNat 64 t.pc, t.sys.status, t.sys.cause, t.sys.epc, t.sys.slotres, t.sys.eva, t.sys.einfo].flatMap fun w => bitsBytes 8 w
/-- The control words of a slot, through their registers' maps. -/
def TState.withControl (t : TState) (w : Nat → Word) : TState :=
  { t with pc := (w 0).toNat
           sys := { t.sys with status := keep 0xF (w 1), cause := keep 0x1FF (w 2), epc := keep 0xFF_FFFF (w 3)
                               slotres := keep 0xFFFF_FF80_0000_7FC7 (w 4), eva := keep 0x1FF_FFFF_FFFF_FFFF (w 5), einfo := w 6 } }
/-- Capability registers and descriptor capability slots, in the order the model gives them in a slot (log 48). -/
def Regs.caps (g : Regs) : List Cap :=
  g.c.toList ++ g.md.toList.map MDesc.cap ++ g.cd.toList.map CDesc.src ++ g.cd.toList.map CDesc.dst
def Regs.withCaps (g : Regs) (f : Nat → Cap) : Regs :=
  { g with c := Vector.ofFn fun i => f i.val
           md := Vector.ofFn fun i => { g.md.get i with cap := f (16 + i.val) }
           cd := Vector.ofFn fun i => { g.cd.get i with src := f (32 + i.val), dst := f (48 + i.val) } }
def slotPa (t : Task) (slot : Nat) : Nat := t.ctx.sapool.toNat + 0x100_0000 * slot
/-- Regions of a slot that a save writes (16 Table 16.6). -/
def saveRegions (b : BitVec 3) : List (Nat × Nat) :=
  [(0, 0x4_B000)] ++ (if b.getLsbD 1 then [(0x10_0000, 0x4_0000), (0x80_0000, 0x40_0000)] else [])
    ++ (if b.getLsbD 0 then [(0x40_0000, 0x40_0000)] else []) ++ (if b.getLsbD 2 then [(0xC0_0000, 0x20_0000)] else [])
def slotCaps : Nat := 0x1000
/-- Bytes o to o + n - 1 of a task's save layout: the control words, the capabilities in the register region, and bytes whose
layout is the G4's own, which are free (log 6, 48). -/
def slotBytes (free : Nat → Byte) (x : TState) (o n : Nat) : List Byte :=
  let ws := controlWords x
  let cs := x.regs.caps.flatMap fun c => bitsBytes 16 c.bits
  let known : List Byte := ws ++ (List.range (slotCaps - 56)).map (fun i => free (56 + i)) ++ cs
  (known.drop o).take n ++ (List.range (n - (min known.length (o + n) - o))).map fun i => free (max o known.length + i)
/-- Writes a slot: every region that Table 16.6 saves, and the tags of the capabilities in the register region (16 R406; 01
R35). A slot that is no memory is left unwritten. -/
def writeSlot (s : State) (d : DieId) (t : Task) (slot : Nat) (x : TState) : Except HNote State :=
  let pa := slotPa t slot
  let free : Nat → Byte := fun i => Config.freeByte (s.fresh + i)
  match ((saveRegions (bsave t)).foldlM (init := s) fun s r => (homeWrite s d (pa + r.1) (slotBytes free x r.1 r.2)).map Prod.fst : HOp State) with
  | .ok s1 =>
    .ok (x.regs.caps.zipIdx.foldl (fun s c => wrTag s (resolvePa (pa + slotCaps + 16 * c.2)) c.1.tag) { s1 with fresh := s.fresh + 0x100_0000 })
  | .error (.wait n) => .error n
  | .error (.cause n _ _) => .ok (s.noted n)
/-- Reads a slot back: its control words and its capabilities with the tags they have in memory (01 R33, R37). -/
def readSlot (s : State) (d : DieId) (t : Task) (slot : Nat) (x : TState) : Except HNote (State × TState) :=
  let pa := slotPa t slot
  let r : HOp (State × List Byte × List Byte) := do
    let (s, ws) ← homeRead s d pa 56
    let (s, cs) ← homeRead s d (pa + slotCaps) 1024
    pure (s, ws, cs)
  match r with
  | .ok (s, ws, cs) =>
    let word : Nat → Word := fun i => BitVec.ofNat 64 (bytesToNat ((ws.drop (8 * i)).take 8))
    let cap : Nat → Cap := fun i =>
      ⟨BitVec.ofNat 128 (bytesToNat ((cs.drop (16 * i)).take 16)), rdTag s (resolvePa (pa + slotCaps + 16 * i))⟩
    .ok (s, { x.withControl word with regs := x.regs.withCaps cap })
  | .error (.wait n) => .error n
  | .error (.cause n _ _) => .ok (s.noted n, x)

/-! ## What a switch-out waits for (16 R408, R411) -/

/-- A copy or frame fill that reads or writes the core's typed buffers. A stream's transfer is one row: a fill is suspended
between rows. -/
def CopyOp.touchesBufs (o : CopyOp) : Bool :=
  match o.kind with
  | .frame _ => true
  | .fill _ | .drain _ => false
  | _ => (o.desc.ssp != 0 && o.desc.ssp != 4) || (o.desc.dsp != 0 && o.desc.dsp != 4)
def CopyOp.isFill (o : CopyOp) : Bool := match o.kind with | .fill _ => true | _ => false
/-- Drains have written the rows pushed so far, and buffer operations and frame fills have ended. -/
def enginesQuiet (s : State) (c : CoreId) (uid : Nat) : Bool :=
  allEngines.all (fun e => (s.engine e).all fun o => o.uid != uid || !o.touchesBufs)
    && (s.core c).t.streams.toList.all fun x => x.bind != .drain || x.rows.isEmpty
/-- Loads, stores, the atomic, statistics, blocks and matrix operations of the core have ended. -/
def coreQuiet (k : Core) : Bool :=
  (allLoads k).isEmpty && k.wq.isEmpty && k.atom.isNone && k.mat.queue.isEmpty && k.mat.run.isNone
    && k.stats.all (fun e => e.clean && e.reply.isNone)
    && k.blocks.all (fun b => b.unit || (getFlag k.t b.flag).state != 1#2)
def quietFor (s : State) (c : CoreId) : Bool :=
  match (s.core c).task with
  | some t => coreQuiet (s.core c) && enginesQuiet s c t.uid
  | none => false

/-! ## Leaving -/

/-- Load-blocks become units; their flags read idle (04 R100). -/
def releaseAll (k : Core) : Core := (k.blocks.filter fun b => !b.unit).foldl (fun k b => releaseBlock k b.flag) k
/-- The fills of a task are suspended after their current row, and leave their engines' count. -/
def pauseFills (s : State) (uid : Nat) : State :=
  { s with engines := s.engines.map fun l => l.map fun o => if o.uid = uid && o.isFill then { o with paused := true } else o }

/-- A core without a task: registers of no task, caches and buffers kept. What was on its way for the task is nobody's. -/
def vacate (k : Core) (asid : BitVec 16) : Core :=
  { k with t := TState.reset, task := none, frozen := false, mat := Mat.reset, lastAsid := some asid, preempt := false
           draining := none, parking := .no, walkAns := none, atom := none, tlbinv := none, trap := none
           invw := k.invw.map fun w => { w with loads := 0, atom := none } }
/-- A core loses its task: its misses leave the walker's queue, its pre-emption request ends. -/
def vacateCore (s : State) (c : CoreId) (asid : BitVec 16) : State :=
  ({ s with dones := s.dones.filter (· != c) }.modDie (coreDie c) fun x =>
    { x with walkQ := x.walkQ.filter fun r => r.core != c, preReq := if x.preReq = some c then none else x.preReq }).modCore c (vacate · asid)

/-- A row that a bundle popped goes back to the head of its stream. -/
def unpop (t : TState) (p : Popped) : TState :=
  match p.err with
  | some _ => t
  | none => let x := getStream t p.q; putStream t p.q { x with bind := .fill, rows := p.row :: x.rows }
/-- A task that leaves its core inside a bundle keeps no issue snapshot (16 R406). The rows and the word that slots still to commit
had popped go back, and are popped again as the task comes back (log 62). -/
def TState.unsnap (t : TState) : TState :=
  match t.fl with
  | none => t
  | some f =>
    let t := f.pops.reverse.foldl unpop t
    { t with rbq := (match f.rbq with | some w => [w] | none => []) ++ t.rbq
             fl := some { f with regs := Regs.reset, sys := Sys.reset, pops := [], rbq := none, since := none } }
/-- The bundle that a task left its core in is entered again: its slots read what stands then. -/
def TState.resnap (t : TState) (now : Nat) : TState :=
  match t.fl with
  | none => t
  | some f =>
    let is : List Instr := f.todo.filterMap fun x => match x.2 with | .run i => some i | .bad _ => none
    let (t, pops) := (popAll t (is.flatMap fun i => (vSrcsOf i).flatMap VSrc.pops)).getD (t, [])
    let sr := is.any fun i => match rmOf i with | some m => (if m = .dyn then rmOfFpctl t.sys.fpctl else m) == .sr | none => false
    let (t, w) : TState × Option RWord := match (if sr then popRbq t else none) with | some x => (x.1, some x.2) | none => (t, none)
    { t with fl := some { f with regs := t.regs, sys := t.sys, pops := pops, rbq := w, at_ := now, back := true } }

/-- Saves the task of a core into its slot and frees the core (16 R408, R411). -/
def saveTask (s : State) (c : CoreId) (t : Task) (slot : Nat) : Except HNote State :=
  let d := coreDie c
  let s := (takeSlot (pauseFills s t.uid) d t.uid slot).modCore c fun k =>
    let k := endResidency (releaseAll k)
    { k with t := k.t.unsnap }
  let k := s.core c
  (writeSlot s d t slot k.t).map fun s =>
    let b := bsave t
    let ts := if b.getLsbD 0 then k.t else { k.t with frames := Vector.replicate 256 Frame.invalid }
    let x : Saved :=
      { uid := t.uid, task := t, t := ts, slot := slot, pts := k.pts, die := d
        abuf := if b.getLsbD 0 then some k.abuf else none
        wbuf := if b.getLsbD 1 then some k.wbuf else none
        cbuf := if b.getLsbD 2 then some k.cbuf else none
        norms := if b.getLsbD 1 then k.mat.norms else none
        table := if b.getLsbD 1 then k.mat.table else none }
    vacateCore { s with saved := s.saved ++ [x] } c t.ctx.asid

/-! ## Coming back -/

/-- Buffers of a core for a task of a context: cleared when the last one's context was another (08 R192). -/
def clearBufs (k : Core) (asid : BitVec 16) : Core :=
  if k.lastAsid = some asid then k else { k with abuf := [], wbuf := [], cbuf := [] }

/-- Loads the dictionary of an image unless the resident one has its identity; the code cache is invalidated with it (04
R120). Bundles are read as the launch path reads the image (08 R183). -/
def loadDict (s : State) (c : CoreId) (t : Task) : GOp State :=
  if (s.core c).dictKid = some t.img.kid then .ok s
  else
    (gRead s (coreDie c) t.ctx false (t.img.va + t.img.dictoff) (48 * t.img.dictsize)).map fun (s, bs) =>
      s.modCore c fun k =>
        { k with dictKid := some t.img.kid, icache := []
                 dict := (List.range t.img.dictsize).map fun n => BitVec.ofNat 384 (bytesToNat ((bs.drop (48 * n)).take 48)) }

/-- The suspended fills of a task go on, on the engine of its new core's C0 (16 R411). -/
def resumeFills (s : State) (c : CoreId) (uid : Nat) : State :=
  let mine := allEngines.flatMap fun e => (s.engine e).filter fun o => o.uid == uid && o.isFill && o.paused
  let keep : List CopyOp → List CopyOp := fun l => (l.filter fun o => !(o.uid == uid && o.isFill && o.paused)).map fun o =>
    if o.uid = uid then { o with core := c } else o
  let s := { s with engines := s.engines.map keep }
  s.modEngine (engineFor c 0) fun l => l ++ mine.map fun o => { o with core := c, paused := false }

/-- A saved task on a core again (16 R404, R406, R411; 07 R163). -/
def restoreTask (s : State) (c : CoreId) (x : Saved) : GOp State := do
  let d := coreDie c
  let note : {α : Type} → Except HNote α → GOp α := fun r => r.mapError GErr.wait
  let (s, t) ← note (readSlot s d x.task x.slot x.t)
  let (s, task, t) ← note (freshCtx s d x.task t)
  let s ← loadDict s c task
  let s := { s with saved := s.saved.filter fun y => y.uid != x.uid }
  let s := s.modCore c fun k =>
    let k := clearBufs k task.ctx.asid
    { k with t := t.resnap s.now, task := some task, frozen := false, pts := max k.pts x.pts
             abuf := x.abuf.getD k.abuf, wbuf := x.wbuf.getD k.wbuf, cbuf := x.cbuf.getD k.cbuf
             mat := { Mat.reset with norms := x.norms, table := x.table }, lastAsid := some task.ctx.asid }
  pure (resumeFills s c x.uid)

end Sys2Proof.Machine
end

