-- ==== Sys2Proof/Machine/Issue.lean ====
section
/-!
DEFINITION. Bundle issue (spec 04 R120, R121; 10 R225 to R232, R238, R241 to R248; 08 R190, R193; 16 R394, R407 to R413): fetching the
bundle at PC, the faults before issue, boundary faults, the waits before issue, and the issue snapshot. The slots then
commit one by one (Run.lean).
-/

namespace Sys2Proof.Machine

/-! ## Fetch (10 R225, R226) -/

def codeVa (k : Core) (t : Task) (u : Nat) : Nat :=
  (if trapMode k then t.ctx.hcode.toNat else t.img.va + t.img.codeoff) + 2 * u
/-- A line as its home would give it now. -/
def lineNow (s : State) (line : Nat) : Line :=
  match (lineSt s line).owner with
  | some o => match findL1 (s.core o) line with | some l => l.data | none => lineData s line
  | none => lineData s line
/-- A line enters the code cache: 512 lines in 128 sets of 4 ways, the oldest of its set goes (log 9). -/
def putCode (k : Core) (line : Nat) (d : Line) : Core :=
  let rest := k.icache.filter fun x => x.line != line
  let set := rest.filter fun x => x.line % 128 == line % 128
  let drop : List CodeLine := set.take (set.length - 3)
  { k with icache := (rest.filter fun x => !drop.contains x) ++ [⟨line, d⟩] }
/-- Which version of a code line or bundle executes after software has changed it: a free choice, one for each of them
while a bundle is fetched (04 R121; log 9). -/
def codeChoice (s : State) (what : Nat) : Bool := Config.freeBit ((s.fresh + 1) * 2 ^ 52 + what)
/-- Part of a code line: from the code cache, or from its home (04 R120). A cached line that software has changed may
execute as the old one or the new one. -/
def fetchPart (s : State) (va pa n : Nat) : Op (State × List Byte) :=
  let line := pa / 128
  let off := pa % 128
  match (match s.k.icache.find? (fun x => x.line == line) with
         | some x => if x.data = lineNow s line ∨ codeChoice s line then some x else none
         | none => none) with
  | some x => .ok (s, lineBytes x.data off n)
  | none =>
    match target pa with
    | .mmio .. => raise s 6 1 va
    | _ =>
      if Sparse.get false s.poison line then raise s 20 1
      else match homeRead s (coreDie s.cur) (line * 128) 128 with
        | .ok (s, bs) => .ok (s.modK fun k => putCode k line (BitVec.ofNat 1024 (bytesToNat bs)), (bs.drop off).take n)
        | .error (.wait n) => freeze (s.noted n)
        | .error (.cause n c d) => raise (s.noted n) c d va
/-- Reads code through the core's TLBs: a page that does not translate or needs X, a line that fails, raise their
fault with its address. -/
def fetchBytes (s : State) (va n : Nat) : Op (State × List Byte) :=
  (cutPages va n).foldlM (init := (s, ([] : List Byte))) fun x run => do
    let (s, pa, _) ← lsXlate x.1 s.lsAsid (privMode s.k) run.1 ⟨false, true, false⟩
    (cutLines pa run.2).foldlM (init := (s, x.2)) fun y part => do
      let r ← fetchPart y.1 (run.1 + (part.1 - pa)) part.1 part.2
      pure (r.1, y.2 ++ r.2)
/-- Bundle u of the dictionary: the one loaded, or where software has changed the image the one it holds now, a free
choice (04 R121). -/
def dictBundle (s : State) (t : Task) (u : Nat) : BitVec 384 :=
  let old := (s.k.dict.drop u).headD 0
  let va := t.img.va + t.img.dictoff + 48 * u
  match (cutPages va 48).foldlM (init := ([] : List Byte)) (fun acc run =>
      match walkXlate s (coreDie s.cur) t.ctx true run.1 ⟨false, false, false⟩ with
      | .ok (_, pa, _) => some (acc ++ (cutLines pa run.2).flatMap fun l => lineBytes (lineNow s (l.1 / 128)) (l.1 % 128) l.2)
      | .error _ => none) with
  | some bs =>
    let new : BitVec 384 := BitVec.ofNat 384 (bytesToNat bs)
    if new = old ∨ codeChoice s (2 ^ 51 + u) then old else new
  | none => old
/-- The bundle at PC and the unit after it. -/
def fetchBundle (s : State) (t : Task) : Op (State × Nat × BitVec 384) := do
  let k := s.k
  let pc := k.t.pc
  if codeLen k ≤ pc then raise s 15 5
  else
    let (s, u) ← fetchBytes s (codeVa k t pc) 2
    let u := bytesToNat u
    if u = 0xFFFF then
      if codeLen k ≤ pc + 24 then raise s 15 5
      else
        let (s, bs) ← fetchBytes s (codeVa k t (pc + 1)) 48
        pure (s, pc + 25, BitVec.ofNat 384 (bytesToNat bs))
    else if trapMode k || decide (t.img.dictsize ≤ u) then raise s 0 0
    else pure (s, pc + 1, dictBundle s t u)

/-! ## Slots (10 R229, R230, R246; Table 10.12) -/

def stageOf (h : Header) (n : Nat) : BitVec 2 :=
  match n with
  | 0 | 2 => h.stS | 1 => h.stL | 3 => h.stV0 | 4 => h.stV1 | 5 => h.stM | 6 => h.stC0 | _ => h.stC1

/-- What a slot does: nothing, its instruction, or the fault of its encoding, which is raised whatever the guard and
stage say. -/
def slotDo (s : State) (h : Header) (en : Bool) (n : Nat) (d : Dec) : Option SlotDo :=
  let bad : Nat → Nat → Nat → SlotDo := fun c det info => .bad ⟨c, det, 0, BitVec.ofNat 64 info⟩
  match d with
  | .ok none => none
  | .ok (some i) =>
    if noRepOf i && h.rep != 0 then some (bad 1 n 5)
    else if en && slotOn s i then some (.run i) else none
  | .error (.atomWidth g) => if en && s.guard g then some (bad 17 1 0) else none
  | .error (.copy r coll) =>
    if en then some (bad 7 (if coll then 6 else (engineFor s.cur (n - 6)).val % 6) r.toNat) else none
  | .error e => some (bad 1 n e.reason.toNat)

/-- RETT stands alone in its bundle (11 R275). -/
def rettAlone (b : Bundle) : Bool :=
  match decodeS b.s with
  | .ok (some (.rett _)) => b.l == 0 && b.x == 0 && b.v0 == 0 && b.v1 == 0 && b.m == 0 && b.c0 == 0 && b.c1 == 0
  | _ => true

/-- A slot with a bad encoding in one of its halves does nothing but raise it (10 R231). -/
def wholeSlots (l : List (Nat × SlotDo)) : List (Nat × SlotDo) :=
  let bad : Nat × SlotDo → Bool := fun x => match x.2 with | .bad _ => true | .run _ => false
  l.filter fun x => bad x || !(l.any fun y => y.1 == x.1 && bad y)

def slotsDo (s : State) (b : Bundle) (live : Bool) (se : BitVec 4) : List (Nat × SlotDo) :=
  let l := b.slots.filterMap fun x => (slotDo s b.h (live && se.getLsbD (stageOf b.h x.1).toNat) x.1 x.2).map fun y => (x.1, y)
  let l := wholeSlots l
  if rettAlone b then l else (0, .bad ⟨1, 0, 0, 2⟩) :: l.filter fun x => x.1 != 0

/-- The instructions that run, with their slots. -/
def running (l : List (Nat × SlotDo)) : List (Nat × Instr) :=
  l.filterMap fun x => match x.2 with | .run i => some (x.1, i) | .bad _ => none

def isLoad : Instr → Bool
  | .ldI8 _ | .ldN8 _ | .ldI16 _ | .ldN16 _ | .ldI32 _ | .ldN32 _ | .ldI64 _ | .ldv _ | .ldvCvt _ | .ldvu _ | .cld _ | .evquery _ => true
  | _ => false
def isStore : Instr → Bool
  | .stI8 _ | .stI16 _ | .stI32 _ | .stI64 _ | .stv _ | .stvCvt _ | .stvm _ | .cst _ => true
  | _ => false
def isRett : Instr → Bool
  | .rett _ => true
  | _ => false

/-- Class 2: a slot reads, or in mode 0b10 also writes, a register with an entry pending at its issue (10 R245). Both
halves of an X slot are checked before either commits. -/
def checkFails (y : Sys) (land : List Land) (is : List Instr) : Bool :=
  let names := land.flatMap fun e => e.res.names
  let m := (y.chkctl.extractLsb' 0 2).toNat
  is.any fun i =>
    let u := usesOf i
    ((m == 1 || m == 2) && u.r.any names.contains) || (m == 2 && u.w.any names.contains)

/-! ## Waits before issue (10 R235, R241, R243; 04 R101, R113, R115; 13 R333; 14 R349) -/

/-- A VB slot's row lies in a busy tile or a filling frame (12 R306). -/
def rowWaits (s : State) (i : Instr) : Bool :=
  let row : RowBase → Buf → BitVec 10 → Bool := fun b buf off =>
    let r := s.rowOp b off
    decide (r < bufRows buf) && (vbReady s.k buf r).isNone
  match i with
  | .vldb o => row o.base o.buf o.off
  | .vstb o => row o.base o.buf o.off
  | .vstbm o => row o.base o.buf o.off
  | _ => false
/-- A slot waits before issue: on a pending load, a full queue or engine, a busy tile or a filling frame. -/
def slotWaits (s : State) (n : Nat) (i : Instr) : Bool :=
  let k := s.k
  let u := usesOf i
  let pending := k.t.loads.flatMap fun l => l.dst.names
  let pushes := k.t.loads.filterMap fun l => match l.dst with | .push q => some q | _ => none
  u.r.any pending.contains || u.w.any pending.contains || (isStore i && decide (32 ≤ k.wq.length)) ||
  (pushesOf i).any pushes.contains || rowWaits s i ||
  (match i with
   | .cpy _ | .cpys _ | .gather _ | .scatter _ => decide (32 ≤ engineLoad (s.engine (engineFor s.cur (n - 6))))
   | .mma _ | .mmaz _ | .mrs _ | .malias _ | .mnorm _ | .mfro _ | .mscale _ | .mzero _ => decide (4 ≤ k.mat.queue.length)
   | _ => false)

/-- A copy slot that raises class 7 for its encoding waits for its engine like any other (13 R333). -/
def engineFull (s : State) (x : Nat × SlotDo) : Bool :=
  match x.2 with
  | .bad f => f.cls == 7 && f.det != 6 && decide (32 ≤ engineLoad (s.engine (engineFor s.cur (x.1 - 6))))
  | .run _ => false

/-! ## Boundaries (16 R394) -/

/-- Order of boundary faults at one boundary. -/
def pendRank (f : FaultRec) : Nat :=
  match f.cls with | 21 => 0 | 20 => 1 | 10 => 2 | 12 => 2 | 16 => 4 | _ => 3
/-- The boundary fault taken next. One that was pending when the handler was entered waits for RETT. -/
def topPend (t : TState) : Option PendFault :=
  (List.range 5).findSome? fun r => t.pend.find? fun p => !p.held && pendRank p.f == r

/-- The watchdog's count has reached its limit (16 R412). -/
def watchdogDue (k : Core) : Bool :=
  let w := k.t.sys.wdog.toNat
  w % 2 ^ 32 != 0 && decide (w % 2 ^ 32 ≤ w / 2 ^ 32)
/-- Repetitions that the bundle at PC has still to issue, itself included, minus 1. A bundle that cannot be read gives none: the
value is free (log 62). -/
def remOf (s : State) (t : Task) : State × Nat :=
  match s.k.t.rep with
  | some r => (s, r)
  | none => match fetchBundle s t with
    | .ok (_, _, w) => (s, (Bundle.ofBits w).h.rep.toNat)
    | .error _ => (s.tickFresh, (Config.freeByte s.fresh).toNat % 8)
/-- A fault before the bundle at PC issues. A deferred fault of the matrix engine leaves SLOTRES 0 (14 R360). -/
def faultBefore (s : State) (f : FaultRec) (rem : Nat) : State :=
  takeFault s s.cur f (if f.cls = 10 ∨ f.cls = 12 then ⟨s.k.t.pc, false, 0, 0, 0, none, none⟩
    else ⟨s.k.t.pc, false, rem, 0, stageEnables s.k.t s.k.t.pc, none, none⟩)
/-- Takes the boundary fault that is due, if one is: class 21 before all others. -/
def deliver (s : State) : Option State :=
  match s.k.task with
  | none => none
  | some t =>
    if watchdogDue s.k then let r := remOf s t; some (faultBefore r.1 ⟨21, 0, 0, 0⟩ r.2)
    else (topPend s.k.t).map fun p =>
      let r := remOf (s.modT fun x => { x with pend := x.pend.erase p }) t
      faultBefore r.1 p.f r.2

/-- A core whose task may go on: its domain runs, it is loaded, its task is neither ended nor parked, and no trap entry
waits (05 R129; 16 R396, R399). -/
def canRun (s : State) (c : CoreId) : Bool :=
  let k := s.core c
  (s.die (coreDie c)).dom == .running && k.loading.isNone && k.t.fatal.isNone && k.parking == .no && k.trap.isNone
/-- What stops a core at its next boundary: a debug halt, the power-loss notice, a TASKEND (16 R413, R415; 11 R282). -/
def stopsHere (s : State) (c : CoreId) : Bool :=
  let k := s.core c
  (s.die (coreDie c)).dbghalt.getLsbD (coreLocal c) || k.plnHalt || k.t.completing.isSome

/-! ## Issue -/

/-- An empty issue cycle. -/
def emptyCycle (s : State) : State := s.modT fun t => countDown (landDue t)

/-- A pre-emption request that may be honoured: no handler runs, and its task has a save slot (16 R405, R408). A counter that
drains for it is honoured when it has drained (16 R409). -/
def preemptHere (s : State) (t : Task) : Bool :=
  s.k.preempt && !trapMode s.k && s.k.draining.isNone && (saveSlot s t).isSome
/-- The core stands before a pass p of the innermost loop at PC, where p < N (16 R409). -/
def passHere (k : Core) : Option (Fin 4) :=
  match innermost k.t k.t.pc with
  | some i => let l := k.t.loops.get i; if k.t.atPass && decide (l.pass < l.iters) then some i else none
  | none => none

/-- Issue of the bundle at PC, all its waits over: the snapshot of every operand, the pops in slot and operand order,
the random word (10 R231, R235, R238). None while a pop, a push or the word has to wait. -/
def snapshot (s : State) (next : Nat) (b : Bundle) (first : Bool) (slots : List (Nat × SlotDo)) : Option State :=
  let run := running slots
  let t := s.k.t
  match popAll t (run.flatMap fun x => (vSrcsOf x.2).flatMap VSrc.pops) with
  | none => none
  | some (t, pops) =>
    let pushes := run.filterMap fun x => match vDstOf x.2 with | some (.push q) => some q | _ => none
    if !pushRoom t pushes then none
    else
      let sr := run.any fun x => match rmOf x.2 with | some m => s.usesSR m | none => false
      match (if sr then (popRbq t).map fun y => (y.1, some y.2) else some (t, none)) with
      | none => none
      | some (t, w) =>
        let y := t.sys
        let skip := setBit y.status 3 (y.status.getLsbD 3 && y.status.getLsbD 1)
        some (s.modT fun _ => { t with
          sys := { y with status := skip }, atPass := false, pbcnt := if b.h.q && first then 0 else t.pbcnt
          fl := some { unit := t.pc, next := next, todo := slots, slot := 0, dual := b.h.dual || y.dualctl.getLsbD 3
                       stall := b.h.stall.toNat, rep := t.rep.getD b.h.rep.toNat, se := stageEnables t t.pc, regs := t.regs
                       sys := y, pops := pops, rbq := w, btgt := none, since := none, older := t.land.length
                       at_ := s.now } })

/-- Class 0 details 2 and 3: two slots use SR, or name one destination (10 R232, R238). -/
def pairFault (s : State) (run : List (Nat × Instr)) : Option Nat :=
  if 2 ≤ (run.filter fun x => match rmOf x.2 with | some m => s.usesSR m | none => false).length then some 2
  else
    let ws := run.flatMap fun x => (usesOf x.2).w
    if ws.eraseDups.length < ws.length then some 3 else none

/-- The bundle fetched at PC: its header, the waits, the faults of its issue cycle, then the snapshot. Which slots run is what
their guards say then (10 R238, R247). -/
def issueBundle (s : State) (t : Task) (next : Nat) (b : Bundle) : State :=
  let h := b.h
  let first := match s.k.t.rep with | none => true | some r => r == h.rep.toNat
  let rem := s.k.t.rep.getD h.rep.toNat
  let live := h.dm == 0 || h.dm.getLsbD (s.k.t.sys.ldie.extractLsb' 0 2).toNat
  let st := s.k.t.sys.status
  if h.rsv ≠ 0 then faultBefore s ⟨0, 1, 0, 0⟩ rem
  else if h.bp && first && live && !(st.getLsbD 3 && !st.getLsbD 1) then faultBefore s ⟨22, 0, 0, 0⟩ rem
  else if h.q && first && preemptHere s t then s
  else
    let s1 := s.modT landDue
    let slots := slotsDo s1 b live (stageEnables s1.k.t s1.k.t.pc)
    let run := running slots
    let names := s1.k.t.land.flatMap fun e => e.res.names
    if (h.q && first && (!s1.k.t.land.isEmpty || !s1.k.t.loads.isEmpty))
        || (run.any (fun x => isRett x.2) && !s1.k.t.land.isEmpty)
        || run.any (fun x => isLoad x.2 && (usesOf x.2).w.any names.contains) then emptyCycle s
    else if run.any (fun x => slotWaits s1 x.1 x.2) || slots.any (engineFull s1) || (run.any (fun x => isRett x.2) && !s1.k.t.loads.isEmpty) then s
    else match pairFault s1 run with
      | some d => faultBefore s ⟨0, d, 0, 0⟩ rem
      | none => (snapshot s1 next b first slots).getD s

/-- A re-entered bundle whose VB slots find a busy tile or a filling frame goes on once it is free, as at an issue (04 R113,
R115). -/
def backWaits (s : State) : Bool :=
  match s.k.t.fl with
  | some f => f.back && (running f.todo).any fun x => rowWaits s x.2
  | none => false

/-- BUNDLE_ISSUE (10 R231): the running core goes on with the bundle it holds, takes a boundary fault, or fetches and
issues the bundle at PC. -/
def execBundleIssue (s : State) : Res1 :=
  .next (
    match s.k.task with
    | none => s
    | some t =>
      if !canRun s s.cur then s
      else if s.k.t.fl.isSome then
        if backWaits s then s.modK fun k => { k with frozen := true }
        else s.modK fun k => { k with frozen := false, t := { k.t with fl := k.t.fl.map fun f => { f with back := false } } }
      else if stopsHere s s.cur then s
      else match deliver s with
        | some s => s
        | none =>
          -- a counter that has drained stays as it is until its task is saved (16 R409)
          if (match s.k.draining with | some (i, _) => !trapMode s.k && !(s.k.t.loops.get (loopNo i)).pre | none => false) then s
          -- a request holds the issue before a pass too (16 R407)
          else if preemptHere s t && (passHere s.k).isSome then s
          else match fetchBundle s t with
            | .ok (s, next, w) => issueBundle s.tickFresh t next (Bundle.ofBits w)
            | .error (.flt s _ f) => let r := remOf s t; faultBefore r.1 f r.2
            | .error (.freeze s) => s
            | .error (.done s) => s)

/-- RESULT_LANDING (10 R242): entries whose countdown is over land, at the start of an issue cycle. -/
def execResultLanding (s : State) : Res1 := .next (if s.k.t.fl.isNone then s.modT landDue else s)

end Sys2Proof.Machine
end

