-- ==== Sys2Proof/Machine/Queues.lean ====
section
/-!
DEFINITION. The queue manager and the launch path (spec 09 R201 to R211; 08 R183 to R187, R194, R199; 16 R404): doorbells,
residency, packets, image checks, grids and their completion.
-/

namespace Sys2Proof.Machine

/-! ## Queue words (09 Table 9.1, R205) -/

def modSlot (s : State) (q : Nat) (f : QSlot → QSlot) : State :=
  { s with dies := s.dies.map fun x => { x with qslots := x.qslots.map fun o => o.map fun y => if y.q = q then f y else y } }
/-- A queue whose PEND is set waits its turn, one whose PEND is clear does not (09 R202). -/
def pendQueue (s : State) (d : DieId) (q : Nat) (pend : Bool) : State :=
  s.modDie d fun x =>
    if pend then (if x.pendq.contains q then x else { x with pendq := x.pendq ++ [q] }) else { x with pendq := x.pendq.filter (· != q) }
/-- An error of a queue manager: its die's queue-error interrupt (09 R204, R209). -/
def queueError (s : State) (d : DieId) : State := raiseInt s d 0
/-- Word 4 of a queue context that is not resident; bit 60 is the model's mark of a stopped queue (log 18). -/
def qWord4 (pend err res stopped : Bool) : Nat :=
  (if pend then 2 ^ 63 else 0) + (if err then 2 ^ 62 else 0) + (if res then 2 ^ 61 else 0) + (if stopped then 2 ^ 60 else 0)

/-- TAIL := v, in the resident slot or in the saved context, where PEND says whether it differs from HEAD. -/
def setTail (s : State) (d : DieId) (q : Nat) (c : QCtx) (v : BitVec 32) : HOp State :=
  match slotOfQueue s q with
  | some _ => .ok (modSlot s q fun x => { x with tail := v })
  | none => do
    let pend := decide (v.toNat ≠ c.head)
    let s ← physWrite s d (qctxPa s d q + 28) 4 v.toNat
    let s ← physWrite s d (qctxPa s d q + 32) 8 (qWord4 pend c.err false (c.w4.testBit 60))
    pure (pendQueue s c.qdie q pend)
/-- ERR of a queue. -/
def setQErr (s : State) (d : DieId) (q : Nat) (stop : Bool) : HOp State :=
  match slotOfQueue s q with
  | some _ => .ok (modSlot s q fun x => { x with err := true, stopped := x.stopped || stop })
  | none => do
    let (s, c) ← readQCtx s d q
    physWrite s d (qctxPa s d q + 32) 8 (c.w4 ||| 2 ^ 62 ||| (if stop then 2 ^ 60 else 0))

/-- An earlier doorbell of the same queue, through whichever die's block, still waits. -/
def doorbellWaits (s : State) (q : Nat) : Bool :=
  s.deferred.any fun a => a.item % 64 == q && (match a.instr with | .doorbell _ => true | _ => false)
/-- A doorbell as its queue's manager applies it. -/
def ringBell (s : State) (d : DieId) (q : Nat) (v : BitVec 32) : HOp State := do
  let (s, c) ← readQCtx s d q
  if !c.v then pure s
  else
    let head := match slotOfQueue s q with | some (_, x) => x.head.toNat | none => c.head
    if (v - BitVec.ofNat 32 head).toNat ≤ c.size then setTail s d q c v
    else do
      let s ← setQErr s d q false
      pure (queueError s c.qdie)
/-- DOORBELL (09 R204) of host queue `item`, through the block of the die named. It waits with the home of the queue's
context; a context that cannot be reached loses it, with the die's queue-error interrupt (log 20). -/
def execDoorbell (v : BitVec 32) (s : State) : Res1 :=
  let d := s.dsel
  let q := s.item % 64
  .next (
    if !blockReached s (portNo s) d then s.emit .unsupported
    else if doorbellWaits s q || blockWaits s d then s.deferDie d (.doorbell v) s.unit q
    else match ringBell s d q v with
      | .ok s => s
      | .error (.wait n) => (s.noted n).deferDie d (.doorbell v) s.unit q
      | .error (.cause n _ _) => queueError (s.noted n) d)

/-! ## Residency (09 R202) -/

/-- A grid with tasks still to be created. -/
def Grid.expanding (g : Grid) : Bool := !g.cancelled && (!g.entered || decide (g.started.foldl (· + ·) 0 < g.total))
def victimOk (s : State) (x : QSlot) : Bool × Bool :=
  (x.tail == x.head && !s.grids.any (fun g => g.queue == x.q && g.expanding), decide (x.since + 1048576 ≤ s.now))
/-- The slot to reclaim: the lowest-numbered idle one, else the one resident longest. -/
def victimSlot (s : State) (d : DieId) : Option Nat :=
  let xs := (s.die d).qslots.zipIdx.filterMap fun y => y.1.map fun x => (y.2, x)
  match xs.find? fun y => (victimOk s y.2).1 with
  | some y => some y.1
  | none => ((xs.filter fun y => (victimOk s y.2).2).foldl (fun (best : Option (Nat × QSlot)) y =>
      match best with
      | some b => if y.2.since < b.2.since then some y else best
      | none => some y) none).map Prod.fst

/-- Writes a slot's words back and frees it; a queue that still has packets is pending again. -/
def switchOut (s : State) (d : DieId) (i : Nat) : HOp State :=
  match (s.die d).qslots.getD i none with
  | none => .ok s
  | some x => do
    let pend := x.tail != x.head
    let s ← physWrite s d (qctxPa s d x.q + 24) 16
      (x.head.toNat + 2 ^ 32 * x.tail.toNat + 2 ^ 64 * qWord4 pend x.err false x.stopped)
    pure (pendQueue (s.modDie d fun y => { y with qslots := y.qslots.set i none }) d x.q pend)
/-- Takes a queue's words into a free slot. -/
def switchIn (s : State) (d : DieId) (q : Nat) (c : QCtx) : HOp State :=
  (physWrite s d (qctxPa s d q + 32) 8 (qWord4 false c.err true (c.w4.testBit 60))).map fun s =>
    let x : QSlot := { q := q, tail := BitVec.ofNat 32 c.tail, head := BitVec.ofNat 32 c.head, err := c.err, stopped := c.w4.testBit 60, since := s.now }
    (pendQueue s d q false).modDie d fun y =>
      match y.qslots.idxOf? none with
      | some i => { y with qslots := y.qslots.set i (some x) }
      | none => { y with qslots := y.qslots ++ [some x] }
def slotFree (x : Die) : Bool := decide (x.qslots.length < 64) || x.qslots.contains none

/-- Queue q comes in: it is enabled, belongs to the die, and its PEND is set; a slot is free or reclaimed. -/
def bringIn (s : State) (d : DieId) (q : Nat) : HOp State := do
  let (s, c) ← readQCtx s d q
  if !c.v || !c.pend || c.qdie != d then pure (pendQueue s d q false)
  else if slotFree (s.die d) then switchIn s d q c
  else match victimSlot s d with
    | none => pure s
    | some i => do
      let s ← switchOut s d i
      switchIn s d q c
/-- QUEUE_SWITCH_IN: the first pending queue of the die named, or queue `item` when none waits. A context that cannot be
reached is a queue error (log 20). -/
def execQueueSwitchIn (s : State) : Res1 :=
  let d := s.dsel
  let q := (s.die d).pendq.headD s.item
  .next (
    if (slotOfQueue s q).isSome then pendQueue s d q false
    else match bringIn s d q with
      | .ok s => s
      | .error (.wait n) => s.noted n
      | .error (.cause n _ _) => queueError (pendQueue (s.noted n) d q false) d)
/-- QUEUE_SWITCH_OUT: slot `item` of the die named, when it may be reclaimed. -/
def execQueueSwitchOut (s : State) : Res1 :=
  .next (match (s.die s.dsel).qslots.getD s.item none with
    | none => s
    | some x =>
      if !(victimOk s x).1 && !(victimOk s x).2 then s
      else match switchOut s s.dsel s.item with
        | .ok s => s
        | .error (.wait n) | .error (.cause n _ _) => s.noted n)

/-! ## Images (08 R183 to R187, R192, R194) -/

def Packet.f (p : Packet) (w lo len : Nat) : Nat := p.bytes.toNat / 2 ^ (64 * w + lo) % 2 ^ len
def Packet.image (p : Packet) : Nat := p.f 1 0 57
def Packet.crec (p : Packet) : Nat := p.f 4 0 57
def Packet.dk (p : Packet) : Nat := p.f 0 45 3

def levelOfWords (w0 w1 : Nat) : Level :=
  { extent := BitVec.ofNat 32 (w0 / 2 ^ 32), start := BitVec.ofNat 32 w0, step := BitVec.ofNat 32 (w1 / 2 ^ 32), kind := BitVec.ofNat 3 (w1 / 2 ^ 29)
    list := w1.testBit 28, listn := BitVec.ofNat 3 (w1 / 2 ^ 25), ireg := BitVec.ofNat 5 (w1 / 2 ^ 20), nstg := BitVec.ofNat 2 (w1 / 2 ^ 18) }
/-- Breaches of 08 Table 8.3 detail 2 in a loop table. -/
def levelsBad (ls : List Level) : Bool :=
  let spat := ls.filter fun l => !l.isT
  let ts := ls.filter Level.isT
  ls.any (fun l => decide (2 < l.kind.toNat)) || (ls.dropWhile fun l => !l.isT).any (fun l => !l.isT)
    || decide (1 < (ls.filter Level.isD).length) || ls.any (fun l => l.isD && decide (4 < l.extent.toNat)) || spat.any (fun l => l.extent == 0)
    || decide (4 < ts.length) || ls.any (fun l => l.list && l.kind != 1) || decide (1 < (ls.filter Level.list).length)
    || (ts.dropLast).any (fun l => l.nstg != 0)
    || decide (2 ^ 32 < spat.foldl (fun n l => n * l.extent.toNat) 1)

/-- A malformed argument slot (08 R192; 09 R207). -/
def argBad (a : Word) : Bool :=
  let kind := (a.extractLsb' 62 2).toNat
  let idx := (a.extractLsb' 49 8).toNat
  kind != 0 && (a.extractLsb' 0 42 != 0 || decide (9 < idx) || (kind == 1 && a.extractLsb' 57 5 == 0)
    || (decide (2 ≤ kind) && a.getLsbD 61) || (kind == 3 && idx % 2 == 1))

/-- Two parts of an image overlap (log 26). -/
def partsClash (ps : List (Nat × Nat)) : Bool :=
  let ps := (ps.filter fun p => p.2 != 0).zipIdx
  ps.any fun x => ps.any fun y => x.2 != y.2 && decide (x.1.1 < y.1.1 + y.1.2) && decide (y.1.1 < x.1.1 + x.1.2)

/-- Why a grid fails at start: a class 15 detail with its EINFO. -/
structure StartErr where
  (det : Nat) (info : Word)
  deriving DecidableEq, Repr

def imgRead (s : State) (d : DieId) (ctx : Ctx) (va n : Nat) : GOp (State × Nat) :=
  (gRead s d ctx false va n).map fun x => (x.1, bytesToNat x.2)

/-- The image of a launch packet, checked in the order of 09 R209 and 08 Table 8.3. DESIGN CHOICE (log 62): a TILEMAX above 31
fails with detail 3 without tangents too. -/
def readImage (s : State) (d : DieId) (ctx : Ctx) (p : Packet) : Except HNote (State × Except StartErr Img) :=
  let va := p.image
  let unread : State → GErr → Except HNote (State × Except StartErr Img) := fun s e =>
    match e with
    | .wait n => .error n
    | .bad n c det .. => .ok (s.noted n, .error ⟨7, BitVec.ofNat 64 (c * 16 + det)⟩)
  match imgRead s d ctx va 64 with
  | .error e => unread s e
  | .ok (s, h) =>
    let b : Nat → Nat → Nat := fun o n => h / 2 ^ (8 * o) % 2 ^ (8 * n)
    let err : Nat → Except HNote (State × Except StartErr Img) := fun det => .ok (s, .error ⟨det, 0⟩)
    let dict := b 16 2; let nlev := b 18 1; let narg := b 19 1; let codelen := b 24 4; let entry := b 28 4; let body := b 32 4
    let dictoff := b 40 4; let codeoff := b 44 4; let ltoff := b 48 4; let argoff := b 52 4
    if b 8 8 ≠ p.f 2 0 64 then err 9
    else if b 0 4 ≠ 0x4B34_4746 ∨ b 4 2 ≠ 1 ∨ b 6 2 ≠ 0 ∨ b 21 3 ≠ 0 ∨ b 36 4 ≠ 0 ∨ b 56 8 ≠ 0 then err 0
    else if 4096 < dict ∨ nlev = 0 ∨ 8 < nlev ∨ 32 < narg ∨ codelen = 0 ∨ 2 ^ 24 < codelen ∨ codelen ≤ entry ∨ codelen < entry + body
        ∨ dictoff % 64 ≠ 0 ∨ codeoff % 128 ≠ 0 ∨ ltoff % 16 ≠ 0 ∨ argoff % 8 ≠ 0
        ∨ partsClash [(0, 64), (dictoff, 48 * dict), (codeoff, 2 * codelen), (ltoff, 16 * nlev), (argoff, 8 * narg)] then err 1
    else match imgRead s d ctx (va + ltoff) (16 * nlev) with
      | .error e => unread s e
      | .ok (s, lt) =>
        let err : Nat → Except HNote (State × Except StartErr Img) := fun det => .ok (s, .error ⟨det, 0⟩)
        let w : Nat → Nat := fun i => lt / 2 ^ (64 * i) % 2 ^ 64
        let ls := (List.range nlev).map fun i => levelOfWords (w (2 * i)) (w (2 * i + 1))
        if (body = 0) = ls.any Level.isT then err 1
        else if (List.range nlev).any (fun i => w (2 * i + 1) % 2 ^ 18 != 0) || levelsBad ls then err 2
        else if (p.dk = 1 ∧ 15 < b 20 1) ∨ (2 ≤ p.dk ∧ 7 < b 20 1) ∨ 31 < b 20 1 then err 3
        else match (if narg = 0 then .ok (s, 0) else imgRead s d ctx (va + argoff) (8 * narg)) with
          | .error e => unread s e
          | .ok (s, at_) =>
            let args : List Word := (List.range narg).map fun i => BitVec.ofNat 64 (at_ / 2 ^ (64 * i))
            if args.any argBad then .ok (s, .error ⟨4, 0⟩)
            else .ok (s, .ok { va := va, kid := BitVec.ofNat 64 (p.f 2 0 64), dictsize := dict, codelen := codelen, entry := entry, bodylen := body
                               dictoff := dictoff, codeoff := codeoff, levels := ls, args := args })

/-! ## Packets (09 R207 to R209) -/

/-- A failed grid: no tasks, its cause recorded. -/
def Grid.fail (g : Grid) (cls det : Nat) (info : Word) : Grid :=
  { g with cancelled := true, cause := some (BitVec.ofNat 9 (cls * 16 + det), info, 0) }
/-- Malformed TYPE 0x1 packets and reserved types (09 R209). -/
def packetBad (p : Packet) (sys : Bool) (etcnt : Nat) : Bool :=
  p.f 0 60 4 != 1 || p.f 0 32 5 != 0 || p.f 1 57 7 != 0 || p.f 4 57 7 != 0 || decide (11 < p.f 0 56 4) || (p.f 0 56 4 == 11 && !sys)
    || (decide (9 ≤ p.f 0 48 4) && decide (p.f 0 48 4 ≤ 14)) || decide (4 < p.dk) || p.image % 64 != 0 || p.crec % 16 != 0
    || (p.f 0 39 1 == 1 && decide (etcnt ≤ p.f 0 16 16)) || (p.f 0 38 1 == 1 && decide (etcnt ≤ p.f 0 0 16))
def etCount (ctx : Ctx) : Nat := (ctx.etcnt.extractLsb' 0 17).toNat
def Img.none : Img :=
  { va := 0, kid := 0, dictsize := 0, codelen := 0, entry := 0, bodylen := 0, dictoff := 0, codeoff := 0, levels := [], args := [] }

/-- The queue's previous grid, while it has not completed (09 R211), and the timestamp its completion gives. -/
def prevOf (s : State) (q : Nat) : Option Nat × Nat :=
  match Sparse.get none s.qlast q with
  | some (gid, ts) => (if (findGrid s gid).isSome then some gid else none, ts)
  | none => (none, 0)
/-- The grid of a launch packet, before its image is read. One that waits for its queue's previous grid starts after it (07
R175). DESIGN CHOICE (log 62): its GRID tag is the low 16 bits of the number it takes, which tasks number too. -/
def newGrid (s : State) (d : DieId) (q : Nat) (p : Packet) (ctx : Ctx) (from_ : Option Launched) : Grid :=
  let parent := from_.bind fun l => findGrid s l.parent
  let ord := p.f 0 37 1 == 1
  let prev := prevOf s q
  { gid := s.uids, tag := BitVec.ofNat 16 s.uids, queue := q, qdie := d, pkt := p, ctx := ctx, img := Img.none, level := min 11 (p.f 0 56 4)
    depth := match parent with | some g => g.depth + 1 | none => 0
    parent := parent.map Grid.gid, total := 0, started := [0, 0, 0, 0], done := 0, cancelled := false, children := 0, launches := 0
    cause := none, waiting := none, dieOf := if p.f 0 54 1 = 1 then p.f 0 52 2 else 4, draws := [],
    mwts := max (match from_ with | some l => l.ts | none => 0) (if ord then prev.2 else 0)
    prev := if ord then prev.1 else none, entered := false }

/-- Parks a grid on STARTEV as one waiter; a refusal fails the grid (log 26). -/
def parkGrid (s : State) (d : DieId) (g : Grid) : Except HNote (State × Grid) :=
  if g.pkt.f 0 39 1 = 0 then .ok (s, g)
  else match (EvAt.mk d g.ctx 0).park s (g.pkt.f 0 16 16) (gridToken g.gid) with
    | .ok (s, none) => .ok (s, { g with waiting := some (BitVec.ofNat 16 (g.pkt.f 0 16 16)) })
    | .ok (s, some ts) => .ok (s, { g with mwts := max g.mwts ts })
    | .error (.wait n) => .error n
    | .error (.bad n c det _ info) => .ok (s.noted n, g.fail c det info)

/-- A launch packet becomes a grid, or a grid that has failed. A malformed packet is no grid to a later one (09 R209). -/
def acceptLaunch (s : State) (d : DieId) (q : Nat) (p : Packet) (sys : Bool) (ctx : Ctx) : Except HNote State :=
  let n := match slotOfQueue s q with | some (_, x) => x.head.toNat | none => 0
  let from_ := s.launched.find? fun l => l.q == q && l.n == n
  let g := newGrid s d q p ctx from_
  let bad := packetBad p sys (etCount ctx)
  let r : Except HNote (State × Grid) :=
    if bad then .ok (s, g.fail 15 8 0)
    else match readImage s d ctx p with
      | .error n => .error n
      | .ok (s, .error e) => .ok (s, g.fail 15 e.det e.info)
      | .ok (s, .ok img) => parkGrid s d { g with img := img }
  r.map fun (s, g) =>
    let s := match from_ with
      | some l => modGrid { s with launched := s.launched.erase l } l.parent fun h => { h with launches := h.launches - 1, children := h.children + 1 }
      | none => s
    let s : State := if bad then s else { s with qlast := Sparse.set none s.qlast q (some (g.gid, 0)) }
    enterGrids { s with grids := s.grids ++ [g], uids := s.uids + 1 }

/-- ERR of a queue as far as its context can be reached. -/
def markQErr (s : State) (d : DieId) (q : Nat) : Except HNote State :=
  match setQErr s d q false with
  | .ok s => .ok s
  | .error (.wait n) => .error n
  | .error (.cause n _ _) => .ok (s.noted n)
/-- A TYPE 0x2 packet signals an event of the queue's context (09 R208). -/
def acceptSignal (s : State) (d : DieId) (q : Nat) (p : Packet) (ctx : Ctx) : Except HNote State :=
  let n := p.f 0 32 16
  let ev := p.f 0 0 16
  if p.bytes.toNat ≠ 2 * 2 ^ 60 + n * 2 ^ 32 + ev ∨ n = 0 ∨ etCount ctx ≤ ev then (markQErr s d q).map fun s => queueError s d
  else match (EvAt.mk d ctx 0).signal s ev n with
    | .ok (s, _) => .ok s
    | .error (.wait n) => .error n
    | .error (.bad n ..) => markQErr (s.noted n) d q

/-- The packet at HEAD: 128 bytes under the queue's ASID, with tags from a device-side ring (09 R201, R207). -/
def readPacket (s : State) (d : DieId) (q : Nat) (c : QCtx) (ctx : Ctx) (head : Nat) : GOp (State × Packet) := do
  let va := c.ring + 128 * (head % c.size)
  let (s, pa) ← gAddr s d { ctx with asid := BitVec.ofNat 16 c.asid } true va ⟨false, false, false⟩
  let (s, bs) ← liftH (homeRead s d pa 128)
  pure (s, ⟨BitVec.ofNat 1024 (bytesToNat bs), if q < 64 then 0 else lineTags s (pa / 128)⟩)

/-- The context of resident queue q, the descriptor it names and the packet at HEAD. -/
def packetAt (s : State) (d : DieId) (q : Nat) (head : Nat) : GOp (State × QCtx × Ctx × Packet) := do
  let (s, c) ← liftH (readQCtx s d q)
  let (s, ctx) ← liftH (readCtx s d c.ctxpa)
  let (s, p) ← readPacket s d q c ctx head
  pure (s, c, ctx, p)
/-- A no-op or a signal that a LAUNCH wrote becomes no grid, and its launcher waits for it no longer (08 R199). -/
def forgetLaunch (s : State) (q n : Nat) : State :=
  match s.launched.find? (fun l => l.q == q && l.n == n) with
  | some l => modGrid { s with launched := s.launched.erase l } l.parent fun h => { h with launches := h.launches - 1 }
  | none => s
/-- QUEUE_PACKET_READ (09 R205, R209, R211): the next pending packet of resident queue `item` of the die named. A ring slot
that cannot be read stops the queue, and so does a context that cannot (log 20). -/
def execQueuePacketRead (s : State) : Res1 :=
  let d := s.dsel
  let q := s.item
  .next (match slotOfQueue s q with
    | none => s
    | some (d', x) =>
      if d' ≠ d ∨ x.stopped ∨ x.tail = x.head then s
      else match packetAt s d q x.head.toNat with
        | .error (.wait n) => s.noted n
        | .error (.bad n ..) => queueError (modSlot (s.noted n) q fun x => { x with err := true, stopped := true }) d
        | .ok (s1, c, ctx, p) =>
          let r : Except HNote State := match p.f 0 60 4 with
            | 0 => .ok (forgetLaunch s1 q x.head.toNat)
            | 2 => (acceptSignal s1 d q p ctx).map fun s => forgetLaunch s q x.head.toNat
            | _ => acceptLaunch s1 d q p c.sys ctx
          match r with
          | .ok s2 => modSlot s2 q fun x => { x with head := x.head + 1 }
          | .error n => s.noted n)

/-! ## Completion of a grid (08 R199; 09 R210) -/

/-- What tasks ended by a grid-fatal fault left running has ended: copies, collectives, activation updates, ticks (07 R175). -/
def Grid.settled (s : State) (g : Grid) : Bool :=
  allEngines.all (fun e => (s.engine e).all fun o => !g.lag.contains o.uid)
    && allDies.all (fun d => (s.die d).coll.all (fun o => !g.lag.contains o.uid) && (s.die d).ptr.all fun u => !g.lag.contains u.uid)
    && s.ticks.all fun t => t.done || !g.lag.contains t.uid
/-- Every task done, every child complete, every LAUNCH a grid; an aborted step set's tick has completed (16 R414). -/
def Grid.finished (s : State) (g : Grid) : Bool :=
  g.settled s &&
  (g.cancelled || (g.entered && decide (g.total ≤ g.started.foldl (· + ·) 0))) && decide (g.started.foldl (· + ·) 0 ≤ g.done)
    && g.children == 0 && g.launches == 0 && s.ticks.all (fun t => t.done || t.kind != 2 || t.ctx.asid != g.ctx.asid)
/-- The completion record (09 R210). -/
def recordOf (g : Grid) : List Byte :=
  natToBytes 8 (g.pkt.f 5 0 64) ++ natToBytes 8 (2 ^ 63 + (match g.cause with
    | some (c, info, _) => 2 ^ 62 + c.toNat * 2 ^ 52 + info.toNat % 2 ^ 52
    | none => 0))
/-- Writes the record of a grid, ordered after its accesses (07 R175); one that cannot be written is left unwritten (log
26). -/
def writeRecord (s : State) (d : DieId) (g : Grid) : Except HNote State :=
  if g.pkt.crec = 0 then .ok s
  else match gWrite s d g.ctx false g.pkt.crec (recordOf g) g.mwts with
    | .ok s => .ok s
    | .error (.wait n) => .error n
    | .error (.bad n ..) => .ok (s.noted n)
/-- DONEEV by 1, once the record is written; an underflow sets the queue's ERR (09 R213). -/
def signalDone (s : State) (d : DieId) (g : Grid) : Except HNote State :=
  if g.pkt.f 0 38 1 = 0 ∨ etCount g.ctx ≤ g.pkt.f 0 0 16 then .ok s
  else match (EvAt.mk d g.ctx g.mwts).signal s (g.pkt.f 0 0 16) 1 with
    | .ok (s, _) => .ok s
    | .error (.wait n) => .error n
    | .error (.bad n ..) => markQErr (s.noted n) d g.queue

/-- A completed grid goes: what waited for it starts after it (07 R175). -/
def removeGrid (s : State) (g : Grid) : State :=
  let s := { s with grids := s.grids.filter (fun x => x.gid != g.gid)
                    dies := s.dies.map fun x => { x with ready := x.ready.filter fun e => e.gid != g.gid || e.uid.isSome } }
  let s : State := match Sparse.get none s.qlast g.queue with
    | some (gid, _) => if gid = g.gid then { s with qlast := Sparse.set none s.qlast g.queue (some (gid, g.mwts)) } else s
    | none => s
  let s : State := { s with grids := s.grids.map fun h => if h.prev = some g.gid then { h with mwts := max h.mwts g.mwts } else h }
  match g.parent with
  | some p => modGrid s p fun h => { h with children := h.children - 1, mwts := max h.mwts g.mwts }
  | none => s

/-- GRID_COMPLETE (08 R199; 09 R210): grid `item`, by the slice that accepted it. -/
def execGridComplete (s : State) : Res1 :=
  .next (match findGrid s s.item with
    | none => s
    | some g =>
      if !g.finished s then s
      else match (writeRecord s g.qdie g).bind fun s => signalDone s g.qdie g with
        | .error n => s.noted n
        | .ok s => enterGrids (removeGrid s g))

end Sys2Proof.Machine
end

