-- ==== Sys2Proof/Machine/Sched.lean ====
section
/-!
DEFINITION. Placing tasks, starting them, and taking them off a core (spec 09 R214 to R220; 08 R187, R191, R192; 16 R394 to
R396, R405 to R415), and the task instructions of the memory slot: WAITEV, LAUNCH, TASKEND (11 R279, R281, R282).
-/

namespace Sys2Proof.Machine

/-! ## Placement (09 R216) -/

def idleCore (k : Core) : Bool := k.task.isNone && k.loading.isNone
/-- An idle core of a die: in the hinted pavilion if it has one, else the lowest-numbered. -/
def pickCore (s : State) (d : DieId) (pavh : Nat) : Option CoreId :=
  let idle := (dieCores d).filter fun c => idleCore (s.core c)
  match idle.find? fun c => coreLocal c / 4 == pavh with
  | some c => some c
  | none => idle.head?
def pavhOf (s : State) (gid : Nat) : Nat := match findGrid s gid with | some g => g.pkt.f 0 48 4 | none => 15
def migratable (s : State) (e : Ready) : Bool := match findGrid s e.gid with | some g => g.pkt.f 0 55 1 == 1 | none => false
/-- Ready tasks an entry stands for. -/
def entrySize (s : State) (e : Ready) : Nat :=
  if e.uid.isSome then 1 else match findGrid s e.gid with | some g => g.remaining e.die | none => 0
/-- A task whose core still saves it cannot be placed yet. -/
def placeable (s : State) (e : Ready) : Bool :=
  match e.uid with
  | some uid => s.saved.any fun x => x.uid == uid
  | none => true
/-- The entry that dispatch takes from a die, among those chosen. -/
def headEntry (s : State) (d : DieId) (ok : Ready → Bool) : Option Ready :=
  let es := (s.die d).ready.filter fun e => ok e && decide (0 < entrySize s e)
  (List.range 12).reverse.findSome? fun l => es.find? fun e => e.level == l

/-- The n-th task of die d's part of a grid. -/
def newTask (uid : Nat) (g : Grid) (d : DieId) (n : Nat) : Task :=
  let ds := g.digits d n
  let sp := g.img.spatial
  { uid := uid, gid := g.gid, idx := linIndex sp ds, ldie := ldieOf sp ds, digits := ds
    drawn := ((sp.zip ds).find? fun x => x.1.list).bind fun x => (g.draws.find? fun y => y.1 == x.2).map Prod.snd
    ctx := g.ctx, img := g.img, pkt := g.pkt, tag := g.tag, depth := g.depth }

/-- Places an entry's task on a core: a grid entry yields its lowest task and moves to the tail of its level. -/
def placeEntry (s : State) (src : DieId) (e : Ready) (c : CoreId) : State :=
  let drop : State → State := fun s => s.modDie src fun x => { x with ready := x.ready.erase e }
  match e.uid with
  | some uid =>
    let move : Saved → Saved := fun x => if x.uid = uid then { x with die := coreDie c } else x
    let s := { drop s with saved := s.saved.map move }
    s.modCore c fun k => { k with loading := some (some uid) }
  | none =>
    match findGrid s e.gid with
    | none => drop s
    | some g =>
      let n := g.startedOn e.die
      let t := newTask s.uids g e.die n
      let s := modGrid { drop s with uids := s.uids + 1 } g.gid fun g => { g with started := g.started.set e.die.val (n + 1) }
      let s := if n + 1 < g.partSize e.die then s.modDie src fun x => { x with ready := x.ready ++ [e] } else s
      s.modCore c fun k => { k with task := some t, loading := some none }

/-- A core that holds a Running task (08 Table 8.5). -/
def runningCore (k : Core) : Bool :=
  k.task.isSome && k.loading.isNone && k.t.completing.isNone && k.parking == .no && k.t.fatal.isNone
/-- The running task that a level-11 task displaces: of the lowest level below 11, on the lowest core among equals. -/
def preemptVictim (s : State) (d : DieId) : Option CoreId :=
  let run := (dieCores d).filterMap fun c => match (s.core c).task with
    | some t => if runningCore (s.core c) && decide (levelOf s t.gid < 11) then some (levelOf s t.gid, c) else none
    | none => none
  (List.range 11).findSome? fun l => (run.find? fun x => x.1 == l).map Prod.snd

/-- DISPATCH (09 R211, R216) on the die named. -/
def execDispatch (s : State) : Res1 :=
  let s := enterGrids s
  let d := s.dsel
  .next (
    if (s.die d).dom != .running then s
    else match headEntry s d fun e => e.die == d with
      | none => s
      | some e => match pickCore s d (pavhOf s e.gid) with
        | some c => if placeable s e then placeEntry s d e c else s
        | none =>
          if e.level ≠ 11 || (s.die d).preReq.isSome then s
          else match preemptVictim s d with
            | some c => (s.modCore c fun k => { k with preempt := true }).modDie d fun x => { x with preReq := some c }
            | none => s)

/-- Ageing interval in cycles (09 R217). -/
def ageInterval (x : Die) : Nat := 1024 * max 1 (x.rebal.extractLsb' 32 16).toNat
/-- AGEING_PROMOTION (09 R217) on the die named. -/
def execAgeingPromotion (s : State) : Res1 :=
  .next (s.modDie s.dsel fun x =>
    let due : Ready → Bool := fun e => decide (e.level < 10) && decide (e.since + ageInterval x ≤ s.now)
    { x with ready := x.ready.filter (fun e => !due e) ++ (x.ready.filter due).map fun e => { e with level := e.level + 1, since := s.now } })

/-- Ready count of a die (09 R220). -/
def readyCount (s : State) (d : DieId) : Nat := min 65535 ((s.die d).ready.foldl (fun n e => n + entrySize s e) 0)
def stealFrom (s : State) (d : DieId) : Option DieId :=
  let th := ((s.die d).rebal.extractLsb' 0 16).toNat
  if th = 0 then none
  else allDies.foldl (fun (best : Option DieId) v =>
    if v != d && decide (th < readyCount s v) && (match best with | some b => decide (readyCount s b < readyCount s v) | none => true) then some v else best) none
/-- TASK_STEAL (09 R220): the die named is the thief. -/
def execTaskSteal (s : State) : Res1 :=
  let d := s.dsel
  .next (
    if (s.die d).dom != .running || readyCount s d != 0 then s
    else match stealFrom s d with
      | none => s
      | some v => match headEntry s v (migratable s) with
        | none => s
        | some e => match pickCore s d (pavhOf s e.gid) with
          | some c => if placeable s e then placeEntry s v e c else s
          | none => s)

/-! ## Starting a task (08 R187, R192) -/

/-- A capability that user code may be given: it ends within the user half (01 R30). -/
def capFits (t : Task) (dbase len : Nat) : Bool := t.ctx.priv || decide (dbase + len ≤ 2 ^ 56)
/-- Capability of an argument slot; one that cannot be built has its tag clear and bits that are free (log 6). -/
def argCap (s : State) (c : CoreId) (t : Task) (a : Word) : GOp (State × Cap) :=
  let idx := (a.extractLsb' 49 8).toNat
  if a.extractLsb' 62 2 = 3 then
    .ok (s, ⟨BitVec.ofNat 128 (t.pkt.f (6 + idx) 0 64 + 2 ^ 64 * t.pkt.f (7 + idx) 0 64), t.pkt.tags.getLsbD (3 + idx / 2)⟩)
  else
    let h := t.pkt.f (6 + idx) 0 24
    let none_ : State → State × Cap := fun s => (s.tickFresh, ⟨(Config.freeRow s.fresh).setWidth 128, false⟩)
    match engage s (coreDie c) t.ctx h with
    | .ok (s, r) => .ok (if capFits t r.w.dbase r.w.len then (s, Cap.mk' (a.extractLsb' 42 7) h r.w.len r.w.dbase true) else none_ s)
    | .error (.wait n) => .error (.wait n)
    | .error (.bad n ..) => .ok (none_ (s.noted n))

/-- Step 4: every argument slot in turn. -/
def applyArgs (s : State) (c : CoreId) (t : Task) (g : Regs) : GOp (State × Regs) :=
  t.img.args.foldlM (init := (s, g)) fun x a =>
    match (a.extractLsb' 62 2).toNat with
    | 0 => .ok x
    | 1 => .ok (x.1, { x.2 with s := x.2.s.set (a.extractLsb' 57 5).toFin (BitVec.ofNat 64 (t.pkt.f (6 + (a.extractLsb' 49 8).toNat) 0 64)) })
    | _ => do
      let (s, cp) ← argCap x.1 c t a
      pure (s, { x.2 with c := x.2.c.set (a.extractLsb' 57 4).toFin cp })

/-- Index of iteration n of a level (08 R184). -/
def Level.index (l : Level) (n : Nat) : Word := l.start.signExtend 64 + l.step.signExtend 64 * BitVec.ofNat 64 n
/-- Step 5: the indices of the spatial levels. -/
def applyIndices (t : Task) (g : Regs) : Regs :=
  (t.img.spatial.zip t.digits).foldl (fun g x =>
    if x.1.ireg = 0 then g
    else { g with s := g.s.set x.1.ireg.toFin (if x.1.list then BitVec.ofNat 64 (t.drawn.getD 0) else x.1.index x.2) }) g

/-- The counter that T level number j binds: lp3 for the outermost (08 R187). -/
def tCounter (j : Nat) : Fin 4 := Fin.ofNat 4 (3 - j)
/-- T levels as loops over the body; a nest with an empty level runs no body, and the levels outside it count through. -/
def bindLevels (x : TState) (img : Img) : TState :=
  let ls := (img.levels.filter Level.isT).zipIdx
  let loopOf : Level → Loop := fun l =>
    { act := false, index := 0, start := l.start.signExtend 64, step := l.step.signExtend 64, pass := 0, n := l.extent.toNat
      ns := l.nstg.toNat + 1, bstart := img.entry, blen := img.bodylen, ireg := l.ireg, sev := 0, lim := none, tlevel := true, pre := false
      n0 := l.extent.toNat, start0 := l.start.signExtend 64 }
  if ls.isEmpty then { x with pc := img.entry }
  else if ls.any fun l => l.1.extent == 0 then
    let outer := ls.takeWhile fun l => l.1.extent != 0
    outer.foldl (fun x l =>
      let n := l.1.extent.toNat
      let y := beginPass { x with loops := x.loops.set (tCounter l.2) (loopOf l.1) } (tCounter l.2) (n - 1)
      { y with loops := y.loops.set (tCounter l.2) { y.loops.get (tCounter l.2) with act := false }, pc := img.entry + img.bodylen, atPass := false })
      { x with pc := img.entry + img.bodylen }
  else ls.foldl (fun x l => beginPass { x with loops := x.loops.set (tCounter l.2) (loopOf l.1) } (tCounter l.2) 0) x

/-- System registers at task start (08 Table 8.6). -/
def startSys (t : Task) : Sys :=
  let y := t.ctx
  { Sys.reset with
    status := if y.priv then 1 else 0
    taskid := BitVec.ofNat 64 (t.tag.toNat * 2 ^ 48 + t.idx % 2 ^ 32), ldie := BitVec.ofNat 64 t.ldie, asid := y.asid.setWidth 64
    dualctl := BitVec.ofNat 64 (t.pkt.dk + 8 * t.pkt.f 0 44 1 + 16 * t.pkt.f 0 43 1)
    lease := y.lease, rngkey := y.rngkey, rngctr := BitVec.ofNat 64 (t.pkt.f 3 0 64 + t.idx * 2 ^ 32), prebound := y.prebound
    wdog := y.wdlim.setWidth 64, ptroot := y.ptroot, rtbase := y.rtbase, rtcnt := y.rtcnt, etbase := y.etbase, etcnt := y.etcnt
    ptbase := y.ptbase, spbase := y.spbase, spcnt := y.spcnt, albase := y.albase }

/-- A task whose kernel cannot be loaded: its grid fails with the cause of the read, and the task is Done (08 Table 8.3
detail 7; log 26). -/
def loadFails (s : State) (c : CoreId) (t : Task) (cls det : Nat) : State :=
  let s := gridCause s t.gid 15 7 (BitVec.ofNat 64 (cls * 16 + det))
  let s := dropSlot (modGrid s t.gid fun g => { g with cancelled := true, done := g.done + 1 }) t.uid
  let s : State := { s with saved := s.saved.filter (fun x => x.uid != t.uid)
                            dies := s.dies.map fun x => { x with ready := x.ready.filter fun e => e.gid != t.gid || e.uid.isSome } }
  s.modCore c fun k => { k with task := none, loading := none }

/-- TASK_LOADING (08 R192): the new task placed on the running core takes its descriptor's values (16 R404) and starts at ENTRY,
after everything that made its grid ready (07 R175). -/
def execTaskLoading (s : State) : Res1 :=
  .next (match s.k.task, s.k.loading with
    | some t, some none =>
      let r : GOp (State × Task × Regs) := do
        let (s, t) ← (ctxNow s (coreDie s.cur) t).mapError GErr.wait
        let s ← loadDict (s.modK fun k => clearBufs { k with task := some t } t.ctx.asid) s.cur t
        let (s, g) ← applyArgs s s.cur t Regs.reset
        pure (s, t, g)
      match r with
      | .error (.wait n) => s.noted n
      | .error (.bad n c det ..) => loadFails (s.noted n) s.cur t c det
      | .ok (s, t, g) =>
        -- the indices of the T levels have landed when the first bundle reads them (08 R196)
        let x := landAll (bindLevels { TState.reset with regs := applyIndices t g, sys := startSys t } t.img)
        let ts := match findGrid s t.gid with | some g => g.mwts | none => 0
        s.modK fun k => { k with t := x, loading := none, frozen := false, mat := Mat.reset, stats := k.stats.filter fun e => !e.clean, lastAsid := some t.ctx.asid
                                 pts := max k.pts ts }
    | _, _ => s)
/-- SWITCH_IN (16 R404, R411): the saved task placed on the running core goes on. -/
def execSwitchIn (s : State) : Res1 :=
  .next (match s.k.loading with
    | some (some uid) =>
      match s.saved.find? fun x => x.uid == uid with
      | none => s.modK fun k => { k with loading := none }
      | some x => match restoreTask s s.cur x with
        | .ok s => s.modK fun k => { k with loading := none }
        | .error (.wait n) => s.noted n
        | .error (.bad n c det ..) => loadFails (s.noted n) s.cur x.task c det
    | _ => s)

/-! ## Pre-emption (16 R407 to R410) -/

/-- Empty issue cycles until nothing is left to land. -/
def drainLanding (s : State) : State := s.modT landAll
/-- Saves the running core's task as pre-empted: it is Ready again on its die. -/
def preemptNow (s : State) (t : Task) (slot : Nat) : Except HNote State :=
  (saveTask (drainLanding s) s.cur t slot).map fun s =>
    match s.saved.find? fun x => x.uid == t.uid with
    | some x => readySaved s x
    | none => s
/-- The state an operation gives, or with a wait the state before it. -/
def orNoted (s : State) (r : Except HNote State) : State :=
  match r with
  | .ok s => s
  | .error n => s.noted n
/-- Whether the bundle at PC is a Q bundle not yet issued. -/
def atQBundle (s : State) (t : Task) : Bool :=
  match fetchBundle s t with
  | .ok (_, _, w) =>
    let h := (Bundle.ofBits w).h
    h.q && (match s.k.t.rep with | none => true | some r => r == h.rep.toNat)
  | .error _ => false
/-- A core at a boundary that may honour a request: no slot waits in its bundle, no fault is due (16 Table 16.9), no handler
runs, no halt holds it. -/
def atBoundary (s : State) : Bool :=
  canRun s s.cur && !stopsHere s s.cur && s.k.t.fl.isNone && s.k.preempt && !trapMode s.k && !watchdogDue s.k && (topPend s.k.t).isNone

/-- PREEMPT_AT_Q_BUNDLE (16 R408). -/
def execPreemptAtQBundle (s : State) : Res1 :=
  match s.k.task with
  | none => .next s
  | some t =>
    if !atBoundary s || s.k.draining.isSome || (passHere s.k).isSome || !atQBundle s t then .next s
    else match saveSlot s t with
      | none => .next (lacksSlot s (coreDie s.cur) t.uid 0)
      | some slot => .next (if quietFor s s.cur then orNoted s (preemptNow s t slot) else s)

/-- Pass 0 of the counter that has drained, or its end when no iteration is left (16 R409). -/
def resumePass (t : TState) (i : Fin 4) : TState :=
  let l := t.loops.get i
  if l.n = 0 then arrive { t with loops := t.loops.set i { l with act := false, lim := none } } l.bstart (l.bstart + l.blen)
  else beginPass t i 0
/-- PREEMPT_AT_LOOP_PASS (16 R409): the drain begins before pass p, and the task is saved once it has ended. -/
def execPreemptAtLoopPass (s : State) : Res1 :=
  match s.k.task with
  | none => .next s
  | some t =>
    if !atBoundary s then .next s
    else match s.k.draining with
      | some (i, _) =>
        let i := loopNo i
        if (s.k.t.loops.get i).pre then .next s
        else match saveSlot s t with
          | none => .next (lacksSlot s (coreDie s.cur) t.uid 0)
          | some slot => .next (if quietFor s s.cur then orNoted s (preemptNow (s.modT fun x => resumePass x i) t slot) else s)
      | none =>
        match passHere s.k with
        | none => .next s
        | some i =>
          let l := s.k.t.loops.get i
          match saveSlot s t with
            | none => .next (lacksSlot s (coreDie s.cur) t.uid 0)
            | some _ =>
              let mark := fun (s : State) => s.modK fun k => { k with draining := some (i.val, l.pass) }
              if l.ns ≤ 1 then .next (mark (s.modT fun x => rebase x i l.pass))
              else
                let l' := { l with pre := true, lim := some l.pass }
                .next (mark (s.modT fun x => { x with loops := x.loops.set i { l' with sev := l'.enables l.pass } }))

/-- PREBOUND_EXCEEDED (16 R410): class 16 detail 4 at the next boundary. -/
def execPreboundExceeded (s : State) : Res1 :=
  let b := (s.k.t.sys.prebound.extractLsb' 0 32).toNat
  .next (if b ≠ 0 ∧ b < s.k.t.pbcnt ∧ s.k.preempt ∧ s.k.task.isSome ∧ !trapMode s.k
    then (pendFault s s.cur ⟨16, 4, 0, 0⟩).modT fun t => { t with pbcnt := 0 } else s)
/-- WATCHDOG_EXPIRY (16 R412): class 21 at once; a frozen bundle is abandoned. -/
def execWatchdogExpiry (s : State) : Res1 :=
  .next (match s.k.task with
    | none => s
    | some t =>
      if s.k.loading.isSome || s.k.t.fatal.isSome || !watchdogDue s.k then s
      else if s.k.t.fl.isSome then takeFault s s.cur ⟨21, 0, 0, 0⟩ (precisePoint s.k false)
      else let r := remOf s t; faultBefore r.1 ⟨21, 0, 0, 0⟩ r.2)
/-- PRMPT (16 R407): requests for the local cores a mask names, on the die named. -/
def execPrmpt (mask : BitVec 36) (s : State) : Res1 :=
  .next ((dieCores s.dsel).foldl (fun s c =>
    if mask.getLsbD (coreLocal c) && (s.core c).task.isSome then s.modCore c fun k => { k with preempt := true } else s) s)
/-- DBGHALT (16 R413) of the die named. -/
def execDbghalt (mask : BitVec 36) (s : State) : Res1 := .next (s.modDie s.dsel fun x => { x with dbghalt := mask.setWidth 64 })

/-- TRAP_ENTRY (16 R394, R399): the boundary fault that is due is taken at a boundary of the running core; an entry whose
frame had to wait is tried again. -/
def execTrapEntry (s : State) : Res1 :=
  .next (match s.k.trap with
    | some (f, p) => takeFault s s.cur f p
    | none => if canRun s s.cur && !stopsHere s s.cur && s.k.t.fl.isNone then (deliver s).getD s else s)

/-! ## The end of a task -/

/-- A Done task leaves its core: its grid counts it, its slot and its pre-emption request are free. -/
def leaveCore (s : State) (c : CoreId) (t : Task) : State :=
  let k := s.core c
  let s := modGrid s t.gid fun g => { g with done := g.done + 1, mwts := max g.mwts (max k.pts k.t.mwts) }
  let s : State := { s with dies := s.dies.map fun x => { x with ready := x.ready.filter fun e => e.uid != some t.uid } }
  vacateCore (dropSlot s t.uid) c t.ctx.asid

/-- Bound streams close as by QCLOSE: a fill ends, a drain writes what it has (13 R342). -/
def closeStreams (s : State) (c : CoreId) (uid : Nat) : Except HNote State :=
  (List.finRange 16).foldlM (init := s) fun s i =>
    let q : BitVec 4 := BitVec.ofFin i
    let x := getStream (s.core c).t q
    match x.bind with
    | .unbound => .ok s
    | .drain => .ok (s.modCore c fun k => { k with t := putStream k.t q { x with closed := true } })
    | .fill =>
      let s := s.modCore c fun k => { k with t := putStream k.t q Stream.unbound }
      match streamOp s uid q with
      | some (e, o) => (opSignal? (flagDone s uid o.flag 0) (engineDie e) o.ctx uid o.ev 0).map fun s => dropOp s e o
      | none => .ok s
/-- Load-blocks are released; those still filling once their fill has ended. -/
def closeBlocks (k : Core) : Core :=
  (k.blocks.filter fun b => !b.unit).foldl (fun k b =>
    if (getFlag k.t b.flag).state = 1#2 then modBlock k b.flag fun b => { b with released := true } else releaseBlock k b.flag) k

/-- Flushes a core's statistics as far as their homes answer. -/
def flushCore (s : State) (c : CoreId) : State :=
  let s' := (List.range 17).foldl (fun s _ =>
    match execStatsFlush (s.onCore c) with
    | .next s => (match execStatsFlushReply s with | .next s => s | _ => s)
    | _ => s) s
  { s' with cur := s.cur, agenda := s.agenda }

/-- Every access of a task has completed (07 R175). -/
def taskQuiet (s : State) (c : CoreId) (uid : Nat) : Bool :=
  let k := s.core c
  k.wq.isEmpty && (allLoads k).isEmpty && k.atom.isNone && k.mat.queue.isEmpty && k.mat.run.isNone
    && k.stats.all (fun e => e.clean && e.reply.isNone) && k.blocks.all (fun b => b.unit)
    && allEngines.all (fun e => (s.engine e).all fun o => o.uid != uid)
    && allDies.all (fun d => (s.die d).coll.all (fun o => o.uid != uid) && (s.die d).ptr.all (fun u => u.uid != uid))
    && s.ticks.all (fun t => t.uid != uid || t.done) && s.gv.all (fun r => r.core != c) && s.invs.all (fun i => i.core != c)

/-- TASKEND (11 R282). -/
def execTaskend (o : LTaskend) (s : State) : Res1 :=
  guarded o.g s (do
    let e1 ← match o.e1 with | some e => (s.evName (s.evOp e)).map fun n => [BitVec.ofNat 16 n] | none => pure []
    let e2 ← match o.e2 with | some r => (s.evName ((s.sR r) &&& 0xFFFF)).map fun n => [BitVec.ofNat 16 n] | none => pure []
    pure (s.modT fun t => { t with completing := some (e1 ++ e2) }))

/-- Completions are processed in the order in which they are reached, and within a cycle in that of their cores (09 R218). -/
def queueDone (s : State) (c : CoreId) : State := if s.dones.contains c then s else { s with dones := s.dones ++ [c] }
/-- The signals of a completion, each after those of the completions before it in the LS order (09 R218). -/
def signalEnds (s : State) (t : Task) (names : List (BitVec 16)) : Except HNote State :=
  let base := max (max s.k.pts s.k.t.mwts) (if names.isEmpty then 0 else s.doneTs + 1)
  (names.foldlM (init := s.clearHts) fun s n => opSignal s (coreDie s.cur) t.ctx t.uid n.toNat (max base s.hts)).map fun s =>
    { s with doneTs := max s.doneTs s.hts }
/-- TASK_COMPLETION (07 R175; 09 R213, R218; 11 R282): a Completing task closes what it left open, waits, signals its
events and is Done. -/
def execTaskCompletion (s : State) : Res1 :=
  match s.k.task, s.k.t.completing with
  | some t, some names =>
    if s.k.t.fl.isSome then .next s
    else match closeStreams s s.cur t.uid with
      | .error n => .next (s.noted n)
      | .ok s1 =>
        let s1 := flushCore (s1.modK closeBlocks) s1.cur
        if !taskQuiet s1 s1.cur t.uid then .next s1
        else
          let s1 := queueDone (s1.modK endResidency) s1.cur
          if s1.dones.head? ≠ some s1.cur then .next s1
          else match signalEnds s1 t names with
          | .error n => .next (s1.noted n)
          | .ok s2 => .next (leaveCore s2 s2.cur t)
  | _, _ => .next s

/-- What an abandoned slot waited for goes on without it (16 R412): an atomic and a GV update reach their homes, a tick
ends by itself. -/
def abandon (s : State) (c : CoreId) : State :=
  let s := s.onCore c
  let s := match execAtomicAtHome s with | .next s => s | _ => s
  let s := match execGvUpdateAtHome s with | .next s => s | _ => s
  let s := { s with gv := s.gv.filter fun r => r.core != c }
  { s with ticks := (s.ticks.filter fun t => !(t.core == c && t.waits && t.done)).map fun t => if t.core = c then { t with waits := false } else t }

/-- The open step set of a context is discarded as by STEPABORT, but for one that a tick closes (16 R396). -/
def discardSet (s : State) (c : CoreId) (t : Task) : State :=
  if s.ticks.any (fun x => x.ctx.asid == t.ctx.asid && x.kind != 0) || (stepSet s t.ctx.asid).isNone then s
  else { s with ticks := s.ticks ++ [{ ctx := t.ctx, core := c, uid := t.uid, kind := 2, ev := none, waits := false, governed := []
                                       rewritten := [], members := [], committed := none, fault := none, floor := none, done := false, mw := 0 }] }
/-- The stores of a task that a fault ends have drained, and what works on its core's buffers and streams has ended; its other
copies and its collectives go on without it (16 R396; 07 R175). -/
def fatalReady (s : State) (c : CoreId) (uid : Nat) : Bool :=
  (s.core c).wq.isEmpty && allEngines.all fun e => (s.engine e).all fun o =>
    o.uid != uid || !(o.touchesBufs || match o.kind with | .fill _ | .drain _ => true | _ => false)
/-- Grid-fatal end of a core's task by a cause (16 R396). -/
def fatalEnd (s : State) (c : CoreId) (t : Task) (f : FaultRec) : Except HNote State := do
  let d := coreDie c
  let s ← match saveSlot s t with
    | some slot => writeSlot (takeSlot s d t.uid slot) d t slot (s.core c).t
    | none => pure (lacksSlot s d t.uid 2)
  let s := discardSet (abandon (flushCore s c) c) c t
  let s := gridCause (modGrid s t.gid fun g => { g with cancelled := true, lag := g.lag ++ [t.uid] }) t.gid f.cls f.det f.einfo
  let s : State := { s with dies := s.dies.map fun x => { x with ready := x.ready.filter fun e => e.gid != t.gid || e.uid.isSome } }
  let mine : List CollOp := (s.die d).coll.filter fun o => o.uid == t.uid
  let s := mine.foldl (fun (s : State) o => s.postDie d (.groupFaultDetect (o.desc.f 2 63 48) .gridFatal)) s
  pure (leaveCore (raiseInt (s.modCore c releaseAll) d 1) c t)

/-- GRID_FATAL_FAULT (16 R396): the task of the running core ends with the cause marked. -/
def execGridFatalFault (s : State) : Res1 :=
  match s.k.task, s.k.t.fatal with
  | some t, some f =>
    let c := s.cur
    .next (match closeStreams s c t.uid with
      | .error n => s.noted n
      | .ok s1 => if fatalReady s1 c t.uid then { orNoted s1 (fatalEnd s1 c t f) with cur := c } else s1)
  | none, some _ => .next (s.modK fun k => { k with t := { k.t with fatal := none } })
  | _, none => .next s

/-! ## WAITEV (09 R213 to R215; 11 R279) -/

/-- The WAITEV of the running core's task spins no more: its lack of a save slot ends with it (16 R405). -/
def endSpin (s : State) : State := endLack s fun y => y == (taskUid s.k, 1)
def execWaitev (o : LEv) (s : State) : Res1 :=
  guarded o.g s (
    if s.k.parking != .no then freeze s
    else do
      let name ← s.evName (s.evOp o.e)
      if !lsQuiet s.k then freeze s
      else do
        let va := evVa s.k.ctx name
        let (_, pa, _) ← lsXlate s 0 true va ⟨false, false, false⟩
        lsTarget s pa va false true
        match lsReadHome s s.cur pa 8 with
        | .error (.wait n) => freeze (s.noted n)
        | .error (.cause n c d) => raise (s.noted n) c d va
        | .ok (s', bs) => if bytesToNat bs / 2 ^ 32 = 0 then pure (endSpin s') else freeze s')

/-- The WAITEV that a core spins on, with the cycle in which it began. -/
def frozenWaitev (k : Core) : Option (LEv × Nat) :=
  match k.t.fl with
  | some f => match f.todo, f.since with
    | (_, .run (.waitev o)) :: _, some t => some (o, t)
    | _, _ => none
  | none => none
def spinLimit (k : Core) : Nat := 64 * (k.y.evctl.extractLsb' 0 16).toNat
def unspin (s : State) : State := commit ((endSpin s).modK fun k => { k with frozen := false })

/-- The spin limit is reached: Park, or an end of the wait, after the access that ended it (07 R173, R174). -/
def parkNow (s : State) (o : LEv) (t : Task) : State :=
  match s.evName (s.evOp o.e) with
  | .error _ => s
  | .ok name =>
    match (EvAt.mk (coreDie s.cur) s.k.ctx s.k.pts).park s name (taskToken t.uid) with
    | .error (.wait n) => s.noted n
    | .error (.bad n 14 2 _ _) => (s.noted n).modK fun k =>
        { k with parking := .faulted, t := { k.t with sys := setCause k.t.sys ⟨14, 2, 0, BitVec.ofNat 64 name⟩ } }
    | .error (.bad n c d e i) => takeFault (s.noted n) s.cur ⟨c, d, e, i⟩ (precisePoint s.k false)
    | .ok (s, none) => s.modK fun k => { k with parking := .parked }
    | .ok (s, some ts) => unspin (s.modK (observe · ts))
/-- The parked task leaves its core: its WAITEV is not performed again, or is after RESUME (09 R214). One that its event has
released meanwhile stands in a ready queue already. -/
def leaveParked (s : State) (t : Task) (slot : Nat) : Except HNote State :=
  let d := coreDie s.cur
  match s.k.parking with
  | .parked | .released => saveTask (commit s) s.cur t slot
  | .faulted => (saveTask s s.cur t slot).map fun s =>
      if (s.die d).faultList.length < 64 then raiseInt (s.modDie d fun x => { x with faultList := x.faultList ++ [t.uid] }) d 1
      else s.modDie d fun x => { x with flwait := x.flwait ++ [t.uid] }
  | .no => .ok s
/-- WAITEV_SPIN_LIMIT (09 R214): the task parks once a save slot is there, and is saved once the core is quiet. -/
def execWaitevSpinLimit (s : State) : Res1 :=
  match s.k.task, frozenWaitev s.k with
  | some t, some (o, since) =>
    -- Park is an LS atomic: it waits for the stores and loads before it (07 R165, R178)
    if s.now < since + spinLimit s.k || !lsQuiet s.k then .next s
    else match saveSlot s t with
      | none => .next (lacksSlot s (coreDie s.cur) t.uid 1)
      | some slot =>
        if s.k.parking = .no then .next (parkNow s o t)
        else .next (if quietFor s s.cur then orNoted s (leaveParked s t slot) else s)
  | _, _ => .next s

/-- RESUME (09 R214): the token of a task that class 14 detail 2 parked, on the die named. -/
def execResume (token : BitVec 32) (s : State) : Res1 :=
  match s.saved.find? (fun x => taskToken x.uid == token.toNat && x.t.sys.cause == 0xE2#64
      && (match x.t.fl with | some f => (match f.todo with | (_, .run (.waitev _)) :: _ => true | _ => false) | none => false)
      && allDies.all (fun d => (s.die d).ready.all fun e => e.uid != some x.uid) && allCores.all fun c => (s.core c).loading != some (some x.uid)) with
  | some x => .next (readySaved s x)
  | none => .next s

/-! ## LAUNCH (11 R281; 09 R206) -/

/-- The reservation of a ring slot and the write of a packet (09 R206). -/
def launchInto (s : State) (t : Task) (q : Nat) (c : QCtx) (bs : List Byte) (tags : BitVec 8) : Op State :=
  let d := coreDie s.cur
  let (tail, head) : Nat × Nat := match slotOfQueue s q with
    | some (_, x) => (x.tail.toNat, x.head.toNat)
    | none => (c.tail, c.head)
  let va := c.ring + 128 * (tail % c.size)
  match walkXlate s d s.k.ctx true va ⟨true, false, false⟩ with
  | .error (.wait n) => freeze (s.noted n)
  | .error (.bad n det lvl) => raise (s.noted n) 5 det va (xlInfo (asidFor c.asid va) true false true false lvl)
  | .ok (s1, pa, pte) =>
    if !pteTagc pte || !inDev pa then raise s 15 11
    else if (BitVec.ofNat 32 tail - BitVec.ofNat 32 head).toNat = c.size then raise s 15 10
    else
      let r : HOp (State × Nat) := do
        let s2 ← lsWriteHome s1 s.cur pa bs
        let pts := s2.k.pts
        let s2 := (List.range 8).foldl (fun s i => wrTag s (resolvePa (pa + 16 * i)) (tags.getLsbD i)) s2
        let s3 ← setTail s2 d q c (BitVec.ofNat 32 (tail + 1))
        pure (s3, pts)
      match r with
      | .error (.wait n) => freeze (s.noted n)
      | .error (.cause n cl det) => raise (s.noted n) cl det va
      | .ok (s3, pts) =>
        .ok (modGrid { s3 with launched := s3.launched ++ [⟨q, tail % 2 ^ 32, t.gid, pts⟩] } t.gid fun g => { g with launches := g.launches + 1 })

/-- A packet read with its tags goes to its queue (11 R281; 09 R206). -/
def launchPacket (s : State) (t : Task) (q : Nat) (bs : List Byte) (tags : List Bool) : Op State :=
  let gran : Nat → Cap := fun i => ⟨BitVec.ofNat 128 (bytesToNat ((bs.drop (16 * i)).take 16)), tags.getD i false⟩
  if [3, 4, 5, 6, 7].any fun i => (gran i).tag && !(gran i).perms.getLsbD 0 then raise s 4 7
  else
    -- granules 0 to 2 pass no capability: their tags stay behind
    let kept : BitVec 8 := BitVec.ofNat 8 ((List.range 8).foldl (fun n i => if 3 ≤ i && tags.getD i false then n + 2 ^ i else n) 0)
    match readQCtx s (coreDie s.cur) q with
    | .error (.wait n) => freeze (s.noted n)
    | .error (.cause n cl det) => raise (s.noted n) cl det
    | .ok (s1, x) =>
      if !x.v || x.host || x.asid ≠ s.lsAsid then raise s 15 11
      else launchInto s1 t q x bs kept

def execLaunch (o : LScal) (s : State) : Res1 :=
  guarded o.g s (do
    let c := s.cR o.m.cap
    let va ← capCheck s c .rd (s.memOff o.m.idx o.m.imm 128) 128
    if va % 128 ≠ 0 then raise s 4 12
    else do
      let s0 := s
      let (s, ps) ← loadPieces s c va 128
      let xs ← xlatePieces s false false ps true
      if 255 < (s.sR o.d).toNat then raise s 15 11
      else match s.k.task with
        | none => freeze s
        | some t =>
          if 8 ≤ t.depth then raise s 15 6
          else if !lsQuiet s.k then freeze s0
          else match readTagged s xs with
            | .error (.wait n) => freeze (s0.noted n)
            | .error (.cause n cl d) => raise (s0.noted n) cl d va
            | .ok (s1, bs, tags) => launchPacket s1 t (64 + (s.sR o.d).toNat) bs tags)

/-! ## Power loss (16 R415) -/

/-- Bytes of a save layout that the notice saves. -/
def saveLen : Nat := 237568
/-- A write of the save; one that does not reach memory is lost. -/
def plnWrite (s : State) (d : DieId) (pa : Nat) (bs : List Byte) : Except HNote State :=
  match homeWrite s d pa bs with
  | .ok (s, _) => .ok s
  | .error (.wait n) => .error n
  | .error (.cause n _ _) => .ok (s.noted n)
/-- A trailer: its words in the order of the rule, the rest of its 64 bytes free (log 27). -/
def trailer (s : State) (ws : List Nat) : List Byte :=
  ws.flatMap (natToBytes 8) ++ (List.range (64 - 8 * ws.length)).map fun i => Config.freeByte (s.fresh + i)

/-- Phase 1: the resident tasks' layouts. -/
def plnResident (s : State) (d : DieId) (part : Nat) : Except HNote State :=
  (dieCores d).foldlM (init := s) fun s c =>
    if (s.core c).task.isSome then
      (plnWrite s d (part + 0x4_0000 * coreLocal c) (slotBytes (fun i => Config.freeByte (s.fresh + i)) (s.core c).t 0 saveLen)).map fun x =>
        { x with fresh := s.fresh + saveLen }
    else .ok s
def plnTrailer (s : State) (d : DieId) (pa : Nat) (ws : List Nat) : Except HNote State :=
  (plnWrite s d pa (trailer s ws)).map fun x => { x with fresh := s.fresh + 64 }
/-- The die's saved tasks by the address of their slots. -/
def plnSaved (s : State) (d : DieId) : List (Nat × Saved) :=
  let l := (s.saved.filter fun x => x.die == d).map fun x => (slotPa x.task x.slot, x)
  l.mergeSort fun a b => decide (a.1 ≤ b.1)
/-- Phase 2: a slot's bytes as they stand. -/
def plnCopy (s : State) (d : DieId) (slot to_ : Nat) : Except HNote State :=
  match homeRead s d slot saveLen with
  | .error (.wait n) => .error n
  | .error (.cause n _ _) => .ok (s.noted n)
  | .ok (s, bs) => plnWrite s d to_ bs
/-- Both phases of a die's save. -/
def plnSave (s : State) (d : DieId) (since : Nat) : Except HNote State := do
  let part := (s.die d).plbase.toNat % 2 ^ 52 / 4096 * 4096 + 0x4000_0000 * d.val
  let s ← plnResident s d part
  let mask := (dieCores d).foldl (fun m c => if (s.core c).task.isSome then m + 2 ^ coreLocal c else m) 0
  let s ← plnTrailer s d (part + 0x90_0000) [0x504C_5356, mask, s.now - since]
  let mine := plnSaved s d
  let s ← (mine.take 4032).zipIdx.foldlM (init := s) fun s x => plnCopy s d x.1.1 (part + 0x100_0000 + 0x4_0000 * x.2)
  plnTrailer s d (part + 0x98_0000) [0x504C_5353, min 4032 mine.length, if 4032 < mine.length then 1 else 0, s.now - since]

/-- Matrix operations abandoned: their tiles keep what CBUF holds and are no longer busy. -/
def dropMatrix (k : Core) : Core :=
  let k := { k with mat := { k.mat with queue := [], run := none } }
  let k := endResidency k
  { k with mat := { k.mat with busy := 0 } }
/-- A core that has stopped for the notice: at a boundary, or frozen inside its bundle in a wait for what goes on no more, a copy,
a collective whose members have stopped, a frame fill, an event that no task is left to signal (log 27). -/
def plnStopped (s : State) (c : CoreId) : Bool :=
  let k := s.core c
  match k.t.fl with
  | none => true
  | some f => k.frozen && (backWaits (s.onCore c) || match f.todo with
    | (_, .run (.cpyw _)) :: _ | (_, .run (.collw _)) :: _ => true
    | (_, .run (.pfence o)) :: _ => o.pred.getLsbD 4 && (s.die (coreDie c)).coll.any fun x => x.core == c
    | (_, .run (.mtsr _)) :: _ => k.t.frames.toList.any fun x => x.f
    | (_, .run (.waitev _)) :: _ => (match k.task with | some t => (saveSlot s t).isNone | none => true)
        && (match f.since with | some n => decide (n + spinLimit k ≤ s.now) | none => false)
    | _ => false)
/-- POWER_LOSS_NOTICE (16 R415): the notice stops every core at its next boundary; each die then saves. -/
def execPowerLossNotice (s : State) : Res1 :=
  match s.pln with
  | none =>
    let s := { s with pln := some s.now, engines := s.engines.map (fun _ => ([] : List CopyOp))
                      cores := s.cores.map fun k => { dropMatrix k with plnHalt := true } }
    .next (allDies.foldl (fun s d => s.postDie d .powerLossNotice) s)
  | some t0 =>
    let d := s.dsel
    if (dieCores d).all (plnStopped s) then
      match plnSave s d t0 with
      | .ok s => .next s
      | .error n => .next ((s.noted n).deferDie d .powerLossNotice)
    else .next (s.deferDie d .powerLossNotice)

end Sys2Proof.Machine
end

