-- ==== Sys2Proof/Machine/Host.lean ====
section
/-!
DEFINITION. The host attachment (spec 17 R417 to R421), writes of MMIO registers, power and heat (18 R441, R442), boot and
attestation (17 R431, R432).
-/

namespace Sys2Proof.Machine

/-! ## CXL.mem (17 R418) -/

/-- HOST_CXL_MEM_ACCESS, by the port of the die named, which must be wired (log 19): an HS access through the interleaved alias,
where firmware has enabled CXL.mem. The host's other requests over CXL.io that are no writes come in by it too (log 19): a
read of a register, and a PCIe atomic operation, which the G4 does not support. -/
def execHostCxlMemAccess (r : HostReq) (s : State) : Res1 :=
  let d := s.dsel
  let lines : Nat → Nat → List Nat := fun x n => (cutLines (0x100_0000_0000 + x) n).map fun y => resolvePa y.1 / 128
  let held : State → List Nat → Nat → State := fun s l v => l.foldl (fun s a => { s with hostHeld := Sparse.set 0 s.hostHeld a v }) s
  let unsup : State := s.emit .unsupported
  let later : HNote → State := fun m => (s.noted m).deferDie d (.hostCxlMemAccess r) s.unit s.item
  let served : Nat → Nat → Bool := fun x n => Config.wiredPort d && (s.die d).cxlMem && decide (x + n ≤ 0xC0_0000_0000)
  .next (match r with
    | .read x n =>
      if !served x n then unsup
      else if hostWaits s d then later .none
      else match homeRead s d (0x100_0000_0000 + x) n with
        | .ok (s, bs) => (held s (lines x n) 1).emit (.data bs)
        | .error (.wait m) => later m
        | .error (.cause m _ _) => (s.noted m).emit .unsupported
    | .write x bs =>
      let l := lines x bs.length
      if !served x bs.length then unsup
      else match homeWrite (held s l 0) d (0x100_0000_0000 + x) bs with
        | .ok (s, _) => held s l 1
        | .error (.wait m) => later m
        | .error (.cause m _ _) => (s.noted m).emit .unsupported
    | .reg e o n =>
      if (n ≠ 4 ∧ n ≠ 8) ∨ o % n ≠ 0 ∨ 2 ^ 32 ≤ o then unsup
      else hostRead s d e (.hostCxlMemAccess r) ((mmioRead s e o n).map fun bs => (mmioReadEffect s e o).emit (.data bs))
    | .atomic => unsup)

/-! ## Interrupts (17 R421) -/

/-- Sources set, enabled, and not yet reported since they were last cleared. -/
def msiDue (x : Die) : Word := x.intstat &&& x.intmask &&& ~~~x.msiSent
/-- INTERRUPT_MESSAGE: one MSI-X message of the die named, on the port of INTCFG.PORTDIE; one that no way leads to is lost (log
19). -/
def execInterruptMessage (s : State) : Res1 :=
  let x := s.die s.dsel
  let port : DieId := Fin.ofNat 4 (x.intcfg.extractLsb' 0 2).toNat
  .next (match (List.range 6).find? fun i => (msiDue x).getLsbD i with
    | none => s
    | some i =>
      let s := s.modDie s.dsel fun y => { y with msiSent := y.msiSent ||| (1#64 <<< i) }
      if Config.wiredPort port && blockReached s s.dsel port then s.emit (.msi port (8 * s.dsel.val + i)) else s)

/-! ## MMIO writes (17 R419) -/

/-- The bits of an 8-byte word that a write reaches, and their values there. -/
def wrMask (w : MmioWr) : Word := if w.wide then BitVec.allOnes 64 else if w.off % 8 = 0 then 0xFFFF_FFFF#64 else 0xFFFF_FFFF_0000_0000#64
def wrVal (w : MmioWr) : Word := if w.wide ∨ w.off % 8 = 0 then w.val else w.val <<< 32
/-- Writable bits of a field group after a write. -/
def putBits (old rw mask v : Word) : Word := (old &&& ~~~(rw &&& mask)) ||| (v &&& rw &&& mask)

/-- A register without behaviour of its own: its writable fields change (05, 06, 09, 16, 17, 18). -/
def plainWrite (x : Die) (off : Nat) (m v : Word) : Die :=
  let low : Bool := m.getLsbD 0
  match off with
  | 0x00_0008 => { x with sysid := putBits x.sysid 0x1FFF m v }
  | 0x10_0000 => let c := v &&& m &&& 0x3F; { x with intstat := x.intstat &&& ~~~c, msiSent := x.msiSent &&& ~~~c }
  | 0x10_0008 => { x with intmask := putBits x.intmask 0x3F m v }
  | 0x10_0010 => { x with intcfg := putBits x.intcfg 3 m v }
  | 0x20_0000 => { x with hdie := if low then v.setWidth 2 else x.hdie }
  | 0x20_0010 =>
    let y := putBits (BitVec.ofNat 64 (x.sridle.toNat * 2 ^ 20 + x.pdidle.toNat)) 0xFF_FFFF_FFFF m v
    { x with pdidle := y.setWidth 20, sridle := y.extractLsb' 20 20 }
  | 0x20_0018 => { x with kroot := putBits x.kroot 0xF_FFFF_FFFF_F000 m v }
  | 0x30_0000 => { x with qtbase := putBits x.qtbase 0xF_FFFF_FFFF_FFFF m v }
  | 0x30_0018 => { x with plbase := putBits x.plbase 0xF_FFFF_FFFF_F000 m v }
  | 0x38_0000 => { x with gtbase := putBits x.gtbase 0xF_FFFF_FFFF_FFC0 m v }
  | 0x38_0008 => { x with gtcnt := putBits x.gtcnt 0x1_FFFF m v }
  | 0x5F_0000 => { x with ctlkey := putBits x.ctlkey 1 m v }
  | 0x5C_0010 => if x.ctlkey.getLsbD 0 then { x with scrub := putBits x.scrub (BitVec.allOnes 64) m v } else x
  | 0x5E_0000 => if x.ctlkey.getLsbD 0 ∧ low then { x with plim := v.setWidth 16 } else x
  | _ => x

/-- Words 0, 1 and 4 of a pull entry (05 R138). -/
def pullWrite (p : Pull) (i : Nat) (m v : Word) : Pull :=
  if p.busy then p
  else
    let frame : Nat → Nat := fun old => (putBits (BitVec.ofNat 64 old) 0xF_FFFF_FFFF_F000 m v).toNat
    match i with
    | 0 => { p with newPa := frame p.newPa, size := if m.getLsbD 60 then v.extractLsb' 60 1 else p.size }
    | 1 => { p with oldPa := frame p.oldPa }
    | 4 => { p with ptePa := (putBits (BitVec.ofNat 64 p.ptePa) 0xF_FFFF_FFFF_FFF8 m v).toNat }
    | _ => p

/-- A request for a frequency step (18 R441). A higher REQ is a lower step and takes effect at once; a raise waits for the
voltage. -/
def pstateOp (x : Die) (req : BitVec 2) : Die :=
  if x.pstateCur.toNat ≤ req.toNat then { x with pstateReq := req, pstateCur := req, ramping := false }
  else { x with pstateReq := req, ramping := true }
/-- PSTATE of the die named. -/
def execPstate (req : BitVec 2) (s : State) : Res1 := .next (s.modDie s.dsel fun x => pstateOp x req)
/-- VOLTAGE_SETTLED (18 R441). A die held at the lowest step stays there (log 34). -/
def execVoltageSettled (s : State) : Res1 :=
  .next (s.modDie s.dsel fun x => if x.ramping && !x.thermal then { x with pstateCur := x.pstateReq, ramping := false } else x)

/-- A host write reaches a die's block through a wired port and a route that stands (05 R128, R131). -/
def reachable (s : State) (w : MmioWr) : Bool :=
  match w.port with
  | some p => Config.wiredPort p && blockReached s p w.die
  | none => islActive s w.die
/-- MMIO_REGISTER_WRITE (17 R419): the registers with a behaviour of their own act by it. A host write waits for those to the same
block that came before it (17 R420). -/
def execMmioRegisterWrite (w : MmioWr) (s : State) : Res1 :=
  let d := w.die
  let s0 := s
  let back : Res1 → Res1 := fun r => match r with
    | .next t => .next { t with dsel := s0.dsel, unit := s0.unit, item := s0.item }
    | r => r
  let o := w.off - w.off % 8
  let m := wrMask w
  let v := wrVal w
  let low : Bool := m.getLsbD 0
  let at_ : Nat → Nat → State := fun unit item => { s with dsel := d, unit := unit, item := item }
  if w.off % (if w.wide then 8 else 4) ≠ 0 ∨ !reachable s w then .next (if w.port.isSome then s.emit .unsupported else s)
  else if w.port.isSome && blockWaits s d then .next (s.deferDie s.dsel (.mmioRegisterWrite w) s.unit s.item)
  else if o = 0x30_0008 then (if low then back (execResume (v.setWidth 32) (at_ 0 0)) else .next s)
  else if o = 0x30_0010 then back (execPrmpt ((v &&& m).setWidth 36) (at_ 0 0))
  else if o = 0x30_0020 then back (execDbghalt ((putBits (s.die d).dbghalt 0xF_FFFF_FFFF m v).setWidth 36) (at_ 0 0))
  else if o = 0x56_0000 then (if low then back (execPstate (v.setWidth 2) (at_ 0 0)) else .next s)
  else if 0x20_1000 ≤ o ∧ o < 0x20_2000 then
    let n := (o - 0x20_1000) / 64
    let i := o % 64 / 8
    if i = 3 then
      if !low then .next s
      else match (v.extractLsb' 0 2).toNat with
        | 1 => back (execPullRegister (at_ 0 n))
        | 2 => back (execPullStart (at_ 0 n))
        | 3 => back (execPullCancel (at_ 0 n))
        | _ => .next s
    else .next (modPull s d (pullNo n) fun p => pullWrite p i m v)
  else if 0x40_0000 ≤ o ∧ o < 0x44_0000 then
    if o % 0x1000 = 0 ∧ low then back (execDoorbell (v.setWidth 32) (at_ (w.port.getD d).val ((o - 0x40_0000) / 0x1000))) else .next s
  else if 0x50_0000 ≤ o ∧ o < 0x50_4000 then
    let n := (o - 0x50_0000) / 0x100
    if o % 0x100 = 0 then back (execMoncfgClr (putBits ((s.die d).mons.get (Fin.ofNat 64 n)).cfg (BitVec.allOnes 64) m v) (at_ n 0)) else .next s
  else .next (s.modDie d fun x => plainWrite x o m v)

/-! ## Power and heat (18 R442) -/

/-- Power above the die's share, a fourth of PLIM (log 34). -/
def overPower (x : Die) (watts : Nat) : Bool := decide (x.plim.toNat < 4 * watts)
/-- THERMAL_POWER_THROTTLE of the die named. -/
def execThermalPowerThrottle (watts celsius : Nat) (s : State) : Res1 :=
  .next (s.modDie s.dsel fun x => if overPower x watts || decide (100 ≤ celsius) then { x with throttle := true } else x)
/-- THROTTLING_ENDS of the die named. -/
def execThrottlingEnds (watts celsius : Nat) (s : State) : Res1 :=
  .next (s.modDie s.dsel fun x => if !overPower x watts && decide (celsius < 100) then { x with throttle := false, thermal := false } else x)
/-- THERMAL_LOWEST_STEP of the die named. -/
def execThermalLowestStep (celsius : Nat) (s : State) : Res1 :=
  .next (s.modDie s.dsel fun x => if 105 ≤ celsius then { x with pstateCur := 3, thermal := true, ramping := x.pstateReq != 3 } else x)
/-- THERMAL_RESET of the die named. -/
def execThermalReset (celsius : Nat) (s : State) : Res1 :=
  .next (if 110 < celsius then raiseInt (domainState s s.dsel .inReset) s.dsel 5 else s)

/-! ## Boot and attestation (17 R431, R432) -/

/-- BOOTSTAT.ERR of an image, 0 where it may run; the checks in the order of log 35. -/
def bootErr (d : DieId) (image sig key : List Byte) (svn : BitVec 32) (readable : Bool) : Nat :=
  if !readable then 4
  else if Config.shake256 key ≠ Config.fusedKeyDigest d then 3
  else if !Config.falconVerify key (Config.shake256 image) sig then 1
  else if svn.toNat < (Config.fusedMinSvn d).toNat then 2
  else 0
/-- DIE_BOOT of the die named. -/
def execDieBoot (image sig key : List Byte) (svn : BitVec 32) (readable : Bool) (s : State) : Res1 :=
  let e := bootErr s.dsel image sig key svn readable
  .next (s.modDie s.dsel fun x =>
    if e = 0 then { x with bootstat := BitVec.ofNat 64 (svn.toNat * 2 ^ 32 + 0x20), fwDigest := Config.shake256 image
                           cxlMem := Config.cxlMem s.dsel }
    else { x with bootstat := BitVec.ofNat 64 (0x30 + e) })

/-- The port through which a die answers. -/
def spdmPort (s : State) (d : DieId) : DieId :=
  if Config.wiredPort d then d else Fin.ofNat 4 ((s.die d).intcfg.extractLsb' 0 2).toNat
/-- An answer of the die named; request and answer join the transcript, which GET_VERSION starts (log 35). A die that its port's requests do not reach
answers nothing (05 R131). -/
def answer (s : State) (req : List Byte) (code : Byte) (body : List Byte) (start : Bool := false) : Res1 :=
  .next (if !blockReached s (spdmPort s s.dsel) s.dsel then s.emit .unsupported
    else ((s.modDie s.dsel fun x => { x with spdm := (if start then [] else x.spdm) ++ req ++ [0x13#8, code] ++ body }).emit (.spdm (spdmPort s s.dsel) s.dsel code body)))
def execGetVersion (s : State) : Res1 :=
  answer s [0x10#8, 0x84#8] 0x04 [0x13#8] true
/-- CERT_CAP, CHAL_CAP and MEAS_CAP with signature. -/
def execGetCapabilities (s : State) : Res1 := answer s [0x13#8, 0xE1#8] 0x61 [0x16#8]
def execNegotiateAlgorithms (s : State) : Res1 := answer s [0x13#8, 0xE3#8] 0x63 Config.spdmAlgorithms
def execGetDigests (s : State) : Res1 := answer s [0x13#8, 0x81#8] 0x01 (1#8 :: bitsBytes 64 (Config.shake256 (Config.certChain s.dsel)))
def execGetCertificate (s : State) : Res1 := answer s [0x13#8, 0x82#8, 0#8] 0x02 (Config.certChain s.dsel)
/-- CHALLENGE: signed over the transcript, the request and the answer included. -/
def execChallenge (nonce : List Byte) (s : State) : Res1 :=
  let req := [0x13#8, 0x83#8] ++ nonce
  let t := (s.die s.dsel).spdm ++ req ++ [0x13#8, 0x03#8]
  answer s req 0x03 (Config.falconSign s.dsel t)
/-- Measurement blocks 1 to 3. -/
def measurement (s : State) (d : DieId) : Nat → Option (List Byte)
  | 1 => some (bitsBytes 64 (s.die d).fwDigest)
  | 2 => some (bitsBytes 4 ((s.die d).bootstat.extractLsb' 32 32) ++ bitsBytes 4 (Config.fusedMinSvn d))
  | 3 => some (bitsBytes 64 (Config.shake256 ([0x20_0000, 0x20_0010, 0x20_0018, 0x30_0000, 0x30_0018, 0x30_0020, 0x38_0000, 0x38_0008].flatMap fun o =>
      bitsBytes 8 (mmioWord s d o))))
  | _ => none
/-- ERROR with code UnsupportedRequest. -/
def spdmError (s : State) (req : List Byte) : Res1 := answer s req 0x7F [0x07#8]
def execGetMeasurements (index : Nat) (s : State) : Res1 :=
  let req := [0x13#8, 0xE0#8, BitVec.ofNat 8 index]
  match measurement s s.dsel index with
  | some b => answer s req 0x60 (b ++ Config.falconSign s.dsel ((s.die s.dsel).spdm ++ req ++ b))
  | none => spdmError s req
def execSpdmUnsupportedRequest (code : Byte) (s : State) : Res1 := spdmError s [0x13#8, code]

end Sys2Proof.Machine
end

