-- ==== Sys2Proof/Machine/Pointer.lean ====
section
/-!
DEFINITION. The Pointer (spec 09 R221 to R223; 13 R331): activation lists, their updates and generations. All storage is
reached in the privileged half on the AL path.
-/

namespace Sys2Proof.Machine

/-! ## Descriptors (09 Table 9.9) -/

/-- Words 0 to 4 of a list's descriptor, and where it lies. -/
structure ActDesc where
  (va w0 w1 w2 w3 w4 : Nat)
  deriving DecidableEq, Repr
def ActDesc.v (a : ActDesc) : Bool := a.w0.testBit 63
def ActDesc.err (a : ActDesc) : Bool := a.w0.testBit 62
def ActDesc.cur (a : ActDesc) : Bool := a.w0.testBit 61
def ActDesc.w (a : ActDesc) : Nat := a.w0 / 2 ^ 24 % 2 ^ 24
def ActDesc.size (a : ActDesc) : Nat := a.w0 % 2 ^ 24
def ActDesc.bmap (a : ActDesc) : Nat := a.w1 % 2 ^ 57
def ActDesc.listA (a : ActDesc) : Nat := a.w2 % 2 ^ 57
def ActDesc.listB (a : ActDesc) : Nat := a.w3 % 2 ^ 57
/-- The list that updates change. -/
def ActDesc.next (a : ActDesc) : Nat := if a.cur then a.listA else a.listB
def ActDesc.nlen (a : ActDesc) : Nat := a.w4 % 2 ^ 24
def ActDesc.clen (a : ActDesc) : Nat := a.w4 / 2 ^ 32 % 2 ^ 24

/-- Who reaches a list's storage. -/
structure Ptr where
  (d : DieId) (ctx : Ctx)
  deriving DecidableEq, Repr
def Ptr.rd (p : Ptr) (s : State) (va n : Nat) : GOp (State × Nat) := (gRead s p.d p.ctx false va n).map fun x => (x.1, bytesToNat x.2)
def Ptr.wr (p : Ptr) (s : State) (va n x : Nat) : GOp State := gWrite s p.d p.ctx false va (natToBytes n x)
def Ptr.desc (p : Ptr) (s : State) (list : Nat) : GOp (State × ActDesc) := do
  let va := p.ctx.albase.toNat + 64 * list
  let (s, x) ← p.rd s va 40
  let w : Nat → Nat := fun i => x / 2 ^ (64 * i) % 2 ^ 64
  pure (s, ⟨va, w 0, w 1, w 2, w 3, w 4⟩)
/-- NLEN := n, and CLEN where given. -/
def Ptr.lens (p : Ptr) (s : State) (a : ActDesc) (clen nlen : Nat) : GOp (State × ActDesc) := do
  let w4 := clen * 2 ^ 32 + a.w4 / 2 ^ 24 % 2 ^ 8 * 2 ^ 24 + nlen % 2 ^ 24 + a.w4 / 2 ^ 56 * 2 ^ 56
  let s ← p.wr s (a.va + 32) 8 w4
  pure (s, { a with w4 := w4 })
/-- A cleared entry carries bit 31, which no tile index has (log 28). -/
def clearedMark : Nat := 2 ^ 31
def Ptr.entries (p : Ptr) (s : State) (list n : Nat) : GOp (State × List Nat) := do
  let (s, x) ← p.rd s list (4 * n)
  pure (s, (List.range n).map fun i => x / 2 ^ (32 * i) % 2 ^ 32)
def liveEntry (e : Nat) : Bool := decide (e < clearedMark)
def Ptr.putEntries (p : Ptr) (s : State) (list : Nat) (es : List Nat) : GOp State :=
  gWrite s p.d p.ctx false list (es.flatMap (natToBytes 4))
/-- Drops the next list's cleared entries, order kept. -/
def Ptr.compact (p : Ptr) (s : State) (a : ActDesc) : GOp (State × ActDesc) := do
  let (s, es) ← p.entries s a.next a.nlen
  let live := es.filter liveEntry
  let s ← p.putEntries s a.next live
  p.lens s a a.clen live.length

/-! ## Updates (09 R222) -/

def Ptr.set (p : Ptr) (s : State) (a : ActDesc) (i : Nat) : GOp (State × ActDesc) := do
  let (s, b) ← p.rd s (a.bmap + i / 8) 1
  if b.testBit (i % 8) then pure (s, a)
  else do
    let s ← p.wr s (a.bmap + i / 8) 1 (b + 2 ^ (i % 8))
    let (s, a) ← if a.nlen = a.size then p.compact s a else pure (s, a)
    let s ← p.wr s (a.next + 4 * a.nlen) 4 i
    p.lens s a a.clen (a.nlen + 1)
/-- Neighbours of a tile in ascending index, without wrap. -/
def neighbours (a : ActDesc) (nb : Nb) (i : Nat) : List Nat :=
  let x : Int := i % a.w
  let y : Int := i / a.w
  let ds : List (Int × Int) :=
    match nb with
    | .none => []
    | .four => [(0, -1), (-1, 0), (1, 0), (0, 1)]
    | .eight => [(-1, -1), (0, -1), (1, -1), (-1, 0), (1, 0), (-1, 1), (0, 1), (1, 1)]
  ds.filterMap fun d =>
    let u := x + d.1
    let v := y + d.2
    if 0 ≤ u ∧ u < a.w ∧ 0 ≤ v ∧ v * a.w + u < a.size then some (v * a.w + u).toNat else none
def Ptr.actSet (p : Ptr) (s : State) (a : ActDesc) (i : Nat) (nb : Nb) : GOp State :=
  ((i :: neighbours a nb i).foldlM (init := (s, a)) fun x j => p.set x.1 x.2 j).map Prod.fst
def Ptr.actClr (p : Ptr) (s : State) (a : ActDesc) (i : Nat) : GOp State := do
  let (s, b) ← p.rd s (a.bmap + i / 8) 1
  if !b.testBit (i % 8) then pure s
  else do
    let s ← p.wr s (a.bmap + i / 8) 1 (b - 2 ^ (i % 8))
    let (s, es) ← p.entries s a.next a.nlen
    match es.idxOf? i with
    | some k => p.wr s (a.next + 4 * k) 4 (clearedMark + i)
    | none => pure s

/-- ERR and ECAUSE of a list; left as they are where the descriptor itself cannot be written (log 28). -/
def Ptr.fail (p : Ptr) (s : State) (list cls det : Nat) : Except HNote State :=
  let va := p.ctx.albase.toNat + 64 * list
  let run : GOp State := do
    let (s, w0) ← p.rd s va 8
    let s ← p.wr s va 8 (w0 ||| 2 ^ 62)
    let (s, w5) ← p.rd s (va + 40) 8
    p.wr s (va + 40) 8 (w5 - w5 / 2 ^ 48 % 2 ^ 9 * 2 ^ 48 + (cls * 16 + det) % 2 ^ 9 * 2 ^ 48)
  match run with
  | .ok s => .ok s
  | .error (.wait n) => .error n
  | .error (.bad n ..) => .ok (s.noted n)
/-- An operation of the Pointer on a list as a whole: a failure marks the list and leaves the rest as it was. -/
def Ptr.run {α : Type} (p : Ptr) (s : State) (list : Nat) (r : GOp α) : Except HNote (State ⊕ α) :=
  match r with
  | .ok a => .ok (.inr a)
  | .error (.wait n) => .error n
  | .error (.bad n c det ..) => (p.fail (s.noted n) list c det).map Sum.inl

/-- The checks of R222 at issue, then the Pointer's acceptance. -/
def actSlot (s : State) (list : BitVec 3) (i : Word) (set : Bool) (nb : Nb) : Op State :=
  let d := coreDie s.cur
  match (Ptr.mk d s.k.ctx).desc s list.toNat with
  | .error (.wait n) => freeze (s.noted n)
  | .error (.bad n ..) => raise (s.noted n) 15 12
  | .ok (s1, a) =>
    if !a.v || decide (a.size ≤ i.toNat) || (nb != .none && a.w == 0) then raise s 15 12
    else .ok (s1.modDie d fun x => { x with ptr := x.ptr ++ [⟨s.cur, taskUid s.k, s.k.ctx, list, i, set, nb⟩] })
/-- ACTSET (13 R331). -/
def execActset (o : LAct) (s : State) : Res1 := guarded o.g s (actSlot s o.list (s.sR o.idx + o.imm.signExtend 64) true o.nb)
/-- ACTCLR (13 R331). -/
def execActclr (o : LActClr) (s : State) : Res1 := guarded o.g s (actSlot s o.list (s.sR o.idx + o.imm.signExtend 64) false .none)

/-- One accepted update. -/
def applyUpd (s : State) (d : DieId) (u : ActUpd) : Except HNote State :=
  let p : Ptr := ⟨d, u.ctx⟩
  let r : GOp State := do
    let (s, a) ← p.desc s u.list.toNat
    if a.err then pure s
    else if u.set then p.actSet s a u.tile.toNat u.nb
    else p.actClr s a u.tile.toNat
  (p.run s u.list.toNat r).map (Sum.elim id id)

/-- ACTIVATION_UPDATE_APPLY (09 R222): the oldest update the Pointer of the die named has accepted. -/
def execActivationUpdateApply (s : State) : Res1 :=
  let d := s.dsel
  .next (match (s.die d).ptr with
    | [] => s
    | u :: _ => match applyUpd s d u with
      | .error n => s.noted n
      | .ok s => s.modDie d fun x => { x with ptr := x.ptr.drop 1 })

/-! ## Generations (09 R223) -/

/-- The swap on a list: the positions drawn with their tiles. -/
def Ptr.swap (p : Ptr) (s : State) (a : ActDesc) (extent : Nat) : GOp (State × List (Nat × Nat)) := do
  let (s, es) ← p.entries s a.next a.nlen
  let live := es.filter liveEntry
  let old := if a.cur then a.listB else a.listA
  let s ← p.putEntries s a.next live
  let s ← p.putEntries s old live
  let w0 := if a.cur then a.w0 - 2 ^ 61 else a.w0 + 2 ^ 61
  let s ← p.wr s a.va 8 w0
  let (s, _) ← p.lens s { a with w0 := w0 } live.length live.length
  pure (s, (live.take (min extent live.length)).zipIdx.map fun x => (x.2, x.1))

/-- An earlier grid of the context still draws from the list. -/
def listBusy (s : State) (g : Grid) (n : BitVec 3) : Bool :=
  (s.grids.takeWhile fun h => h.gid != g.gid).any fun h =>
    h.ctx.asid == g.ctx.asid && (match h.listLevel with | some l => l.listn == n | none => false) && h.entered && h.expanding

/-- ACTIVATION_GENERATION_SWAP (09 R223): grid `item`, by the Pointer of the die named. A list in error, or one that is not
configured (log 28), fails the grid. -/
def execActivationGenerationSwap (s : State) : Res1 :=
  .next (match findGrid s s.item with
    | none => s
    | some g => match g.listLevel with
      | none => s
      | some l =>
        if !g.startable s || listBusy s g l.listn then s
        else
          let p : Ptr := ⟨g.qdie, g.ctx⟩
          let bad := fun (s : State) => modGrid s g.gid fun g => g.fail 15 13 0
          let r : GOp (State × Option (List (Nat × Nat))) := do
            let (s, a) ← p.desc s l.listn.toNat
            if a.err || !a.v then pure (s, none)
            else (p.swap s a l.extent.toNat).map fun x => (x.1, some x.2)
          match p.run s l.listn.toNat r with
          | .error n => s.noted n
          | .ok (.inl s) => bad s
          | .ok (.inr (s, none)) => bad s
          | .ok (.inr (s, some ds)) =>
            let s := modGrid s g.gid fun g => { g with draws := ds }
            match findGrid s g.gid with
            | some g => enterGrid s g
            | none => s)

end Sys2Proof.Machine
end

