-- ==== Sys2Proof/Machine/Random.lean ====
section
/-!
DEFINITION. The random-bits queue (spec 12 R312 to R314; 11 R287): its generator, RBQPUSH, and the alias unit's draws (14
R365 to R367).
-/

namespace Sys2Proof.Machine

/-! ## Philox4x32-10 (12 R313); the generator's constants are those of its publication (log 29) -/

structure Quad where
  (a b c d : Nat)
  deriving DecidableEq, Repr
def philoxRound (x : Quad) (k0 k1 : Nat) : Quad :=
  let p := 0xD2511F53 * x.a
  let q := 0xCD9E8D57 * x.c
  ⟨(q / 2 ^ 32) ^^^ x.b ^^^ k0, q % 2 ^ 32, (p / 2 ^ 32) ^^^ x.d ^^^ k1, p % 2 ^ 32⟩
def philoxRounds : Nat → Quad → Nat → Nat → Quad
  | 0, x, _, _ => x
  | n + 1, x, k0, k1 => philoxRounds n (philoxRound x k0 k1) ((k0 + 0x9E3779B9) % 2 ^ 32) ((k1 + 0xBB67AE85) % 2 ^ 32)
/-- The word of a counter under a key. -/
def philoxWord (key ctr : Word) : BitVec 1024 :=
  let c := ctr.toNat
  let k := key.toNat
  BitVec.ofNat 1024 ((List.range 8).foldl (fun n i =>
    let x := philoxRounds 10 ⟨c % 2 ^ 32, c / 2 ^ 32, i, 0⟩ (k % 2 ^ 32) (k / 2 ^ 32)
    n + (x.a + 2 ^ 32 * x.b + 2 ^ 64 * x.c + 2 ^ 96 * x.d) * 2 ^ (128 * i)) 0)

/-- The generator adds a word. -/
def rbqRoom (t : TState) : Bool := decide (t.rbq.length < 8) && t.rbq.all fun w => !w.pushed
/-- RBQ_GENERATE (12 R313) for the running core's task. -/
def execRbqGenerate (s : State) : Res1 :=
  .next (if s.k.task.isSome && s.k.loading.isNone && rbqRoom s.k.t then
      s.modT fun t => { t with rbq := t.rbq ++ [⟨philoxWord t.sys.rngkey t.sys.rngctr, false⟩], sys := { t.sys with rngctr := t.sys.rngctr + 1 } }
    else s)

/-- Room for a pushed word: the youngest generator word goes when the queue is full; none when all are pushed. -/
def makeRoom (l : List RWord) : Option (List RWord) :=
  if l.length < 8 then some l
  else match l.reverse.find? fun w => !w.pushed with
    | some w => some ((l.reverse.erase w).reverse)
    | none => none

/-- RBQPUSH (11 R287). -/
def execRbqpush (o : LPush) (s : State) : Res1 :=
  guarded o.g s (do
    let c := s.cR o.m.cap
    let va ← capCheck s c .rd (s.memOff o.m.idx o.m.imm 128) 128
    if va % 128 ≠ 0 then raise s 6 0 va
    else do
      let s0 := s
      let (s, ps) ← loadPieces s c va 128
      let xs ← xlatePieces s false false ps
      if !lsQuiet s.k then freeze s0
      else match readTagged s xs with
        | .error (.wait n) => freeze (s0.noted n)
        | .error (.cause n c d) => raise (s0.noted n) c d va
        | .ok (s1, bs, _) =>
          let q := if o.flush then s1.k.t.rbq.filter RWord.pushed else s1.k.t.rbq
          match makeRoom q with
          | none => raise1 s1 (s0.slotNo 1) 5
          | some q => .ok (s1.modT fun t => { t with rbq := q ++ [⟨BitVec.ofNat 1024 (bytesToNat bs), true⟩] }))

/-! ## The alias unit's draws -/

/-- The bundle that would issue now takes a word of the RBQ. -/
def vectorTakes (s : State) : Bool :=
  match execBundleIssue s with
  | .next t => decide (t.k.t.rbq.length < s.k.t.rbq.length)
  | _ => false

/-- SAMPLING_VARIANCE_CHECK (14 R365 to R367): the samples up to the next multiple of 64, with at most one word of the RBQ, then
the check. A vector slot that wants the word now takes it first (12 R314). -/
def execSamplingVarianceCheck (s : State) : Res1 :=
  match mrsRun s.k with
  | none => .next s
  | some (r, stol) =>
    let o := r.op
    if vectorTakes s then .next s
    else if peerBad s s.cur o.ra o.a || peerBad s s.cur o.rb o.b then .next (stopOp s r 10 9 0)
    else
      match s.k.mat.table with
      | none => .next (stopOp s r 12 0 0)
      | some (n, tab) =>
        if n ≠ o.a.len then .next (stopOp s r 12 1 0)
        else
          let x := o.sideA s s.cur
          let y := o.sideB s s.cur
          if x.filling o.k || y.filling o.k then .next s
          else
            let (q, r1) := sampleRun x y tab 64 (s.k.t.rbq.take 1) r
            let s := s.modK fun k => { k with t := { k.t with rbq := q ++ k.t.rbq.drop 1 }, mat := { k.mat with run := some r1 } }
            if r1.t % 64 ≠ 0 ∨ r1.t = r.t then .next s
            else
              let sumn : BitVec 32 := s.k.t.sys.svar.extractLsb' 32 32
              let (f, var) := varianceOf r1.acc r1.t sumn
              let stop := stopOf stol r1.t f var
              .next (s.modK fun k =>
                let y := { k.t.sys with svar := keepOld (~~~0xFFFF_FFFF#64) k.t.sys.svar (var.setWidth 64) }
                { k with t := { k.t with sys := putScnt y (stop.getD (y.scnt.extractLsb' 62 2).toNat) r1.t }
                         mat := { k.mat with run := some { r1 with stopped := stop.isSome } } })

end Sys2Proof.Machine
end

