-- ==== Sys2Proof/Machine/Dispatch.lean ====
section
/-!
DEFINITION. One arm per constructor of Instr, each one direct call of that instruction's meaning.
-/

namespace Sys2Proof.Machine

def exec (i : Instr) (s : State) : Host.Outcome State Fault Refusal :=
  match i with
  | .add o => Sys2Proof.Machine.execAdd o s
  | .addi o => Sys2Proof.Machine.execAddi o s
  | .sub o => Sys2Proof.Machine.execSub o s
  | .mul o => Sys2Proof.Machine.execMul o s
  | .mulh o => Sys2Proof.Machine.execMulh o s
  | .mulhn o => Sys2Proof.Machine.execMulhn o s
  | .div o => Sys2Proof.Machine.execDiv o s
  | .divn o => Sys2Proof.Machine.execDivn o s
  | .mod o => Sys2Proof.Machine.execMod o s
  | .modn o => Sys2Proof.Machine.execModn o s
  | .and o => Sys2Proof.Machine.execAnd o s
  | .or o => Sys2Proof.Machine.execOr o s
  | .xor o => Sys2Proof.Machine.execXor o s
  | .andn o => Sys2Proof.Machine.execAndn o s
  | .shl o => Sys2Proof.Machine.execShl o s
  | .shr o => Sys2Proof.Machine.execShr o s
  | .shra o => Sys2Proof.Machine.execShra o s
  | .rotl o => Sys2Proof.Machine.execRotl o s
  | .fshl o => Sys2Proof.Machine.execFshl o s
  | .fshr o => Sys2Proof.Machine.execFshr o s
  | .clz o => Sys2Proof.Machine.execClz o s
  | .ctz o => Sys2Proof.Machine.execCtz o s
  | .popc o => Sys2Proof.Machine.execPopc o s
  | .min o => Sys2Proof.Machine.execMin o s
  | .max o => Sys2Proof.Machine.execMax o s
  | .minn o => Sys2Proof.Machine.execMinn o s
  | .maxn o => Sys2Proof.Machine.execMaxn o s
  | .sext o => Sys2Proof.Machine.execSext o s
  | .zext o => Sys2Proof.Machine.execZext o s
  | .li o => Sys2Proof.Machine.execLi o s
  | .lih o => Sys2Proof.Machine.execLih o s
  | .mov o => Sys2Proof.Machine.execMov o s
  | .sel o => Sys2Proof.Machine.execSel o s
  | .cmpeq o => Sys2Proof.Machine.execCmpeq o s
  | .cmpne o => Sys2Proof.Machine.execCmpne o s
  | .cmplt o => Sys2Proof.Machine.execCmplt o s
  | .cmple o => Sys2Proof.Machine.execCmple o s
  | .cmpltn o => Sys2Proof.Machine.execCmpltn o s
  | .cmplen o => Sys2Proof.Machine.execCmplen o s
  | .sfadd o => Sys2Proof.Machine.execSfadd o s
  | .sfmul o => Sys2Proof.Machine.execSfmul o s
  | .sffma o => Sys2Proof.Machine.execSffma o s
  | .sfcvt o => Sys2Proof.Machine.execSfcvt o s
  | .sfcmp o => Sys2Proof.Machine.execSfcmp o s
  | .br o => Sys2Proof.Machine.execBr o s
  | .brc o => Sys2Proof.Machine.execBrc o s
  | .call o => Sys2Proof.Machine.execCall o s
  | .ret o => Sys2Proof.Machine.execRet o s
  | .jmpi o => Sys2Proof.Machine.execJmpi o s
  | .loop o => Sys2Proof.Machine.execLoop o s
  | .lbreak o => Sys2Proof.Machine.execLbreak o s
  | .lbreakDrain o => Sys2Proof.Machine.execLbreakDrain o s
  | .cnarrow o => Sys2Proof.Machine.execCnarrow o s
  | .cperm o => Sys2Proof.Machine.execCperm o s
  | .cgetb o => Sys2Proof.Machine.execCgetb o s
  | .cgetl o => Sys2Proof.Machine.execCgetl o s
  | .cgeth o => Sys2Proof.Machine.execCgeth o s
  | .ctest o => Sys2Proof.Machine.execCtest o s
  | .cmov o => Sys2Proof.Machine.execCmov o s
  | .mdsetWord o => Sys2Proof.Machine.execMdsetWord o s
  | .mdsetCap o => Sys2Proof.Machine.execMdsetCap o s
  | .cdsetWord o => Sys2Proof.Machine.execCdsetWord o s
  | .cdsetCap o => Sys2Proof.Machine.execCdsetCap o s
  | .trap o => Sys2Proof.Machine.execTrap o s
  | .rett o => Sys2Proof.Machine.execRett o s
  | .mfsr o => Sys2Proof.Machine.execMfsr o s
  | .mtsr o => Sys2Proof.Machine.execMtsr o s
  | .xsv o => Sys2Proof.Machine.execXsv o s
  | .xsvl o => Sys2Proof.Machine.execXsvl o s
  | .xsp o => Sys2Proof.Machine.execXsp o s
  | .xvs o => Sys2Proof.Machine.execXvs o s
  | .xps o => Sys2Proof.Machine.execXps o s
  | .xpsAny o => Sys2Proof.Machine.execXpsAny o s
  | .ldI8 o => Sys2Proof.Machine.execLdI8 o s
  | .ldN8 o => Sys2Proof.Machine.execLdN8 o s
  | .ldI16 o => Sys2Proof.Machine.execLdI16 o s
  | .ldN16 o => Sys2Proof.Machine.execLdN16 o s
  | .ldI32 o => Sys2Proof.Machine.execLdI32 o s
  | .ldN32 o => Sys2Proof.Machine.execLdN32 o s
  | .ldI64 o => Sys2Proof.Machine.execLdI64 o s
  | .stI8 o => Sys2Proof.Machine.execStI8 o s
  | .stI16 o => Sys2Proof.Machine.execStI16 o s
  | .stI32 o => Sys2Proof.Machine.execStI32 o s
  | .stI64 o => Sys2Proof.Machine.execStI64 o s
  | .ldv o => Sys2Proof.Machine.execLdv o s
  | .ldvCvt o => Sys2Proof.Machine.execLdvCvt o s
  | .stv o => Sys2Proof.Machine.execStv o s
  | .stvCvt o => Sys2Proof.Machine.execStvCvt o s
  | .ldvu o => Sys2Proof.Machine.execLdvu o s
  | .stvm o => Sys2Proof.Machine.execStvm o s
  | .cld o => Sys2Proof.Machine.execCld o s
  | .cst o => Sys2Proof.Machine.execCst o s
  | .ldblk o => Sys2Proof.Machine.execLdblk o s
  | .blkrel o => Sys2Proof.Machine.execBlkrel o s
  | .blkwait o => Sys2Proof.Machine.execBlkwait o s
  | .pref o => Sys2Proof.Machine.execPref o s
  | .probeLookup o => Sys2Proof.Machine.execProbeLookup o s
  | .probePin o => Sys2Proof.Machine.execProbePin o s
  | .probeUnpin o => Sys2Proof.Machine.execProbeUnpin o s
  | .amoaddI32 o => Sys2Proof.Machine.execAmoaddI32 o s
  | .amoaddI64 o => Sys2Proof.Machine.execAmoaddI64 o s
  | .amominI32 o => Sys2Proof.Machine.execAmominI32 o s
  | .amominI64 o => Sys2Proof.Machine.execAmominI64 o s
  | .amomaxI32 o => Sys2Proof.Machine.execAmomaxI32 o s
  | .amomaxI64 o => Sys2Proof.Machine.execAmomaxI64 o s
  | .amominnI32 o => Sys2Proof.Machine.execAmominnI32 o s
  | .amominnI64 o => Sys2Proof.Machine.execAmominnI64 o s
  | .amomaxnI32 o => Sys2Proof.Machine.execAmomaxnI32 o s
  | .amomaxnI64 o => Sys2Proof.Machine.execAmomaxnI64 o s
  | .amoandI32 o => Sys2Proof.Machine.execAmoandI32 o s
  | .amoandI64 o => Sys2Proof.Machine.execAmoandI64 o s
  | .amoorI32 o => Sys2Proof.Machine.execAmoorI32 o s
  | .amoorI64 o => Sys2Proof.Machine.execAmoorI64 o s
  | .amoxorI32 o => Sys2Proof.Machine.execAmoxorI32 o s
  | .amoxorI64 o => Sys2Proof.Machine.execAmoxorI64 o s
  | .amoswpI32 o => Sys2Proof.Machine.execAmoswpI32 o s
  | .amoswpI64 o => Sys2Proof.Machine.execAmoswpI64 o s
  | .amocasI32 o => Sys2Proof.Machine.execAmocasI32 o s
  | .amocasI64 o => Sys2Proof.Machine.execAmocasI64 o s
  | .amofaddF32 o => Sys2Proof.Machine.execAmofaddF32 o s
  | .amobaddI32 o => Sys2Proof.Machine.execAmobaddI32 o s
  | .amobaddI64 o => Sys2Proof.Machine.execAmobaddI64 o s
  | .pfence o => Sys2Proof.Machine.execPfence o s
  | .actset o => Sys2Proof.Machine.execActset o s
  | .actclr o => Sys2Proof.Machine.execActclr o s
  | .tlbinvRng o => Sys2Proof.Machine.execTlbinvRng o s
  | .tlbinvAsid o => Sys2Proof.Machine.execTlbinvAsid o s
  | .tlbinvAll o => Sys2Proof.Machine.execTlbinvAll o s
  | .tlbinvAgentRequest a => Sys2Proof.Machine.execTlbinvAgentRequest a s
  | .tlbinvAgentAck a => Sys2Proof.Machine.execTlbinvAgentAck a s
  | .waitev o => Sys2Proof.Machine.execWaitev o s
  | .signal o => Sys2Proof.Machine.execSignal o s
  | .evinit o => Sys2Proof.Machine.execEvinit o s
  | .evquery o => Sys2Proof.Machine.execEvquery o s
  | .launch o => Sys2Proof.Machine.execLaunch o s
  | .taskend o => Sys2Proof.Machine.execTaskend o s
  | .govtick o => Sys2Proof.Machine.execGovtick o s
  | .rescale o => Sys2Proof.Machine.execRescale o s
  | .stepbegin o => Sys2Proof.Machine.execStepbegin o s
  | .stepcommit o => Sys2Proof.Machine.execStepcommit o s
  | .stepabort o => Sys2Proof.Machine.execStepabort o s
  | .rbqpush o => Sys2Proof.Machine.execRbqpush o s
  | .vadd o => Sys2Proof.Machine.execVadd o s
  | .vsub o => Sys2Proof.Machine.execVsub o s
  | .vmul o => Sys2Proof.Machine.execVmul o s
  | .vfma o => Sys2Proof.Machine.execVfma o s
  | .vfms o => Sys2Proof.Machine.execVfms o s
  | .vfnma o => Sys2Proof.Machine.execVfnma o s
  | .vmin o => Sys2Proof.Machine.execVmin o s
  | .vmax o => Sys2Proof.Machine.execVmax o s
  | .vabs o => Sys2Proof.Machine.execVabs o s
  | .vneg o => Sys2Proof.Machine.execVneg o s
  | .vrcp o => Sys2Proof.Machine.execVrcp o s
  | .vrsqrt o => Sys2Proof.Machine.execVrsqrt o s
  | .vsqrt o => Sys2Proof.Machine.execVsqrt o s
  | .vexp2 o => Sys2Proof.Machine.execVexp2 o s
  | .vlog2 o => Sys2Proof.Machine.execVlog2 o s
  | .vsin o => Sys2Proof.Machine.execVsin o s
  | .vcos o => Sys2Proof.Machine.execVcos o s
  | .viadd o => Sys2Proof.Machine.execViadd o s
  | .visub o => Sys2Proof.Machine.execVisub o s
  | .vimul o => Sys2Proof.Machine.execVimul o s
  | .vimulh o => Sys2Proof.Machine.execVimulh o s
  | .vimin o => Sys2Proof.Machine.execVimin o s
  | .vimax o => Sys2Proof.Machine.execVimax o s
  | .vand o => Sys2Proof.Machine.execVand o s
  | .vor o => Sys2Proof.Machine.execVor o s
  | .vxor o => Sys2Proof.Machine.execVxor o s
  | .vandn o => Sys2Proof.Machine.execVandn o s
  | .vshl o => Sys2Proof.Machine.execVshl o s
  | .vshr o => Sys2Proof.Machine.execVshr o s
  | .vshra o => Sys2Proof.Machine.execVshra o s
  | .vfshl o => Sys2Proof.Machine.execVfshl o s
  | .vfshr o => Sys2Proof.Machine.execVfshr o s
  | .vclz o => Sys2Proof.Machine.execVclz o s
  | .vctz o => Sys2Proof.Machine.execVctz o s
  | .vpopc o => Sys2Proof.Machine.execVpopc o s
  | .vcmp o => Sys2Proof.Machine.execVcmp o s
  | .vsel o => Sys2Proof.Machine.execVsel o s
  | .vgmax o => Sys2Proof.Machine.execVgmax o s
  | .vgmin o => Sys2Proof.Machine.execVgmin o s
  | .vgsum o => Sys2Proof.Machine.execVgsum o s
  | .vperm o => Sys2Proof.Machine.execVperm o s
  | .vbcastl o => Sys2Proof.Machine.execVbcastl o s
  | .vxsec o => Sys2Proof.Machine.execVxsec o s
  | .vldb o => Sys2Proof.Machine.execVldb o s
  | .vstb o => Sys2Proof.Machine.execVstb o s
  | .vstbm o => Sys2Proof.Machine.execVstbm o s
  | .vcvt o => Sys2Proof.Machine.execVcvt o s
  | .vmaxexp o => Sys2Proof.Machine.execVmaxexp o s
  | .vqps2 o => Sys2Proof.Machine.execVqps2 o s
  | .vpack o => Sys2Proof.Machine.execVpack o s
  | .vunpack o => Sys2Proof.Machine.execVunpack o s
  | .vtget o => Sys2Proof.Machine.execVtget o s
  | .vtset o => Sys2Proof.Machine.execVtset o s
  | .vtzero o => Sys2Proof.Machine.execVtzero o s
  | .mma o => Sys2Proof.Machine.execMma o s
  | .mmaz o => Sys2Proof.Machine.execMmaz o s
  | .mrs o => Sys2Proof.Machine.execMrs o s
  | .malias o => Sys2Proof.Machine.execMalias o s
  | .mnorm o => Sys2Proof.Machine.execMnorm o s
  | .mfro o => Sys2Proof.Machine.execMfro o s
  | .mscale o => Sys2Proof.Machine.execMscale o s
  | .mzero o => Sys2Proof.Machine.execMzero o s
  | .mtwait o => Sys2Proof.Machine.execMtwait o s
  | .cpy o => Sys2Proof.Machine.execCpy o s
  | .cpys o => Sys2Proof.Machine.execCpys o s
  | .qclose o => Sys2Proof.Machine.execQclose o s
  | .cpyw o => Sys2Proof.Machine.execCpyw o s
  | .gather o => Sys2Proof.Machine.execGather o s
  | .scatter o => Sys2Proof.Machine.execScatter o s
  | .coll o => Sys2Proof.Machine.execColl o s
  | .collw o => Sys2Proof.Machine.execCollw o s
  | .lorelleFrameReceive fr => Sys2Proof.Machine.execLorelleFrameReceive fr s
  | .groupFaultDetect g r => Sys2Proof.Machine.execGroupFaultDetect g r s
  | .lsHomeRequest line own => Sys2Proof.Machine.execLsHomeRequest line own s
  | .pseudoChannelExit piece line write => Sys2Proof.Machine.execPseudoChannelExit piece line write s
  | .hbmCommandIssue bus => Sys2Proof.Machine.execHbmCommandIssue bus s
  | .uncorrectableError at_ => Sys2Proof.Machine.execUncorrectableError at_ s
  | .edgeFailure e => Sys2Proof.Machine.execEdgeFailure e s
  | .islandStateChange st => Sys2Proof.Machine.execIslandStateChange st s
  | .doorbell v => Sys2Proof.Machine.execDoorbell v s
  | .resume token => Sys2Proof.Machine.execResume token s
  | .prmpt mask => Sys2Proof.Machine.execPrmpt mask s
  | .dbghalt mask => Sys2Proof.Machine.execDbghalt mask s
  | .hostCxlMemAccess r => Sys2Proof.Machine.execHostCxlMemAccess r s
  | .mmioRegisterWrite w => Sys2Proof.Machine.execMmioRegisterWrite w s
  | .moncfgClr v => Sys2Proof.Machine.execMoncfgClr v s
  | .monitorSample src no v => Sys2Proof.Machine.execMonitorSample src no v s
  | .pstate req => Sys2Proof.Machine.execPstate req s
  | .thermalPowerThrottle watts celsius => Sys2Proof.Machine.execThermalPowerThrottle watts celsius s
  | .thermalLowestStep celsius => Sys2Proof.Machine.execThermalLowestStep celsius s
  | .thermalReset celsius => Sys2Proof.Machine.execThermalReset celsius s
  | .dieBoot image sig key svn readable => Sys2Proof.Machine.execDieBoot image sig key svn readable s
  | .challenge nonce => Sys2Proof.Machine.execChallenge nonce s
  | .getMeasurements index => Sys2Proof.Machine.execGetMeasurements index s
  | .spdmUnsupportedRequest code => Sys2Proof.Machine.execSpdmUnsupportedRequest code s
  | .coreDomainStateChange st => Sys2Proof.Machine.execCoreDomainStateChange st s
  | .lorellePortTraining up => Sys2Proof.Machine.execLorellePortTraining up s
  | .throttlingEnds watts celsius => Sys2Proof.Machine.execThrottlingEnds watts celsius s
  | .bundleIssue => Sys2Proof.Machine.execBundleIssue s
  | .resultLanding => Sys2Proof.Machine.execResultLanding s
  | .loadValueArrival => Sys2Proof.Machine.execLoadValueArrival s
  | .atomicAtHome => Sys2Proof.Machine.execAtomicAtHome s
  | .atomicResponseArrival => Sys2Proof.Machine.execAtomicResponseArrival s
  | .tlbinvComplete => Sys2Proof.Machine.execTlbinvComplete s
  | .waitevSpinLimit => Sys2Proof.Machine.execWaitevSpinLimit s
  | .taskCompletion => Sys2Proof.Machine.execTaskCompletion s
  | .rbqGenerate => Sys2Proof.Machine.execRbqGenerate s
  | .matrixOpStart => Sys2Proof.Machine.execMatrixOpStart s
  | .matrixOpComplete => Sys2Proof.Machine.execMatrixOpComplete s
  | .samplingVarianceCheck => Sys2Proof.Machine.execSamplingVarianceCheck s
  | .matrixDeferredFault => Sys2Proof.Machine.execMatrixDeferredFault s
  | .cpywLimitExpiry => Sys2Proof.Machine.execCpywLimitExpiry s
  | .writeQueueDrain => Sys2Proof.Machine.execWriteQueueDrain s
  | .ptsTick => Sys2Proof.Machine.execPtsTick s
  | .statsFlushReply => Sys2Proof.Machine.execStatsFlushReply s
  | .taskLoading => Sys2Proof.Machine.execTaskLoading s
  | .preemptAtQBundle => Sys2Proof.Machine.execPreemptAtQBundle s
  | .preemptAtLoopPass => Sys2Proof.Machine.execPreemptAtLoopPass s
  | .switchIn => Sys2Proof.Machine.execSwitchIn s
  | .trapEntry => Sys2Proof.Machine.execTrapEntry s
  | .gridFatalFault => Sys2Proof.Machine.execGridFatalFault s
  | .preboundExceeded => Sys2Proof.Machine.execPreboundExceeded s
  | .watchdogExpiry => Sys2Proof.Machine.execWatchdogExpiry s
  | .gvUpdateAtHome => Sys2Proof.Machine.execGvUpdateAtHome s
  | .activationUpdateApply => Sys2Proof.Machine.execActivationUpdateApply s
  | .pageWalk => Sys2Proof.Machine.execPageWalk s
  | .tickGovern => Sys2Proof.Machine.execTickGovern s
  | .stepStateRewrite => Sys2Proof.Machine.execStepStateRewrite s
  | .pullBackgroundLine => Sys2Proof.Machine.execPullBackgroundLine s
  | .patrolScrub => Sys2Proof.Machine.execPatrolScrub s
  | .dispatch => Sys2Proof.Machine.execDispatch s
  | .ageingPromotion => Sys2Proof.Machine.execAgeingPromotion s
  | .taskSteal => Sys2Proof.Machine.execTaskSteal s
  | .flpop => Sys2Proof.Machine.execFlpop s
  | .getVersion => Sys2Proof.Machine.execGetVersion s
  | .getCapabilities => Sys2Proof.Machine.execGetCapabilities s
  | .negotiateAlgorithms => Sys2Proof.Machine.execNegotiateAlgorithms s
  | .getDigests => Sys2Proof.Machine.execGetDigests s
  | .getCertificate => Sys2Proof.Machine.execGetCertificate s
  | .voltageSettled => Sys2Proof.Machine.execVoltageSettled s
  | .powerLossNotice => Sys2Proof.Machine.execPowerLossNotice s
  | .ldblkFillDone => Sys2Proof.Machine.execLdblkFillDone s
  | .ldblkFillFail => Sys2Proof.Machine.execLdblkFillFail s
  | .frameFillDone => Sys2Proof.Machine.execFrameFillDone s
  | .frameFillFault => Sys2Proof.Machine.execFrameFillFault s
  | .copyComplete => Sys2Proof.Machine.execCopyComplete s
  | .streamRowTransfer => Sys2Proof.Machine.execStreamRowTransfer s
  | .collectiveComplete => Sys2Proof.Machine.execCollectiveComplete s
  | .pullComplete => Sys2Proof.Machine.execPullComplete s
  | .pullRegister => Sys2Proof.Machine.execPullRegister s
  | .pullStart => Sys2Proof.Machine.execPullStart s
  | .pullCancel => Sys2Proof.Machine.execPullCancel s
  | .pullFirstTouch => Sys2Proof.Machine.execPullFirstTouch s
  | .pullSourceFailure => Sys2Proof.Machine.execPullSourceFailure s
  | .pseudoChannelPowerDown => Sys2Proof.Machine.execPseudoChannelPowerDown s
  | .pseudoChannelSelfRefresh => Sys2Proof.Machine.execPseudoChannelSelfRefresh s
  | .queuePacketRead => Sys2Proof.Machine.execQueuePacketRead s
  | .queueSwitchIn => Sys2Proof.Machine.execQueueSwitchIn s
  | .queueSwitchOut => Sys2Proof.Machine.execQueueSwitchOut s
  | .gridComplete => Sys2Proof.Machine.execGridComplete s
  | .activationGenerationSwap => Sys2Proof.Machine.execActivationGenerationSwap s
  | .tickComplete => Sys2Proof.Machine.execTickComplete s
  | .dieCacheEviction => Sys2Proof.Machine.execDieCacheEviction s
  | .hostSnoop => Sys2Proof.Machine.execHostSnoop s
  | .backInvalidateResponse => Sys2Proof.Machine.execBackInvalidateResponse s
  | .statsFlush => Sys2Proof.Machine.execStatsFlush s
  | .lorellePortRemoval => Sys2Proof.Machine.execLorellePortRemoval s
  | .groupFaultNotification => Sys2Proof.Machine.execGroupFaultNotification s
  | .hbmRefresh => Sys2Proof.Machine.execHbmRefresh s
  | .interruptMessage => Sys2Proof.Machine.execInterruptMessage s
  | .progress => Sys2Proof.Machine.execProgress s

end Sys2Proof.Machine
end

