-- ==== Sys2Proof/Machine/Run.lean ====
section
/-!
DEFINITION. The bundle in flight: its slots commit one by one, then its repetition, its transfer and its empty issue cycles
follow (spec 10 R231, R241, R244, R248; 08 R196).
-/

namespace Sys2Proof.Machine

/-- Empty issue cycles. -/
def emptyCycles : Nat → TState → TState
  | 0, t => t
  | n + 1, t => emptyCycles n (countDown (landDue t))

/-- The end of a bundle: another repetition of it, or PC goes to the transfer's target or to the next unit. A bundle
that lowered DUALCTL.K clears the shadows its own later slots left pending (15 R373). -/
def endBundle (t : TState) (f : Inflight) : TState :=
  let t := { t with fl := none }
  let t := if kOf t.sys < kOf f.sys then clearShadows (kOf t.sys) t else t
  if f.rep ≠ 0 then countDown { t with rep := some (f.rep - 1) }
  else emptyCycles f.stall (countDown (arrive { t with rep := none } f.unit (f.btgt.getD f.next)))

/-- Commits the slots of the bundle in flight on the running core, until one freezes, traps or stops. -/
def runSlots : Nat → State → Res1
  | 0, s => .next s
  | n + 1, s =>
    if s.k.frozen || s.k.t.fatal.isSome || s.k.trap.isSome then .next s
    else match s.k.t.fl with
      | none => .next s
      | some f => match f.todo with
        | [] => .next (s.modT fun t => endBundle t f)
        | (k, d) :: _ =>
          let s1 := s.modT fun t => { t with fl := some { f with slot := k } }
          match (match d with
                 | .run i =>
                   if checkFails f.sys (s1.k.t.land.take f.older) (running (f.todo.filter fun x => x.1 == k) |>.map Prod.snd) then
                     finish (.error (.flt s1 false ⟨2, k, 0, 0⟩))
                   else exec i s1
                 | .bad x => finish (.error (.flt s1 false x))) with
          | .next s2 => runSlots n s2
          | r => r

/-- A line has come into the L1, or a lease of it. -/
def fetched (k k' : Core) : Bool := k'.l1.any fun x => !(k.l1.any fun y => y.line == x.line && y.lend == x.lend)
/-- Latencies the monitors sample when an action has ended what it timed (18 Table 18.2): a load of a core
that missed and has its value, an operation of an engine, a TLBINV, a collective. -/
def watched (a : Act) (s t : State) : State :=
  let c := a.core
  match a.instr with
  | .loadValueArrival => match allLoads (s.core c) with
    | l :: _ =>
      let came := decide ((allLoads (t.core c)).length < (allLoads (s.core c)).length) && (t.core c).t.pend == (s.core c).t.pend
      if came && (l.miss || fetched (s.core c) (t.core c)) then heard t (coreDie c) 1 (coreLocal c) (t.now - l.since) else t
    | [] => t
  | .copyComplete | .streamRowTransfer | .frameFillDone | .frameFillFault =>
    match getOp s a.unit a.item with
    | some (e, o) => if (t.engine e).length < (s.engine e).length then heard t (engineDie e) 3 (e.val % 6) (t.now - o.since) else t
    | none => t
  | .tlbinvComplete => match (s.core c).tlbinv with
    | some t0 => if (t.core c).tlbinv.isNone then heard t (coreDie c) 6 (coreLocal c) (t.now - t0) else t
    | none => t
  | .collectiveComplete => match (s.die a.die).coll[a.item]? with
    | some o => if (t.die a.die).coll.length < (s.die a.die).coll.length then heard t a.die 7 0 (t.now - o.since) else t
    | none => t
  | _ => t

def isIssue : Instr → Bool
  | .bundleIssue => true
  | _ => false
/-- Performs an action, which the monitors watch. A BUNDLE_ISSUE goes on to the slots of its bundle. -/
def act (a : Act) (s : State) : Res1 :=
  match exec a.instr { s with cur := a.core, dsel := a.die, unit := a.unit, item := a.item } with
  | .next t => if isIssue a.instr then runSlots 24 t else .next (watched a s t)
  | r => r

end Sys2Proof.Machine
end

