-- ==== Sys2Proof/Machine/Policy.lean ====
section
/-!
DEFINITION. Which action comes next where none is placed, and the clock (log 3, 4). The units are the 144 cores, the four
dies, the 24 engines and the actions that wait; they act in turn, and a round of them is one cycle.
-/

namespace Sys2Proof.Machine

def when_ (b : Bool) (a : Act) : List Act := if b then [a] else []

/-! ## Frequency steps (18 R441, R442, Table 18.4) -/

/-- The core clock of a step, in units of 0.05 GHz; the reference of 1.05 GHz is 21. -/
def stepRate (cur : BitVec 2) : Nat := match cur.toNat with | 0 => 21 | 1 => 18 | 2 => 15 | _ => 10
/-- The core clock of a die, with its die cache and fabric, has a cycle that ends in this round, which is a period of the
reference (log 4). -/
def Die.clocked (x : Die) : Bool := decide (21 ≤ x.phase + stepRate x.pstateCur)
def Die.advance (x : Die) : Die :=
  { x with phase := (x.phase + stepRate x.pstateCur) % 21, cycles := if x.clocked then x.cycles + 1 else x.cycles }

/-! ## What a core can do -/

def ownsLine (k : Core) (line : Nat) : Bool := match findL1 k line with | some l => l.owned | none => false
/-- A line is not asked for while its owner has it for its oldest stores and only they are left to perform, or lacks other
lines of theirs and has the lower number, so that of two cores one always goes on (log 3). -/
def heldBack (s : State) (c : CoreId) (line : Nat) : Bool :=
  match (lineSt s line).owner with
  | none => false
  | some o =>
    let k := s.core o
    let g := headGroup k
    o != c && (s.die (coreDie o)).dom == .running && g.any (fun x => x.line == line) && (allLoads k).all (fun l => l.older != 0)
      && (decide (o.val < c.val) || g.all fun x => ownsLine k x.line)

/-- The way on for the oldest load (07 R164). -/
def loadActs (s : State) (c : CoreId) (at_ : Instr → Act) : List Act :=
  let k := s.core c
  match allLoads k with
  | [] => []
  | l :: _ =>
    if l.cvt.isSome then when_ (l.older == 0) (at_ .loadValueArrival)
    else if (forwardOf k l).isSome then [at_ .loadValueArrival]
    else if l.older ≠ 0 then []
    else match l.segs with
      | [] => [at_ .loadValueArrival]
      | (pa, n) :: _ =>
        match target pa with
        | .mmio .. => [at_ .loadValueArrival]
        | _ => if Sparse.get false s.poison (pa / 128) || (l1Read s c pa n).isSome then [at_ .loadValueArrival]
               else when_ (!heldBack s c (pa / 128)) (at_ (.lsHomeRequest (pa / 128) false))
/-- The way on for the oldest store. -/
def storeActs (s : State) (c : CoreId) (at_ : Instr → Act) : List Act :=
  let k := s.core c
  match k.wq with
  | [] => []
  | e :: _ =>
    match target (e.line * 128) with
    | .mmio .. => [at_ .writeQueueDrain]
    | _ => match (headGroup k).find? fun x => !ownsLine k x.line with
      | some x => when_ (!heldBack s c x.line) (at_ (.lsHomeRequest x.line true))
      | none => [at_ .writeQueueDrain]
/-- A flush of the core's statistics is wanted: an eviction, a count that has reached 2^31, a tick of an entry's context, a
task that leaves (03 R77), or a context that the core no longer runs, whose copies have stored (13 R339). -/
def flushWanted (s : State) (k : Core) : Bool :=
  (nextFlush k).isSome && (k.preempt || k.parking != .no || k.stats.any fun e =>
    (e.evict && e.reply.isNone) || e.heavy || (!e.clean && (s.ticks.any (fun x => !x.done && x.ctx.asid == e.ctx.asid)
      || match k.task with | some t => t.ctx.asid != e.ctx.asid | none => true)))
/-- Flushes and their replies. -/
def statActs (s : State) (k : Core) (at_ : Instr → Act) : List Act :=
  when_ (k.stats.any fun e => e.reply.isSome) (at_ .statsFlushReply) ++ when_ (flushWanted s k) (at_ .statsFlush)
def matActs (_s : State) (k : Core) (at_ : Instr → Act) : List Act :=
  match k.mat.run with
  | none => when_ (!k.mat.queue.isEmpty) (at_ .matrixOpStart)
  | some r =>
    if r.fault.isSome then [at_ .matrixDeferredFault]
    else if (mrsRun k).isSome then [at_ .samplingVarianceCheck]
    else [at_ .matrixOpComplete]
/-- Blocks that fill. -/
def blockActs (k : Core) (at_ : Instr → Nat → Act) : List Act :=
  (k.blocks.filter fun b => !b.unit && (getFlag k.t b.flag).state == 1#2).flatMap fun b =>
    [at_ .ldblkFillDone b.flag.toNat, at_ .ldblkFillFail b.flag.toNat]
def invActs (s : State) (c : CoreId) (at_ : Instr → Act) : List Act :=
  match s.invs.find? fun i => i.core == c with
  | none => []
  | some i => match i.toReach, i.waiting with
    | a :: _, _ => [at_ (.tlbinvAgentRequest a)]
    | [], w => (w.filter (agentQuiet s c)).map (fun a => at_ (.tlbinvAgentAck a)) ++ when_ w.isEmpty (at_ .tlbinvComplete)
/-- Throttling sequencers skip seven issue cycles of eight (18 R442; log 33). -/
def Die.skips (x : Die) : Bool := x.throttle && x.cycles % 8 != 0
def skipsIssue (s : State) (c : CoreId) : Bool := (s.die (coreDie c)).skips
/-- The bound is exceeded and its fault does not wait already (16 R410). -/
def preboundDue (k : Core) : Bool :=
  let b := (k.t.sys.prebound.extractLsb' 0 32).toNat
  b != 0 && decide (b < k.t.pbcnt) && k.preempt && !trapMode k && k.t.pend.all fun p => p.f.cls != 16

def coreActs (s : State) (c : CoreId) : List Act :=
  let k := s.core c
  let d := coreDie c
  let at_ : Instr → Act := fun i => ⟨c, d, 0, 0, i⟩
  let atU : Instr → Nat → Act := fun i u => ⟨c, d, u, 0, i⟩
  if (s.die d).dom != .running || !(s.die d).clocked then []
  else match k.task, k.loading with
  | _, some none => [at_ .taskLoading]
  | _, some (some _) => [at_ .switchIn]
  | none, none => storeActs s c at_ ++ statActs s k at_
  | some _, none =>
    if k.t.fatal.isSome then [at_ .gridFatalFault] ++ storeActs s c at_
    -- class 21 waits for nothing (16 R412)
    else if watchdogDue k then [at_ .watchdogExpiry]
    -- a task that has only to signal and go does so in its core's turn (09 R218)
    else if k.t.completing.isSome && k.t.fl.isNone && (match k.task with | some t => taskQuiet s c t.uid | none => false) then [at_ .taskCompletion]
    else
      let halted := stopsHere s c && k.t.fl.isNone
      when_ (canRun s c && !halted && !skipsIssue s c) (at_ .bundleIssue)
      ++ when_ k.trap.isSome (at_ .trapEntry)
      ++ (match k.atom with
          | some a => [at_ (if a.phase == .sent && (applied? s (atomHome s c a) c a.tx).isNone then .atomicAtHome else .atomicResponseArrival)]
          | none => [])
      ++ loadActs s c at_ ++ storeActs s c at_
      ++ statActs s k at_
      ++ when_ (s.gv.any fun g => g.core == c && !g.done) (at_ .gvUpdateAtHome)
      ++ matActs s k at_ ++ blockActs k atU ++ invActs s c at_
      ++ when_ (k.t.completing.isSome && k.t.fl.isNone) (at_ .taskCompletion)
      ++ when_ (k.preempt && k.t.fl.isNone && !halted) (at_ .preemptAtQBundle)
      ++ when_ (k.preempt && k.t.fl.isNone && !halted) (at_ .preemptAtLoopPass)
      ++ when_ (preboundDue k) (at_ .preboundExceeded)
      ++ when_ (match frozenWaitev k with | some (_, t) => decide (t + spinLimit k ≤ s.now) | none => false) (at_ .waitevSpinLimit)
      ++ when_ (waitOver s k).isSome (at_ .cpywLimitExpiry)

/-! ## What a die can do -/

def queueActs (s : State) (d : DieId) : List Act :=
  let x := s.die d
  let at_ : Instr → Nat → Act := fun i n => ⟨0, d, 0, n, i⟩
  when_ (!x.pendq.isEmpty && (slotFree x || (victimSlot s d).isSome)) (at_ .queueSwitchIn 0)
  ++ x.qslots.filterMap fun o => match o with
      | some y => if !y.stopped && y.tail != y.head then some (at_ .queuePacketRead y.q) else none
      | none => none
def gridActs (s : State) (d : DieId) : List Act :=
  (s.grids.filter fun g => g.qdie == d).flatMap fun g =>
    when_ (g.finished s) ⟨0, d, 0, g.gid, .gridComplete⟩
    ++ when_ (match g.listLevel with | some l => g.startable s && !listBusy s g l.listn | none => false) ⟨0, d, 0, g.gid, .activationGenerationSwap⟩
/-- Dispatch runs every 4 cycles of the die, a steal every 64 (09 R216, R220; 18 R442). -/
def readyActs (s : State) (d : DieId) : List Act :=
  let x := s.die d
  let at_ : Instr → Act := fun i => ⟨0, d, 0, 0, i⟩
  let idle := (dieCores d).any fun c => idleCore (s.core c)
  when_ (x.cycles % 4 == 0 && match headEntry s d fun e => e.die == d with
    | some e => (idle && placeable s e) || (!idle && e.level == 11 && x.preReq.isNone && (preemptVictim s d).isSome)
    | none => false) (at_ .dispatch)
  ++ when_ (x.cycles % 64 == 0 && idle && readyCount s d == 0 && (match stealFrom s d with | some v => (match headEntry s v (migratable s) with | some e => placeable s e | none => false) | none => false)) (at_ .taskSteal)
/-- The cycle ends an ageing interval of the die (09 R217). -/
def ageingDue (s : State) (d : DieId) : Bool :=
  let x := s.die d
  x.dom == .running && s.now % ageInterval x == 0 && x.ready.any fun e => decide (e.level < 10) && decide (e.since + ageInterval x ≤ s.now)
def tickActs (s : State) (d : DieId) : List Act :=
  s.ticks.zipIdx.flatMap fun y =>
    let i := y.2
    let t := y.1
    let at_ : Instr → Act := fun x => ⟨t.core, d, i, 0, x⟩
    let flushed := flushedAll s t.ctx.asid
    let marked := t.committed.isSome
    if !activeTick s i then []
    else if t.kind != 0 && !t.rewritten.contains d then when_ (marked || flushed) (at_ .stepStateRewrite)
    else if !t.governed.contains d then
      when_ (if t.kind = 0 then !t.governed.isEmpty || flushed else allDies.all fun d => t.rewritten.contains d) (at_ .tickGovern)
    else when_ (allDies.all fun d => t.governed.contains d) (at_ .tickComplete)
def collActs (s : State) (d : DieId) : List Act :=
  ((s.die d).coll.zipIdx.filterMap fun y =>
    let o := y.1
    let come : List Sys2Proof.Frame := match groupSt s d o.desc.group with | some g => g.frames.filter (fun f => f.seq == o.seq) | none => []
    let all := match groupEnt s d o.desc.group, o.mine with
      | .ok (_, some g), some _ => decide (g.p ≤ come.length + 1)
      | _, _ => false
    if o.fault.isSome || o.mine.isNone || all then some ⟨o.core, d, 0, y.2, .collectiveComplete⟩ else none)
  ++ (List.range (s.die d).gtcnt.toNat).filterMap fun g => (groupDue s d g).map fun r => ⟨0, d, 0, 0, .groupFaultDetect g r⟩
def hbmActs (s : State) (d : DieId) : List Act :=
  let pc := s.now % 192
  let x := getPc s d pc
  when_ (wantsPd s d x) ⟨0, d, pc, 0, .pseudoChannelPowerDown⟩
  ++ when_ (wantsSr s d x) ⟨0, d, pc, 0, .pseudoChannelSelfRefresh⟩
  -- a refresh of one bank of each pseudo-channel every 3,072 cycles (log 30)
  ++ when_ (s.now / 192 % 16 == 0 && x.power != .selfRefresh) ⟨0, d, pc, s.now / 3072 % 64, .hbmRefresh⟩
  ++ s.pchans.flatMap fun y =>
    if y.1 / 192 = d.val then
      when_ (readyCmd s y.2 false).isSome ⟨0, d, y.1 % 192 / 2, 0, .hbmCommandIssue .row⟩
      ++ when_ (readyCmd s y.2 true).isSome ⟨0, d, y.1 % 192 / 2, 0, .hbmCommandIssue .col⟩
    else []
def islandActs (s : State) (d : DieId) : List Act :=
  let x := s.die d
  let at_ : Instr → Nat → Act := fun i n => ⟨0, d, 0, n, i⟩
  when_ (pullTurn x).isSome (at_ .pullBackgroundLine 0)
  ++ (List.finRange 64).flatMap (fun n => when_ (pullComplete (x.pulls.get n)) (at_ .pullComplete n.val))
  ++ when_ (x.scrub != 0 && s.now % max 1 (x.scrub.toNat / 1610612736) == 0 && s.now != 0) (at_ .patrolScrub 0)
  ++ hbmActs s d
def dieActs (s : State) (d : DieId) : List Act :=
  let x := s.die d
  let at_ : Instr → Act := fun i => ⟨0, d, 0, 0, i⟩
  let rest : List Act :=
    when_ (msiDue x != 0) (at_ .interruptMessage) ++ (if x.isl = .active then islandActs s d else [])
    ++ tickActs s d
    ++ if x.dom != .running || !x.clocked then []
       else
         when_ (!x.walkQ.isEmpty) (at_ .pageWalk) ++ queueActs s d ++ gridActs s d
         ++ when_ (!x.ptr.isEmpty) (at_ .activationUpdateApply) ++ collActs s d
  -- dispatch and steals have cycles of their own
  match (if x.dom = .running ∧ x.clocked then readyActs s d else []) with
  | [] => rest
  | l => l

/-! ## What an engine can do (13 R333): its first eight operations run -/

def engineActs (s : State) (e : EngineId) : List Act :=
  if (s.die (engineDie e)).dom != .running || !(s.die (engineDie e)).clocked then []
  else (((s.engine e).zipIdx.filter fun y => !y.1.paused).take 8).flatMap fun y =>
    let o := y.1
    let at_ : Instr → Act := fun i => ⟨o.core, engineDie e, e.val, y.2, i⟩
    match o.kind with
    | .cpy | .gather | .scatter => [at_ .copyComplete]
    | .fill q => when_ (match streamOf s o q with | some x => decide (x.rows.length < 4) | none => false) (at_ .streamRowTransfer)
    | .drain q => when_ (match streamOf s o q with | some x => !x.rows.isEmpty || x.closed | none => false) (at_ .streamRowTransfer)
    | .frame _ => [at_ .frameFillDone, at_ .frameFillFault]

/-! ## Turns -/

/-- One of a unit's actions, in turn by the unit's clock. -/
def choose (n : Nat) (l : List Act) : Option Act := l[n % max 1 l.length]?
def unitAct (s : State) (u : Nat) : Option Act :=
  if h : u < 144 then choose (s.die (coreDie ⟨u, h⟩)).cycles (coreActs s ⟨u, h⟩)
  else if u < 148 then choose s.now (dieActs s (Fin.ofNat 4 (u - 144)))
  else if h : u - 148 < 24 then choose (s.die (engineDie ⟨u - 148, h⟩)).cycles (engineActs s ⟨u - 148, h⟩)
  else s.deferred.head?
def units : Nat := 173
/-- The first unit from u on that can act. -/
def findUnit (s : State) : Nat → Nat → Option (Nat × Act)
  | 0, _ => none
  | n + 1, u => match unitAct s u with
    | some a => some (u, a)
    | none => findUnit s n (u + 1)

/-! ## The clock -/

/-- A period of the reference for a core: PBCNT and the watchdog (16 R410, R412), and its generator with the core clock (12 R313). -/
def coreCycle (s : State) (c : CoreId) (k : Core) : Core :=
  if k.task.isNone || k.loading.isSome then k
  else
    let halted := ((s.die (coreDie c)).dbghalt.getLsbD (coreLocal c) || k.plnHalt) && k.t.fl.isNone
    let t := k.t
    let t := if halted then t else { t with pbcnt := if trapMode k then t.pbcnt else t.pbcnt + 1, wdfrac := t.wdfrac + 1 }
    let t := if t.wdfrac < 1024 then t
      else { t with wdfrac := 0, sys := { t.sys with wdog := t.sys.wdog + 0x1_0000_0000#64 } }
    let t := if (s.die (coreDie c)).clocked && rbqRoom t then { t with rbq := t.rbq ++ [⟨philoxWord t.sys.rngkey t.sys.rngctr, false⟩], sys := { t.sys with rngctr := t.sys.rngctr + 1 } } else t
    { k with t := t }
/-- Samples that the monitors take every 1,024 cycles: a die's ready count and the issue cycles it has skipped (18 Table
18.2). -/
def sampled (s : State) : State :=
  if s.now % 1024 ≠ 0 then s
  else
    let s := allDies.foldl (fun s d => heard (heard s d 5 0 (readyCount s d)) d 9 0 (s.die d).skipped) s
    { s with dies := s.dies.map fun x => { x with skipped := 0 } }
/-- The end of a round. -/
def endRound (s : State) : State :=
  let s0 := { s with now := s.now + 1, turn := 0, cores := Vector.ofFn fun c => coreCycle s c (s.core c)
                     dies := s.dies.map fun x => (if x.skips then { x with skipped := x.skipped + 1 } else x).advance }
  let s1 := sampled s0
  let s2 := if s1.now % 64 = 0 then s1.post ⟨0, 0, 0, 0, .ptsTick⟩ else s1
  (allDies.filter (ageingDue s2)).foldl (fun s d => s.post ⟨0, d, 0, 0, .ageingPromotion⟩) s2

/-- The default action: of the next unit that can act, else the end of the round. -/
def defaultAct (s : State) : Res1 :=
  match findUnit s (units - s.turn) s.turn with
  | some (u, a) =>
    -- the actions that wait are all tried again, in their order
    let s := if u = 172 then { s with agenda := s.deferred.drop 1, deferred := [] } else s
    act a { s with turn := u + 1 }
  | none => .next (endRound s)

/-! ## Placing a bundle (log 7) -/

/-- The bundle of an opcode-table word: 24 bits are its transfer slot. -/
def tableBundle (nbits w : Nat) : BitVec 384 := if nbits = 24 then BitVec.ofNat 384 (w % 2 ^ 24 * 2 ^ 128) else BitVec.ofNat 384 w

def placedCtx : Ctx :=
  { asid := 0, priv := true, ptroot := 0, rtbase := 0, rtcnt := 0, etbase := 0, etcnt := 0, ptbase := 0, spbase := 0
    spcnt := 0, albase := 0, lease := 8, rngkey := 0, prebound := 0, wdlim := 0, hmask := 0, hclen := 0, hcode := 0
    hdcap := Cap.null, tfbase := 0, sapool := 0, sacount := 0, ctxpa := 0 }
/-- A task of one literal bundle at virtual address 0. -/
def placedTask : Task :=
  { uid := 0, gid := 0, idx := 0, ldie := 0, digits := [], drawn := none, ctx := placedCtx
    img := { va := 0, kid := 0, dictsize := 0, codelen := 64, entry := 0, bodylen := 0, dictoff := 0, codeoff := 0
             levels := [], args := [] }
    pkt := ⟨0, 0⟩, tag := 0, depth := 0 }
/-- The leaf of page 0: V, L, W, X, A, D, frame 0. -/
def placedLeaf : TlbEnt := { asid := 0, page := 0, bits := 12, pte := 0x7B#64 }
/-- Core 0 has just been given the task, whose code is in device memory from address 0 and whose page its TLB holds. -/
def placeBundle (s : State) (b : BitVec 384) : State :=
  let s := (s.modDie 0 fun x => { x with dom := .running }).setCore 0
    { Core.reset with task := some placedTask, tlb := [placedLeaf], t := { TState.reset with sys := { Sys.reset with status := 1 } } }
  { wrBytes s 0 (natToBytes 2 0xFFFF ++ bitsBytes 48 b) with agenda := [], turn := 0 }

end Sys2Proof.Machine
end

