-- ==== Sys2Proof/Machine/Step.lean ====
section
/-!
DEFINITION. One step of the machine: the oldest action placed, or the default one; and where a program word goes to be run
next (log 7).
-/

namespace Sys2Proof.Machine

/-- One step. -/
def step (s : State) : Host.Outcome State Fault Refusal :=
  match s.agenda with
  | a :: rest => act a { s with agenda := rest }
  | [] => defaultAct s

/-- `s` with a bundle ready on core 0, whose turn is next, as placement leaves it (log 7). -/
def State.withFetchWord (s : State) (nbits w : Nat) : State := placeBundle s (tableBundle nbits w)

end Sys2Proof.Machine
end

