-- ==== Sys2Proof/Safety.lean ====
section
/-!
DEFINITION. What a safe run is, and the words the statements are made of: the outcome of a slot that lands a result, what a
slot of one core may change, and shapes of instructions.
-/

namespace Sys2Proof.Safety

open Machine

/-- A step goes on. -/
def goesOn (s : State) : Prop := ∃ t, step s = .next t

/-- The slot commits with one result of latency n in the landing queue, and nothing else happens. -/
def lands (s : State) (n : Nat) (r : Res) : Res1 := .next (commit (s.land n r))
/-- A scalar result whose tangents are zero. -/
def plain (d : SReg) (x : Word) : Res := .s d x STan.zero
/-- The slot's instruction takes its fault, its slot not being committed (16 R397). -/
def traps (s : State) (f : FaultRec) : Res1 := .next (takeFault s s.cur f (precisePoint s.k false))
/-- The state in which a vector slot with its operands gathered (state s') takes a fault: its bundle keeps the rows popped at
issue (16 R397). -/
def rowsKept (s s' : State) : State := s'.modT fun t => { t with fl := s.k.t.fl }
/-- Nothing outside the cores differs, the number of the next free value apart, and no core but the running one does. -/
def onlyCore (s t : State) : Prop :=
  t = { s with cores := t.cores, fresh := t.fresh } ∧ ∀ c, c ≠ s.cur → t.core c = s.core c

/-- The bundle in flight ends at a unit. -/
def takes (s : State) (f : Inflight) (x : Nat) : State := s.modT fun t => { t with fl := some { f with btgt := some x } }
/-- A unit lies in the innermost active body around the bundle in flight, if there is one. -/
def inBody (s : State) (x : Nat) : Bool :=
  match innermost s.k.t s.unitNo with
  | some i => decide ((s.k.t.loops.get i).bstart ≤ x) && decide (x < (s.k.t.loops.get i).bstart + (s.k.t.loops.get i).blen)
  | none => true
/-- Scalar and transfer-slot instructions whose whole effect is results that land. -/
def landsOnly : Instr → Bool
  | .add _ | .addi _ | .sub _ | .mul _ | .mulh _ | .mulhn _ | .div _ | .divn _ | .mod _ | .modn _ => true
  | .and _ | .or _ | .xor _ | .andn _ | .shl _ | .shr _ | .shra _ | .rotl _ | .fshl _ | .fshr _ => true
  | .clz _ | .ctz _ | .popc _ | .min _ | .max _ | .minn _ | .maxn _ | .sext _ | .zext _ | .li _ | .lih _ | .mov _ | .sel _ => true
  | .cmpeq _ | .cmpne _ | .cmplt _ | .cmple _ | .cmpltn _ | .cmplen _ => true
  | .sfadd _ | .sfmul _ | .sffma _ | .sfcvt _ | .sfcmp _ => true
  | .cnarrow _ | .cperm _ | .cgetb _ | .cgetl _ | .cgeth _ | .ctest _ | .cmov _ => true
  | .mdsetWord _ | .mdsetCap _ | .cdsetWord _ | .cdsetCap _ => true
  | .xsv _ | .xsp _ | .xps _ | .xpsAny _ => true
  | _ => false
/-- Rounding code of a scalar float instruction. -/
def floatRm : Instr → Option RMode
  | .sfadd o | .sfmul o => some o.rm
  | .sffma o => some o.rm
  | .sfcvt o => some o.rm
  | _ => none
/-- The atomics with their operation and whether they are 64 bits wide (13 Table 13.3). -/
def atomicForms (o : LAtom) : List (Instr × AmoOp × Bool) :=
  [(.amoaddI32 o, .add, false), (.amoaddI64 o, .add, true), (.amominI32 o, .min, false), (.amominI64 o, .min, true),
   (.amomaxI32 o, .max, false), (.amomaxI64 o, .max, true), (.amominnI32 o, .minn, false), (.amominnI64 o, .minn, true),
   (.amomaxnI32 o, .maxn, false), (.amomaxnI64 o, .maxn, true), (.amoandI32 o, .and, false), (.amoandI64 o, .and, true),
   (.amoorI32 o, .or, false), (.amoorI64 o, .or, true), (.amoxorI32 o, .xor, false), (.amoxorI64 o, .xor, true),
   (.amoswpI32 o, .swp, false), (.amoswpI64 o, .swp, true), (.amocasI32 o, .cas, false), (.amocasI64 o, .cas, true),
   (.amofaddF32 o, .fadd, false), (.amobaddI32 o, .badd, false), (.amobaddI64 o, .badd, true)]

/-- Element j of lane l of a row, at the width of a format. -/
def velem (f : Fmt) (x : Row) (l j : Nat) : Nat := elem (NumFmt.width f) (lane x l) j
/-- A vector slot with its operands gathered (state s') completes: a result of latency n goes to its destination and latch; in
every enabled lane its elements are those given, modulo the format's width, and so are the tangents 1 to K; higher tangents
are 0. -/
def vecDone (i : Instr) (s s' : State) (n : Nat) (g : VG) (d : VDst) (f : Fmt) (val : Nat → Nat → Nat)
    (tan : Nat → Nat → Nat → Nat) : Prop :=
  ∃ x t, (∀ u, outV s' n d (s.slotNo 3) (s.enabled g) x t = .ok u → exec i s = .next (commit u)) ∧
    ∀ l j, l < 128 → (s.enabled g).getLsbD l = true → j < 32 / NumFmt.width f →
      velem f x l j = val l j % 2 ^ NumFmt.width f ∧
      ∀ k : Fin 4, velem f (t.get k) l j = if k.val < s'.tk then tan (k.val + 1) l j % 2 ^ NumFmt.width f else 0
/-- A value whose FP32 result under RNE lies within n * 2^u of the true one; where either result is infinite, their encodings
differ by n at most (12 R294). -/
def nearTo (n : Nat) (u : Int) (exact f : NumFmt.XV) : Prop :=
  if (NumFmt.fp32Of f).isInf = true ∨ (NumFmt.fp32Of exact).isInf = true then
    let a := (NumFmt.roundTo .f32 .rne false false 0 exact).1
    let b := (NumFmt.roundTo .f32 .rne false false 0 f).1
    a ≤ b + n ∧ b ≤ a + n
  else NumFmt.cmp (NumFmt.sum false [NumFmt.fp32Of f, exact.neg]).abs (.fin false n u false) ≠ some .gt
/-- A special function's value: within its bound, or the true value cut to the unit's 31 significant bits. -/
def boundedF (n : Nat) (u : Int) (exact f : NumFmt.XV) : Prop := f = NumFmt.cutF exact ∨ nearTo n u exact f
/-- An integer put into an integer format: its low bits, or with SAT the nearest end of the format's range. -/
def wrapOrClamp (f : Fmt) (sat : Bool) (v : Int) : Nat :=
  let w := NumFmt.width f
  let lo : Int := if NumFmt.signed f then -(2 ^ (w - 1)) else 0
  let hi : Int := if NumFmt.signed f then 2 ^ (w - 1) - 1 else 2 ^ w - 1
  ((if sat then max lo (min hi v) else v) % 2 ^ w).toNat
/-- Guard, sources, use of SR, destination and latency of the vector slots whose whole effect is one result for a destination:
float, special, integer, select, reduction, lane moves, conversion and packing. -/
def vecParts (s : State) : Instr → Option (VG × List VSrc × Bool × VDst × Nat)
  | .vadd o | .vsub o | .vmul o => some (o.g, [o.a, o.b], s.usesSR o.rm, o.d, 4)
  | .vfma o | .vfms o | .vfnma o => some (o.g, [o.a, o.b, o.c], s.usesSR o.rm, o.d, 4)
  | .vmin o | .vmax o => some (o.g, [o.a, o.b], false, o.d, 4)
  | .vabs o | .vneg o => some (o.g, [o.a], false, o.d, 4)
  | .vrcp o | .vrsqrt o | .vsqrt o | .vexp2 o | .vlog2 o | .vsin o | .vcos o => some (o.g, [o.a], s.usesSR o.rm, o.d, 8)
  | .viadd o | .visub o | .vimul o => some (o.g, [o.a, o.b], false, o.d, 2)
  | .vimulh o | .vimin o | .vimax o | .vand o | .vor o | .vxor o | .vandn o | .vshl o | .vshr o | .vshra o =>
    some (o.g, [o.a, o.b], false, o.d, 2)
  | .vfshl o | .vfshr o => some (o.g, [o.a, o.b, o.c], false, o.d, 2)
  | .vclz o | .vctz o | .vpopc o => some (o.g, [o.a], false, o.d, 2)
  | .vsel o => some (o.g, [o.a, o.b], false, o.d, 2)
  | .vgmax o | .vgmin o => some (o.g, [o.a], false, o.d, 4)
  | .vgsum o => some (o.g, [o.a], !o.fmt.isInt && s.usesSR o.rm, o.d, 4)
  | .vperm o => some (o.g, [o.a, o.b], false, o.d, 6)
  | .vbcastl o => some (o.g, [o.a], false, o.d, 6)
  | .vxsec o => some (o.g, if o.mode = .rot then [o.a] else [o.a, o.b], false, o.d, 6)
  | .vcvt o => some (o.g, [o.a, o.b], s.usesSR o.rm, o.d, 3)
  | .vpack o => some (o.g, [o.a, o.b], false, o.d, 3)
  | .vunpack o => some (o.g, [o.a], false, o.d, 3)
  | _ => none
/-- The register a vector destination names. -/
def dstReg : VDst → Option (BitVec 5)
  | .reg r => some r
  | _ => none

/-- What a matrix slot with two descriptors asks for: its operation, the detail of class 13 that stands against it, the detail
of class 12 found after its descriptors. -/
structure MatPair where
  (kind : MKind) (tile : Nat) (a b : BitVec 4) (fl : MFlags) (dk : Nat) (sameK mop : Bool) (pre late : Option Nat)
def matPair (s : State) : Instr → Option MatPair
  | .mma o => some ⟨.mul false o.ch, o.tile.toNat, o.a, o.b, ⟨o.ta, o.tb, o.ra, o.rb, o.mc⟩, s.mtk o.du, true, false,
      if s.mtk o.du = 4 then some 3 else none, none⟩
  | .mmaz o => some ⟨.mul true o.ch, o.tile.toNat, o.a, o.b, ⟨o.ta, o.tb, o.ra, o.rb, o.mc⟩, s.mtk o.du, true, false,
      if s.mtk o.du = 4 then some 3 else none, none⟩
  | .mrs o => some ⟨.mrs o.zf s.isys.stol (if o.zf then 0 else scntT s.isys), o.tile.toNat, o.a, o.b, ⟨o.ta, o.tb, o.ra, o.rb, o.mc⟩, 0, true, false,
      if s.dual || o.du then some 0 else none,
      match s.k.mat.table with
      | none => some 0
      | some (n, _) => if n ≠ (s.iregs.md.get o.a.toFin).len then some 1
        else if stolNmax s.isys.stol = 0 ∨ (o.zf = false ∧ 64 * stolNmax s.isys.stol ≤ scntT s.isys) then some 3 else none⟩
  | .malias o => some ⟨.draws o.sidecar, 0, o.a, o.b, ⟨false, false, false, false, false⟩, 0, true, o.sidecar, none, none⟩
  | .mnorm o => some ⟨.norm, 0, o.a, o.b, ⟨o.ta, o.tb, o.ra, o.rb, o.mc⟩, 0, false, false, none, none⟩
  | _ => none
/-- Whether a detail of class 10 stands against the slot (14 R351, Table 14.6). -/
def MatPair.bad (x : MatPair) (da db : MDesc) (det : Nat) : Bool :=
  descErr x.fl.ta x.dk x.kind.reads da det || descErr x.fl.tb x.dk x.kind.reads db det || (det == 1 && (da.fmt.bind arrayP) != (db.fmt.bind arrayP))
    || (det == 2 && x.sameK && da.len != db.len) || (det == 6 && tileErr x.dk x.tile) || (det == 8 && x.fl.mc && !x.fl.ra && !x.fl.rb)

end Sys2Proof.Safety
end

