-- ==== Sys2Proof/Certificates/Slice0/Obligations.lean ====
section
/-!
DEFINITION. The statements for the provers.
-/

open Sys2Proof Sys2Proof.Machine Sys2Proof.Safety

/-! ## Encodings -/

/-- Words written out from the spec's encodings decode to the instructions they stand for (10 Tables 10.6 to 10.9; 11 to
14). -/
def Obligations.DecodedWords : Prop :=
  decodeS 0x0102_98E0_0000 = .ok (some (.add ⟨0, 5, 6, .reg 7⟩)) ∧
  decodeS 0x1F01_0002_00F0 = .ok (some (.lih ⟨0, 2, 0, 0x00F0, 2⟩)) ∧
  decodeS 0x2200_9010_0020 = .ok (some (.cmpeq ⟨0, 1, 4, .imm 0x20⟩)) ∧
  decodeS 0x4010_0000_0002 = .ok (some (.br ⟨1, 2⟩)) ∧
  decodeL 0x660A_0540_0016 = .ok (some (.tlbinvRng ⟨0, 20, 21, 22⟩)) ∧
  decodeL 0x6000_0000_0208 = .ok (some (.pfence ⟨0, 0, 2, 8⟩)) ∧
  decodeXsvBits 0x401000 = .ok (some (.xsv ⟨0, 1⟩)) ∧
  decodeV 0x00_FF80_C108_0000 = .ok (some (.vadd ⟨⟨0xFF, 0⟩, .reg 3, .reg 1, .reg 2, .f32, .rne, false, false⟩)) ∧
  decodeM 0x08_0240_0000 = .ok (some (.mmaz ⟨0, 1, 2, false, false, false, false, false, false, false⟩)) ∧
  decodeC 0x04_6500_0000 = .ok (some (.cpy ⟨2, some 3, true, none⟩))

/-- The word the encoder gives a well-formed S instruction decodes to that instruction, with every operand at every
value. -/
def Obligations.ScalarWordsReadBack : Prop :=
  ∀ (i : Instr) (w : BitVec 48), i.wf = true → encode i = some (.s w) → decodeS w = .ok (some i)

/-- The same of the L slot. -/
def Obligations.MemoryWordsReadBack : Prop :=
  ∀ (i : Instr) (w : BitVec 48), i.wf = true → encode i = some (.l w) → decodeL w = .ok (some i)

/-- The same of the vector slots. -/
def Obligations.VectorWordsReadBack : Prop :=
  ∀ (i : Instr) (w : BitVec 56), i.wf = true → encode i = some (.v w) → decodeV w = .ok (some i)

/-- The same of the two halves of the transfer slot, the matrix slot and the copy slots. -/
def Obligations.OtherWordsReadBack : Prop :=
  ∀ (i : Instr), i.wf = true →
    (∀ w, encode i = some (.xsv w) → decodeXsv (.ofBits w) = .ok (some i)) ∧
    (∀ w, encode i = some (.xvs w) → decodeXvs (.ofBits w) = .ok (some i)) ∧
    (∀ w, encode i = some (.m w) → decodeM w = .ok (some i)) ∧
    (∀ w, encode i = some (.c w) → decodeC w = .ok (some i))

/-- An all-zero slot is a no-op; an opcode field of zero under any other bit is refused with reason 0, which a slot raises as
class 1 (10 R230). An opcode that no instruction of its slot has (10 Tables 10.8 and 10.9; 11 Table 11.6) is refused with reason
0, and a slot so refused raises class 1 with its number as the detail, whatever its guard and stage enable (10 R230, R249). -/
def Obligations.RefusedOpcodes : Prop :=
  ((∀ w : BitVec 48, w.extractLsb' 40 8 = 0#8 → decodeS w = if w = 0 then .ok none else .error .opcode) ∧
  (∀ w : BitVec 48, w.extractLsb' 41 7 = 0#7 → decodeL w = if w = 0 then .ok none else .error .opcode) ∧
  (∀ w : BitVec 56, w.extractLsb' 47 9 = 0#9 → decodeV w = if w = 0 then .ok none else .error .opcode) ∧
  (∀ w : BitVec 40, w.extractLsb' 34 6 = 0#6 → decodeM w = if w = 0 then .ok none else .error .opcode) ∧
  (∀ w : BitVec 40, w.extractLsb' 34 6 = 0#6 → decodeC w = if w = 0 then .ok none else .error .opcode)) ∧
  ((∀ w : BitVec 48, let op := (w.extractLsb' 40 8).toNat
    (0x28 ≤ op ∧ op < 0x30) ∨ (0x35 ≤ op ∧ op < 0x40) ∨ (0x47 ≤ op ∧ op < 0x50) ∨ op = 0x57 ∨ (0x5A ≤ op ∧ op < 0x60) ∨ 0x64 ≤ op →
    decodeS w = .error .opcode) ∧
  (∀ w : BitVec 48, let op := (w.extractLsb' 41 7).toNat
    op = 0x17 ∨ (0x34 ≤ op ∧ op < 0x38) ∨ (0x3E ≤ op ∧ op < 0x40) ∨ 0x46 ≤ op → decodeL w = .error .opcode) ∧
  (∀ w : BitVec 56, let op := (w.extractLsb' 47 9).toNat
    (0x12 ≤ op ∧ op < 0x20) ∨ (0x32 ≤ op ∧ op < 0x40) ∨ (0x45 ≤ op ∧ op < 0x50) ∨ (0x56 ≤ op ∧ op < 0x60) ∨
      (0x65 ≤ op ∧ op < 0x70) ∨ 0x73 ≤ op → decodeV w = .error .opcode) ∧
  (∀ w : BitVec 40, 0x0A ≤ (w.extractLsb' 34 6).toNat → decodeM w = .error .opcode) ∧
  (∀ w : BitVec 40, 0x09 ≤ (w.extractLsb' 34 6).toNat → decodeC w = .error .opcode) ∧
  (∀ w : BitVec 24, w.extractLsb' 10 2 = 3#2 → decodeXvsBits w = .error .opcode) ∧
  (∀ (s : State) (h : Header) (en : Bool) (n : Nat), slotDo s h en n (.error .opcode) = some (.bad ⟨1, n, 0, 0⟩)))

/-! ## The step -/

/-- A step whose action is the bundle issue of a core that may go on runs the slots of the bundle fetched at PC: no bundle is
in flight, no boundary fault is due, no counter has drained, and no pre-emption request stands before a pass. -/
def Obligations.StepIssuesTheFetchedBundle : Prop :=
  ∀ (s : State) (c : CoreId) (rest : List Act) (t : Task), s.agenda = ⟨c, coreDie c, 0, 0, .bundleIssue⟩ :: rest →
    let s0 : State := { s with agenda := rest, cur := c, dsel := coreDie c, unit := 0, item := 0 }
    s0.k.task = some t → canRun s0 c = true → s0.k.t.fl = none → stopsHere s0 c = false → deliver s0 = none →
    s0.k.draining = none → s0.k.preempt = false ∨ passHere s0.k = none →
    ∀ s1 next w, fetchBundle s0 t = .ok (s1, next, w) → step s = runSlots 24 (issueBundle s1.tickFresh t next (Bundle.ofBits w))

/-- A bundle whose S slot alone is occupied, under a zero header and with nothing pending: the word in the S slot decodes to
i, and running the slots of the issued bundle is exec of i at the state after issue, then the rest of the bundle. When its
slots are done, the bundle leaves: PC goes to the transfer's target or past the bundle, and every countdown moves by one. -/
def Obligations.StepRunsTheDecodedInstruction : Prop :=
  (∀ (s : State) (t : Task) (next : Nat) (b : Bundle) (i : Instr),
    b.h = Header.ofBits 0 → b.l = 0 → b.x = 0 → b.v0 = 0 → b.v1 = 0 → b.m = 0 → b.c0 = 0 → b.c1 = 0 →
    decodeS b.s = .ok (some i) → slotOn s i = true → (stageEnables s.k.t s.k.t.pc).getLsbD 0 = true →
    s.k.t.land = [] → s.k.t.loads = [] → s.k.t.rep = none → s.k.frozen = false → s.k.t.fatal = none → s.k.trap = none →
    vSrcsOf i = [] → vDstOf i = none → rmOf i = none → pairFault s [(0, i)] = none → slotWaits s 0 i = false →
    ∃ s2, s2 = s.modT (fun t => { t with
        sys := { t.sys with status := setBit t.sys.status 3 (t.sys.status.getLsbD 3 && t.sys.status.getLsbD 1) }, atPass := false
        fl := some { unit := t.pc, next := next, todo := [(0, .run i)], slot := 0, dual := t.sys.dualctl.getLsbD 3,
                     stall := 0, rep := 0, se := stageEnables t t.pc, regs := t.regs, sys := t.sys, pops := [], rbq := none
                     btgt := none, since := none, older := 0, at_ := s.now } }) ∧
      runSlots 24 (issueBundle s t next b) = (match exec i s2 with | .next s3 => runSlots 23 s3 | r => r)) ∧
  (∀ (s : State) (n : Nat) (f : Inflight), s.k.frozen = false → s.k.t.fatal = none → s.k.trap = none → s.k.t.fl = some f →
    f.todo = [] → f.rep = 0 → f.stall = 0 → kOf f.sys ≤ kOf s.k.t.sys → innermost s.k.t f.unit = none →
    runSlots (n + 1) s = .next (s.modT fun t => countDown { t with fl := none, rep := none, pc := f.btgt.getD f.next }))

/-! ## Reset -/

/-- Registers whose reset value the spec gives (02 Table 2.4; 05; 07 Table 7.2; 09 Table 9.6; 12 Table 12.5; 18), and that the
core domains are in reset. Memory is in its canonical form after reset. -/
def Obligations.ResetState : Prop :=
  ((∀ c : CoreId, (State.reset.core c).t.sys.fpctl = 0x20 ∧ (State.reset.core c).t.sys.evctl = 0x10 ∧
    (State.reset.core c).t.sys.lease = 8 ∧ (State.reset.core c).t.sys.scl = 0x7F7F7F7F ∧ (State.reset.core c).task = none) ∧
  (∀ d : DieId, (State.reset.die d).pdidle = 0x100 ∧ (State.reset.die d).sridle = 0x1_0000 ∧ (State.reset.die d).xpd = 0x0C ∧
    (State.reset.die d).xsr = 0xE0 ∧ (State.reset.die d).plim = 2370 ∧ (State.reset.die d).isl = .active ∧
    (State.reset.die d).dom = .inReset) ∧
  State.reset.mem = []) ∧
  (Memory.wf State.reset.mem = true)

/-! ## Guards -/

/-- An S or L slot whose guard is false, and a vector slot with no enabled lane, commits nothing and raises nothing (10 R246,
R247). -/
def Obligations.GuardedOffSlot : Prop :=
  (∀ (i : Instr) (g : Guard) (s : State), sGuardOf i = some g → s.guard g = false → exec i s = .next (commit s)) ∧
  (∀ (i : Instr) (g : VG) (s : State), vGuardOf i = some g → s.enabled g = 0 → exec i s = .next (commit s))

/-! ## Scalar integers (11 R255 to R259) -/

/-- Sums, differences, products and extrema of 11 Table 11.1, as integers taken modulo 2^64: one scalar result lands, after 1
cycle or, for a product, 3. Division (11 R257): truncating toward zero, signed for DIV and MOD, unsigned for DIVN and MODN;
by zero the quotient is all ones and the remainder A; -2^63 by -1 gives -2^63 and 0. -/
def Obligations.ScalarArithmetic : Prop :=
  ((∀ (s : State) (o : SAlu), s.guard o.g = true → let a := s.sR o.a; let b := s.srcB o.b
    exec (.add o) s = lands s 1 (plain o.d (BitVec.ofInt 64 (a.toInt + b.toInt))) ∧
    exec (.sub o) s = lands s 1 (plain o.d (BitVec.ofInt 64 (a.toInt - b.toInt))) ∧
    exec (.min o) s = lands s 1 (plain o.d (BitVec.ofInt 64 (min a.toInt b.toInt))) ∧
    exec (.max o) s = lands s 1 (plain o.d (BitVec.ofInt 64 (max a.toInt b.toInt))) ∧
    exec (.minn o) s = lands s 1 (plain o.d (BitVec.ofNat 64 (min a.toNat b.toNat))) ∧
    exec (.maxn o) s = lands s 1 (plain o.d (BitVec.ofNat 64 (max a.toNat b.toNat)))) ∧
  (∀ (s : State) (o : SAddi), s.guard o.g = true →
    exec (.addi o) s = lands s 1 (plain o.d (BitVec.ofInt 64 ((s.sR o.a).toInt + o.imm.toInt)))) ∧
  (∀ (s : State) (o : SReg3), s.guard o.g = true → let a := s.sR o.a; let b := s.sR o.b
    exec (.mul o) s = lands s 3 (plain o.d (BitVec.ofInt 64 (a.toInt * b.toInt))) ∧
    exec (.mulh o) s = lands s 3 (plain o.d (BitVec.ofInt 64 (a.toInt * b.toInt / 2 ^ 64))) ∧
    exec (.mulhn o) s = lands s 3 (plain o.d (BitVec.ofNat 64 (a.toNat * b.toNat / 2 ^ 64))))) ∧
  (∀ (s : State) (o : SReg3), s.guard o.g = true → let a := s.sR o.a; let b := s.sR o.b
    exec (.div o) s = lands s 18 (plain o.d (if b = 0 then BitVec.allOnes 64 else BitVec.ofInt 64 (a.toInt.tdiv b.toInt))) ∧
    exec (.divn o) s = lands s 18 (plain o.d (if b = 0 then BitVec.allOnes 64 else BitVec.ofNat 64 (a.toNat / b.toNat))) ∧
    exec (.mod o) s = lands s 18 (plain o.d (if b = 0 then a else BitVec.ofInt 64 (a.toInt.tmod b.toInt))) ∧
    exec (.modn o) s = lands s 18 (plain o.d (if b = 0 then a else BitVec.ofNat 64 (a.toNat % b.toNat))))

/-- Bitwise forms and shifts of 11 Table 11.1, bit by bit: shift amounts are B mod 64, and a funnel shift takes its window out
of the 128 bits of A above s[b]. Bit counts and extensions under a width w (11 R258): CLZ and CTZ answer w on low bits that
are all zero, else the distance of the highest or lowest set bit; POPC counts; SEXT and ZEXT extend the low w bits. -/
def Obligations.ScalarLogicShiftsAndCounts : Prop :=
  ((∀ (s : State) (o : SAlu), s.guard o.g = true → let a := s.sR o.a; let b := s.srcB o.b; let n := b.toNat % 64
    exec (.and o) s = lands s 1 (plain o.d (a &&& b)) ∧ exec (.or o) s = lands s 1 (plain o.d (a ||| b)) ∧
    exec (.xor o) s = lands s 1 (plain o.d (a ^^^ b)) ∧ exec (.andn o) s = lands s 1 (plain o.d (a &&& ~~~b)) ∧
    exec (.shl o) s = lands s 1 (plain o.d (BitVec.ofNat 64 (a.toNat * 2 ^ n))) ∧
    exec (.shr o) s = lands s 1 (plain o.d (BitVec.ofNat 64 (a.toNat / 2 ^ n))) ∧
    exec (.shra o) s = lands s 1 (plain o.d (BitVec.ofInt 64 (a.toInt / 2 ^ n))) ∧
    (∃ x : Word, exec (.rotl o) s = lands s 1 (plain o.d x) ∧ ∀ i, i < 64 → x.getLsbD ((i + n) % 64) = a.getLsbD i)) ∧
  (∀ (s : State) (o : SFun), s.guard o.g = true → let ab := s.sR o.a ++ s.sR o.b
    exec (.fshl o) s = lands s 1 (plain o.d ((ab <<< o.n.toNat).extractLsb' 64 64)) ∧
    exec (.fshr o) s = lands s 1 (plain o.d ((ab >>> o.n.toNat).extractLsb' 0 64)))) ∧
  (∀ (s : State) (o : SWid) (w : Nat), w = (match o.w with | .w8 => 8 | .w16 => 16 | .w32 => 32 | .w64 => 64) →
    s.guard o.g = true → let a := (s.sR o.a).toNat % 2 ^ w
    (∃ n, exec (.clz o) s = lands s 1 (plain o.d (BitVec.ofNat 64 n)) ∧
      (a = 0 → n = w) ∧ (a ≠ 0 → n < w ∧ 2 ^ (w - 1 - n) ≤ a ∧ a < 2 ^ (w - n))) ∧
    (∃ n, exec (.ctz o) s = lands s 1 (plain o.d (BitVec.ofNat 64 n)) ∧
      (a = 0 → n = w) ∧ (a ≠ 0 → n < w ∧ a.testBit n = true ∧ ∀ i, i < n → a.testBit i = false)) ∧
    exec (.popc o) s = lands s 1 (plain o.d (BitVec.ofNat 64 ((List.range w).countP fun i => a.testBit i))) ∧
    exec (.sext o) s = lands s 1 (plain o.d (BitVec.ofInt 64 (if a < 2 ^ (w - 1) then (a : Int) else (a : Int) - 2 ^ w))) ∧
    exec (.zext o) s = lands s 1 (plain o.d (BitVec.ofNat 64 a)))


/-- Constants and moves of 11 Table 11.1. In a dual slot MOV and SEL carry the tangents of what they move, up to DUALCTL.K (15
R375); the others leave zero tangents. Compares (11 R259): the truth of the relation lands in the predicate after 1 cycle. -/
def Obligations.ScalarMovesAndCompares : Prop :=
  ((∀ (s : State) (o : SLi), s.guard o.g = true → exec (.li o) s = lands s 1 (plain o.d (BitVec.ofInt 64 o.imm.toInt))) ∧
  (∀ (s : State) (o : SLih), s.guard o.g = true → ∃ x : Word, exec (.lih o) s = lands s 1 (plain o.d x) ∧
    x.extractLsb' (16 * o.k.toNat) 16 = o.imm ∧ ∀ i, i < 64 → i / 16 ≠ o.k.toNat → x.getLsbD i = (s.sR o.a).getLsbD i) ∧
  (∀ (s : State) (o : SMov), s.guard o.g = true → exec (.mov o) s = lands s 1 (.s o.d (s.sR o.a) (s.carryT o.a))) ∧
  (∀ (s : State) (o : SSel), s.guard o.g = true → let r := if s.guard o.p then o.a else o.b
    exec (.sel o) s = lands s 1 (.s o.d (s.sR r) (s.carryT r))) ∧
  (∀ (s : State) (r : SReg) (k : Fin 4), (s.carryT r).get k = if s.dual = true ∧ k.val < s.dk then s.sTan r (k.val + 1) else 0)) ∧
  (∀ (s : State) (o : SCmp), s.guard o.g = true → let a := s.sR o.a; let b := s.srcB o.b
    exec (.cmpeq o) s = lands s 1 (.p o.p (decide (a = b))) ∧ exec (.cmpne o) s = lands s 1 (.p o.p (decide (a ≠ b))) ∧
    exec (.cmplt o) s = lands s 1 (.p o.p (decide (a.toInt < b.toInt))) ∧
    exec (.cmple o) s = lands s 1 (.p o.p (decide (a.toInt ≤ b.toInt))) ∧
    exec (.cmpltn o) s = lands s 1 (.p o.p (decide (a.toNat < b.toNat))) ∧
    exec (.cmplen o) s = lands s 1 (.p o.p (decide (a.toNat ≤ b.toNat))))

/-! ## Scalar floating point (11 R260 to R263) -/

/-- SFADD, SFMUL, SFFMA and SFCVT land their exact value rounded once after 4 cycles, an integer result of SFCVT extended by
its format's signedness; SFCMP lands a predicate. Under SR, which only DYN can name here, the slot raises class 1 reason 3
instead. -/
def Obligations.ScalarFloat : Prop :=
  (∀ (s : State) (o : SFlt), s.guard o.g = true → s.usesSR o.rm = false →
    (∃ t, exec (.sfadd o) s = lands s 4 (.s o.d (BitVec.ofNat 64 (NumFmt.arith o.fmt (s.mode o.rm) o.sat s.ftz 0
      (NumFmt.sum (s.mode o.rm == .rdn) [NumFmt.decode o.fmt (s.sR o.a).toNat, negIf o.np (NumFmt.decode o.fmt (s.sR o.b).toNat)]))) t)) ∧
    (∃ t, exec (.sfmul o) s = lands s 4 (.s o.d (BitVec.ofNat 64 (NumFmt.arith o.fmt (s.mode o.rm) o.sat s.ftz 0
      (negIf o.np (NumFmt.mul (NumFmt.decode o.fmt (s.sR o.a).toNat) (NumFmt.decode o.fmt (s.sR o.b).toNat))))) t))) ∧
  (∀ (s : State) (o : SFma), s.guard o.g = true → s.usesSR o.rm = false →
    ∃ t, exec (.sffma o) s = lands s 4 (.s o.d (BitVec.ofNat 64 (NumFmt.arith o.fmt (s.mode o.rm) o.sat s.ftz 0
      (NumFmt.sum (s.mode o.rm == .rdn) [negIf o.np (NumFmt.mul (NumFmt.decode o.fmt (s.sR o.a).toNat) (NumFmt.decode o.fmt (s.sR o.b).toNat)),
        negIf o.nc (NumFmt.decode o.fmt (s.sR o.d).toNat)]))) t)) ∧
  (∀ (s : State) (o : SFCvt), s.guard o.g = true → s.usesSR o.rm = false → o.dst.isInt = false →
    ∃ t, exec (.sfcvt o) s = lands s 4 (.s o.d (BitVec.ofNat 64
      (NumFmt.convert o.src o.dst (s.mode o.rm) o.sat s.ftz 0 0 (s.sR o.a).toNat).1) t)) ∧
  (∀ (s : State) (o : SFCvt), s.guard o.g = true → s.usesSR o.rm = false → o.dst.isInt = true →
    exec (.sfcvt o) s = lands s 4 (plain o.d (extInt o.dst
      (NumFmt.convert o.src o.dst (s.mode o.rm) o.sat s.ftz 0 0 (s.sR o.a).toNat).1))) ∧
  (∀ (s : State) (o : SFCmp), s.guard o.g = true →
    exec (.sfcmp o) s = lands s 4 (.p o.p (condF o.cond (NumFmt.decode o.fmt (s.sR o.a).toNat) (NumFmt.decode o.fmt (s.sR o.b).toNat)))) ∧
  (∀ (s : State) (o : SFlt), s.guard o.g = true → s.usesSR o.rm = true → exec (.sfadd o) s = traps s ⟨1, 0, 0, 3⟩ ∧
    exec (.sfmul o) s = traps s ⟨1, 0, 0, 3⟩) ∧
  (∀ (s : State) (o : SFma), s.guard o.g = true → s.usesSR o.rm = true → exec (.sffma o) s = traps s ⟨1, 0, 0, 3⟩) ∧
  (∀ (s : State) (o : SFCvt), s.guard o.g = true → s.usesSR o.rm = true → exec (.sfcvt o) s = traps s ⟨1, 0, 0, 3⟩)

/-! ## What a slot leaves alone; landing -/

/-- Frame of the scalar instructions that only land results (integers, floats under a rounding that is not SR, moves,
compares, capability arithmetic, descriptors, transfer-slot moves without XLANE): whatever next state they
give without a trap or a wait, memory, its tags and timestamps, the dies, the other cores, the registers, the system
registers, PC, pending loads and flags are unchanged; the landing queue gains results that name no register but the
instruction's destinations. -/
def Obligations.ScalarFrame : Prop :=
  ∀ (i : Instr) (s t : State), landsOnly i = true → (∀ m, floatRm i = some m → s.usesSR m = false) → exec i s = .next t →
    onlyCore s t ∧ t.k.t.regs = s.k.t.regs ∧ t.k.t.sys = s.k.t.sys ∧ t.k.t.pc = s.k.t.pc ∧ t.k.t.loads = s.k.t.loads ∧
    t.k.t.loops = s.k.t.loops ∧ t.k.t.flags = s.k.t.flags ∧ t.k.t.streams = s.k.t.streams ∧ t.k.wq = s.k.wq ∧
    t.k.mat = s.k.mat ∧ t.mem = s.mem ∧ (∀ a, rdByte t a = rdByte s a) ∧
    ∃ l, t.k.t.land = s.k.t.land ++ l ∧ ∀ e ∈ l, ∀ n ∈ e.res.names, n ∈ (usesOf i).w

/-- A result of latency n, in the landing queue alone, is landed by the n-th issue cycle after it: n issue cycles, each landing
what is due, leave the registers as they were before the n-th landing and with the result applied at it (10 R242). -/
def Obligations.ResultLandsAfterItsLatency : Prop :=
  ∀ (t : TState) (n : Nat) (r : Res), t.land = [⟨n, r⟩] →
    (∀ m, m < n → (landDue (emptyCycles m t)).regs = t.regs) ∧
    (landDue (emptyCycles n t)).regs = r.apply t.regs ∧
    (landDue (emptyCycles n t)).sys = applySys r t.sys ∧
    (landDue (emptyCycles n t)).land = []

/-- s0, sp0 and vp0 read as constants and discard what lands in them; a landing changes no other register (10 Table
10.4). -/
def Obligations.HardWiredRegisters : Prop :=
  (∀ s : State, s.sR 0 = 0 ∧ s.sP 0 = true ∧ s.vP 0 = BitVec.allOnes 128) ∧
  (∀ (g : Regs) (x : Word) (t : STan) (b : Bool) (en y : BitVec 128),
    (Res.s 0 x t).apply g = g ∧ (Res.p 0 b).apply g = g ∧ (Res.vp 0 en y).apply g = g) ∧
  (∀ (g : Regs) (d r : SReg) (x : Word) (t : STan), d ≠ 0 → let g' := (Res.s d x t).apply g
    g'.s.get r.toFin = (if r = d then x else g.s.get r.toFin) ∧ g'.sd.get r.toFin = (if r = d then t else g.sd.get r.toFin) ∧
    g'.sp = g.sp ∧ g'.c = g.c ∧ g'.md = g.md ∧ g'.cd = g.cd ∧ g'.v = g.v ∧ g'.vd = g.vd ∧ g'.vl = g.vl ∧ g'.vld = g.vld ∧ g'.vp = g.vp) ∧
  (∀ (g : Regs) (d r : BitVec 3) (b : Bool), d ≠ 0 → let g' := (Res.p d b).apply g
    g'.sp.getLsbD r.toNat = (if r = d then b else g.sp.getLsbD r.toNat) ∧ g'.s = g.s ∧ g'.v = g.v ∧ g'.vp = g.vp ∧ g'.c = g.c)

/-! ## Control flow (11 R264 to R268; 08 R195 to R197) -/

/-- Transfers of a slot in flight: a taken one whose target lies in the innermost active body, if there is one, makes the
bundle end at the target; BRC takes it by its condition; CALL also lands the unit after the bundle. A target outside the
innermost active body raises class 16 detail 1. -/
def Obligations.TransfersSetTheNextUnit : Prop :=
  (∀ (s : State) (f : Inflight) (o : SBr), s.k.t.fl = some f → s.guard o.g = true →
    let x := (BitVec.ofInt 64 (f.unit + o.off.toInt)).toNat
    exec (.br o) s = if inBody s x then .next (commit (takes s f x)) else traps s ⟨16, 1, 0, 0⟩) ∧
  (∀ (s : State) (f : Inflight) (o : SBrc), s.k.t.fl = some f → s.guard o.g = true →
    let x := (BitVec.ofInt 64 (f.unit + o.off.toInt)).toNat
    let a := (s.sR o.a).toInt
    let on := match o.cond with | .eqz => a = 0 | .nez => a ≠ 0 | .ltz => a < 0 | .gez => 0 ≤ a | .gtz => 0 < a | .lez => a ≤ 0
    (¬ on → exec (.brc o) s = .next (commit s)) ∧
    (on → exec (.brc o) s = if inBody s x then .next (commit (takes s f x)) else traps s ⟨16, 1, 0, 0⟩)) ∧
  (∀ (s : State) (f : Inflight) (o : SCall), s.k.t.fl = some f → s.guard o.g = true →
    let x := (BitVec.ofInt 64 (f.unit + o.off.toInt)).toNat
    exec (.call o) s = if inBody s x then lands (takes s f x) 1 (plain o.d (BitVec.ofNat 64 f.next)) else traps s ⟨16, 1, 0, 0⟩) ∧
  (∀ (s : State) (f : Inflight) (o : SRet), s.k.t.fl = some f → s.guard o.g = true →
    let x := (s.sR o.a).toNat
    exec (.ret o) s = if inBody s x then .next (commit (takes s f x)) else traps s ⟨16, 1, 0, 0⟩) ∧
  (∀ (s : State) (f : Inflight) (o : SJmpi), s.k.t.fl = some f → s.guard o.g = true →
    let x := (BitVec.ofInt 64 ((s.sR o.a).toInt + o.off.toInt)).toNat
    exec (.jmpi o) s = if inBody s x then .next (commit (takes s f x)) else traps s ⟨16, 1, 0, 0⟩)

/-- LOOP (11 R267): the checks, in order; a count of zero transfers past the body; otherwise the counter is bound to the body
that follows, pass 0 begins, and the start value lands in the index register after 1 cycle. LBREAK (11 R268): the innermost
counter is unbound, drains for a pre-emption no more, and the bundle ends after the body; under drain no new iteration starts, and one that an earlier drain
has stopped stays so. With no active loop around it, class 16
detail 1. The loop engine (08 R196): when execution reaches the end of the innermost body from inside it and no other loop
is active, the next pass begins at the body's start with its index and stage enables, or, after the last of N + NS - 1
passes, the counter is unbound and PC stands after the body. Stage k of pass p is enabled while iteration p - k exists. -/
def Obligations.LoopsBindAndRun : Prop :=
  (∀ (s : State) (f : Inflight) (o : SLoop), s.k.t.fl = some f → s.guard o.g = true →
    let n := (s.sR o.cnt).toNat % 2 ^ 32
    let len := o.blen.toNat
    let nests := ∀ j, innermost s.k.t f.unit = some j →
      (s.k.t.loops.get j).bstart ≤ f.next ∧ f.next + len ≤ (s.k.t.loops.get j).bstart + (s.k.t.loops.get j).blen
    (len = 0 ∨ codeLen s.k < f.next + len → exec (.loop o) s = traps s ⟨16, 2, 0, 0⟩) ∧
    (len ≠ 0 → f.next + len ≤ codeLen s.k → (s.k.t.loops.get o.lp.toFin).act = true ∨ ¬ nests →
      exec (.loop o) s = traps s ⟨16, 0, 0, 0⟩) ∧
    (len ≠ 0 → f.next + len ≤ codeLen s.k → (s.k.t.loops.get o.lp.toFin).act = false → nests →
      (n = 0 → exec (.loop o) s = .next (commit (takes s f (f.next + len)))) ∧
      (n ≠ 0 → ∃ t, exec (.loop o) s = .next t ∧ onlyCore s t ∧
        (let l := t.k.t.loops.get o.lp.toFin
         l.act = true ∧ l.n = n ∧ l.ns = o.stages.toNat + 1 ∧ l.start = s.sR o.start ∧ l.step = 1 ∧ l.pass = 0 ∧
         l.index = s.sR o.start ∧ l.bstart = f.next ∧ l.blen = len ∧ l.ireg = o.ireg) ∧
        (∀ j, j ≠ o.lp.toFin → t.k.t.loops.get j = s.k.t.loops.get j) ∧ t.k.t.pc = s.k.t.pc ∧ t.k.t.regs = s.k.t.regs ∧
        t.k.t.land = (if o.ireg = 0 then s.k.t.land else s.k.t.land ++ [⟨1, plain o.ireg (s.sR o.start)⟩])))) ∧
  ((∀ (s : State) (f : Inflight) (o : LGuard), s.k.t.fl = some f → s.guard o.g = true →
    (innermost s.k.t f.unit = none → exec (.lbreak o) s = traps s ⟨16, 1, 0, 0⟩ ∧ exec (.lbreakDrain o) s = traps s ⟨16, 1, 0, 0⟩) ∧
    (∀ i, innermost s.k.t f.unit = some i → let l := s.k.t.loops.get i
      (exec (.lbreak o) s = .next (commit (takes ((s.modT fun t =>
        { t with loops := t.loops.set i { l with act := false, lim := none, pre := false } }).modK fun k =>
          { k with draining := if trapMode k = false ∧ k.draining.map Prod.fst = some i.val then none else k.draining })
        f (l.bstart + l.blen)))) ∧
      (l.pre = false → exec (.lbreakDrain o) s = .next (commit (s.modT fun t =>
        { t with loops := t.loops.set i { l with lim := some (min (l.lim.getD (l.pass + 1)) (l.pass + 1)) } }))) ∧
      (l.pre = true → exec (.lbreakDrain o) s = .next (commit (s.modT fun t =>
        { t with loops := t.loops.set i { l with n := min l.n (l.lim.getD l.n) } }))))) ∧
  ((∀ (t : TState) (u : Nat) (i : Fin 4), (∀ j, j ≠ i → (t.loops.get j).act = false) →
    let l := t.loops.get i
    l.act = true → l.bstart ≤ u → u < l.bstart + l.blen → l.pre = false → l.tlevel = false → l.lim = none →
    let t' := arrive t u (l.bstart + l.blen)
    let l' := t'.loops.get i
    (l.pass + 1 < l.n + l.ns - 1 → t'.pc = l.bstart ∧ l'.act = true ∧ l'.pass = l.pass + 1 ∧
      l'.index = l.start + l.step * BitVec.ofNat 64 (l.pass + 1)) ∧
    (l.n + l.ns - 1 ≤ l.pass + 1 → t'.pc = l.bstart + l.blen ∧ l'.act = false)) ∧
  (∀ (l : Loop) (p k : Nat), k < 4 → (l.enables p).getLsbD k = decide (k < l.ns ∧ k ≤ p ∧ p - k < l.iters))))

/-! ## Capabilities and descriptors (11 R269 to R271; 01 R32) -/

/-- Derived capabilities: CNARROW adds to the base and replaces the length, CPERM masks the permissions, CMOV copies; the tag
survives exactly when the result stays inside its source. Reads of a capability, and the writes of descriptors: one word or
one capability of the descriptor named. -/
def Obligations.CapabilitiesDerivedAndRead : Prop :=
  ((∀ (s : State) (o : SNarrow), s.guard o.g = true → let a := s.cR o.a; let off := (s.sR o.off).toInt; let len := (s.sR o.len).toNat
    ∃ c : Cap, exec (.cnarrow o) s = lands s 1 (.c o.d c) ∧ c.perms = a.perms ∧ c.handle = a.handle ∧
      (c.base : Int) = ((a.base : Int) + off) % 2 ^ 57 ∧ c.len = len % 2 ^ 40 ∧
      (c.tag = true ↔ a.tag = true ∧ 0 ≤ off ∧ (a.base : Int) + off < 2 ^ 57 ∧ off + len ≤ (a.len : Int))) ∧
  (∀ (s : State) (o : SPerm), s.guard o.g = true → let a := s.cR o.a
    ∃ c : Cap, exec (.cperm o) s = lands s 1 (.c o.d c) ∧ c.perms = a.perms &&& o.mask ∧ c.handle = a.handle ∧ c.base = a.base ∧
      c.len = a.len ∧ c.tag = a.tag) ∧
  (∀ (s : State) (o : SCmov), s.guard o.g = true → exec (.cmov o) s = lands s 1 (.c o.d (s.cR o.a)))) ∧
  ((∀ (s : State) (o : SCget), s.guard o.g = true → let c := s.cR o.a
    exec (.cgetb o) s = lands s 1 (plain o.d (BitVec.ofNat 64 c.base)) ∧
    exec (.cgetl o) s = lands s 1 (plain o.d (BitVec.ofNat 64 c.len)) ∧
    exec (.cgeth o) s = lands s 1 (plain o.d (BitVec.ofNat 64
      (c.handle + c.perms.toNat * 2 ^ 24 + (if c.tag = true then 2 ^ 31 else 0))))) ∧
  (∀ (s : State) (o : SCtest), s.guard o.g = true → let c := s.cR o.a
    exec (.ctest o) s = lands s 1 (.p o.p (decide (c.tag = true ∧ c.perms &&& o.mask = o.mask)))) ∧
  (∀ (s : State) (o : MDescW), s.guard o.g = true → exec (.mdsetWord o) s = lands s 1 (.md o.d o.w (s.sR o.a))) ∧
  (∀ (s : State) (o : MDescC), s.guard o.g = true → exec (.mdsetCap o) s = lands s 1 (.mdc o.d (s.cR o.a))) ∧
  (∀ (s : State) (o : SDescW), s.guard o.g = true → exec (.cdsetWord o) s = lands s 1 (.cd o.d o.w (s.sR o.a))) ∧
  (∀ (s : State) (o : SDescC), s.guard o.g = true → exec (.cdsetCap o) s = lands s 1 (.cdc o.d o.dst (s.cR o.a))))

/-! ## System registers (11 R272, R273) -/

/-- MFSR lands the register it names, in a mode that may read it, SVAR and SCNT once no sampling operation is left; a user read
of a privileged register raises class 3 detail 1. COREID, DIEID and the loop registers read what they name. MTSR writes at
commit through the register's map: one register changes, a reserved rounding or dual code keeps its field, a register that
software does not write keeps its value. A user write of a register that is not user-writable raises class 3, detail 0 for
LEASE and 1 for the others (log 47). -/
def Obligations.SystemRegisters : Prop :=
  ((∀ (s : State) (o : SMfsr), s.guard o.g = true → let n := o.num.toNat
    (privMode s.k = false → userAcc n = .none → exec (.mfsr o) s = traps s ⟨3, 1, 0, 0⟩) ∧
    (privMode s.k = true ∨ userAcc n ≠ .none → (n = 0x26 ∨ n = 0x27 → samplingBusy s.k.mat = false) →
      exec (.mfsr o) s = lands s 1 (plain o.d (sysRead s.cur (s.die (coreDie s.cur)) s.k.t s.isys n)))) ∧
  (∀ (c : CoreId) (d : Die) (t : TState) (y : Sys) (i : Fin 4), sysRead c d t y 0x11 = BitVec.ofNat 64 c.val ∧
    sysRead c d t y 0x12 = BitVec.ofNat 64 (c.val / 36) ∧ sysRead c d t y (0x60 + i.val) = (t.loops.get i).index ∧
    sysRead c d t y (0x64 + i.val) = BitVec.ofNat 64 ((t.loops.get i).n % 2 ^ 32 * 2 ^ 32 + (t.loops.get i).pass % 2 ^ 32) ∧
    sysRead c d t y 0x00 = y.status ∧ sysRead c d t y 0x01 = y.cause ∧ sysRead c d t y 0x02 = y.epc ∧ sysRead c d t y 0x20 = y.fpctl)) ∧
  ((∀ (s : State) (o : SMtsr), s.guard o.g = true → let n := o.num.toNat
    (privMode s.k = false → userAcc n ≠ .rw → exec (.mtsr o) s = traps s ⟨3, if n = 0x2A then 0 else 1, 0, 0⟩) ∧
    (privMode s.k = true ∨ userAcc n = .rw → n ≠ 0x22 → n ≠ 0x28 → n ≠ 0x50 →
      exec (.mtsr o) s = .next (commit (s.modSys fun y => sysWrite y n (s.sR o.a)))) ∧
    (privMode s.k = true ∨ userAcc n = .rw → n = 0x22 → exec (.mtsr o) s = .next (commit (s.modT fun t =>
      let y := sysWrite t.sys n (s.sR o.a)
      clearShadows (kOf y) { t with sys := y }))) ∧
    (privMode s.k = true ∨ userAcc n = .rw → n = 0x28 → (∀ f ∈ s.k.t.frames.toList, f.f = false) →
      exec (.mtsr o) s = .next (commit (s.modT fun t =>
        { t with sys := sysWrite t.sys n (s.sR o.a), frames := Vector.replicate 256 Frame.invalid }))) ∧
    (privMode s.k = true → n = 0x50 → ∃ t, exec (.mtsr o) s = .next t ∧
      ∀ d, t.die d = { s.die d with rebal := s.sR o.a &&& 0xFFFF_0000_FFFF })) ∧
  (∀ (y : Sys) (x : Word),
    sysWrite y 0x20 x = { y with fpctl := if (x.extractLsb' 0 3).toNat < 5 then x &&& 0xFF else (x &&& 0xF8) ||| (y.fpctl &&& 7) } ∧
    sysWrite y 0x22 x = { y with dualctl := if (x.extractLsb' 0 3).toNat < 5 then x &&& 0x1F else (x &&& 0x18) ||| (y.dualctl &&& 7) } ∧
    sysWrite y 0x02 x = { y with epc := x &&& 0xFF_FFFF, slotres := y.slotres ||| (1#64 <<< 14) } ∧
    sysWrite y 0x2A x = { y with lease := x &&& 0xFF } ∧ sysWrite y 0x2E x = { y with wdog := x } ∧
    sysWrite y 0x00 x = y ∧ sysWrite y 0x01 x = y ∧ sysWrite y 0x11 x = y ∧ sysWrite y 0x12 x = y ∧ sysWrite y 0x60 x = y))

/-! ## Traps (16 R392 to R402; 11 R274, R275) -/

/-- TRAP n takes a fault of class 23 detail n, its own slot counting as committed. Trap entry of a task whose handler takes the
class, its frame being written (16 R399): CAUSE, EVA, EINFO, EPC and SLOTRES hold the fault and the point, STATUS saves the
mode and enters privileged trap mode, PC is 0, c0 is the frame, c1 the handler's capability, c2 and c3 are null, every other
register keeps its value, and the task's results, loads and loops are set aside. While the frame waits for its translation or
for room in the write queue, the entry waits and changes nothing of the task. Where the class does not enter, or the frame
cannot be written, the fault is marked grid-fatal and STATUS, PC and the registers stay (R395, R396). RETT (16 R401),
in privileged mode with no load or store of the handler left, no handler loop active and the frame readable: the scalar
registers, predicates and c0 to c3 come from the frame, STATUS restores the mode and leaves trap mode, PC is EPC, and the
task's pending results, loads and loops are what trap entry set aside, its loads that were answered meanwhile having landed.
In user mode it raises class 3 detail 0. -/
def Obligations.TrapsAndReturns : Prop :=
  ((∀ (s : State) (o : STrap), s.guard o.g = true →
    exec (.trap o) s = .next (takeFault s s.cur ⟨23, o.n.toNat, 0, 0⟩ (precisePoint s.k true))) ∧
  (∀ (s : State) (c : CoreId) (f : FaultRec) (p : TrapPoint) (t : Task), (s.core c).task = some t →
    let y := (s.core c).t.sys
    let g := (s.core c).t.regs
    let x := (takeFault s c f p).core c
    let at_ : Sys := { y with cause := BitVec.ofNat 64 (f.cls * 16 + f.det), eva := BitVec.ofNat 64 (f.eva % 2 ^ 57), einfo := f.einfo
                              epc := BitVec.ofNat 64 (p.unit % 2 ^ 24), slotres := slotresOf p.btgt p.se p.snap p.rem p.slot }
    let r := writeFrame (s.modCore c fun k => { k with frozen := false, walkAns := none, trap := none, t := { k.t with sys := at_ } }) c t
    (entersHandler (s.core c) f.cls = true → (∃ s1, r = .queued s1) →
      x.t.sys = { at_ with status := setBit (setBit (setBit y.status 2 (y.status.getLsbD 0)) 0 true) 1 true } ∧
      x.t.regs = { g with c := (((g.c.set 0 (Cap.mk' 0b1100000#7 0 512 (frameVa t c) true)).set 1 t.ctx.hdcap).set 2 Cap.null).set 3 Cap.null } ∧
      x.t.pc = 0 ∧ x.t.land = [] ∧ x.t.loads = [] ∧ x.t.fl = none ∧ (∀ i, x.t.loops.get i = Loop.unbound) ∧ x.t.fatal = (s.core c).t.fatal ∧
      x.trap = none ∧ ∃ a, x.t.aside = some a ∧ a.land = (s.core c).t.land ∧ a.loads = (s.core c).t.loads ∧ a.loops = (s.core c).t.loops ∧
        a.fl = p.fl) ∧
    (entersHandler (s.core c) f.cls = true → ∀ n, r = .wait n →
      takeFault s c f p = (s.noted n).modCore c fun k => { k with frozen := false, trap := some (f, p) }) ∧
    (entersHandler (s.core c) f.cls = false ∨ r = .fault →
      x.t.sys = at_ ∧ x.t.regs = g ∧ x.t.pc = (s.core c).t.pc ∧ x.t.fatal = some f ∧
      (takeFault s c f p).agenda = s.agenda ++ [⟨c, coreDie c, 0, 0, .gridFatalFault⟩]))) ∧
  ((∀ (s : State) (o : LGuard), s.guard o.g = true → privMode s.k = false → exec (.rett o) s = traps s ⟨3, 0, 0, 0⟩) ∧
  (∀ (s s1 : State) (o : LGuard) (t : Task) (g : Regs) (a : Aside), s.guard o.g = true → privMode s.k = true → s.k.t.loads = [] →
    s.k.wq = [] → s.k.task = some t → (∀ i, (s.k.t.loops.get i).act = false) →
    readFrame (s.modT landAll) s.cur (frameVa t s.cur) = .ok (s1, g) → (s1.core s.cur).t.aside = some a →
    ∃ t', exec (.rett o) s = .next t' ∧ (let x := (t'.core s.cur).t; let y := (s1.core s.cur).t.sys
      x.regs = a.arrived.foldl (fun g r => r.apply g) g ∧ x.land = a.land ∧ x.loads = a.loads ∧ x.loops = a.loops ∧ x.aside = none ∧
      x.pc = (y.epc.extractLsb' 0 24).toNat ∧ x.sys.status.getLsbD 0 = y.status.getLsbD 2 ∧ x.sys.status.getLsbD 1 = false ∧
      x.sys.epc = y.epc ∧ x.sys.cause = y.cause)))


/-! ## Transfer slot (11 R276, R277) -/

/-- XSV writes every lane with the low 32 bits of a scalar register; XSVL the lane XLANE.IN, XVS reads the lane XLANE.OUT, each
moving its field on when its increment bit is set; XSP and XPS move 64 predicate bits of the half H; XPSANY tells whether any
bit is set. Every result lands after 3 cycles. -/
def Obligations.TransferSlotMoves : Prop :=
  (∀ (s : State) (o : XReg), ∃ x t, exec (.xsv o) s = lands s 3 (.v (some o.v) none (BitVec.allOnes 128) x t) ∧
    ∀ i, i < 128 → lane x i = (s.sR o.s).toNat % 2 ^ 32) ∧
  (∀ (s : State) (o : XReg), let n := (s.isys.xlane.extractLsb' 0 7).toNat
    ∃ x t, lane x n = (s.sR o.s).toNat % 2 ^ 32 ∧
      (s.isys.xlane.getLsbD 7 = false → exec (.xsvl o) s = lands s 3 (.v (some o.v) none (1#128 <<< n) x t)) ∧
      (s.isys.xlane.getLsbD 7 = true → exec (.xsvl o) s = .next (commit ((s.land 3 (.v (some o.v) none (1#128 <<< n) x t)).modSys
        fun y => { y with xlane := (y.xlane &&& ~~~0x7F#64) ||| BitVec.ofNat 64 ((n + 1) % 128) })))) ∧
  (∀ (s : State) (o : XReg), let n := (s.isys.xlane.extractLsb' 8 7).toNat
    ∃ t, let r := Res.s o.s (BitVec.ofNat 64 (lane (s.iregs.v.get o.v.toFin) n)) t
      (s.isys.xlane.getLsbD 15 = false → exec (.xvs o) s = lands s 3 r) ∧
      (s.isys.xlane.getLsbD 15 = true → exec (.xvs o) s = .next (commit ((s.land 3 r).modSys
        fun y => { y with xlane := (y.xlane &&& ~~~0x7F00#64) ||| BitVec.ofNat 64 ((n + 1) % 128 * 256) })))) ∧
  (∀ (s : State) (o : XPred), ∃ en b, exec (.xsp o) s = lands s 3 (.vp o.p en b) ∧
    ∀ i, i < 128 → en.getLsbD i = decide (i / 64 = o.h.toNat) ∧ (i / 64 = o.h.toNat → b.getLsbD i = (s.sR o.s).getLsbD (i % 64))) ∧
  (∀ (s : State) (o : XPred), ∃ x : Word, exec (.xps o) s = lands s 3 (plain o.s x) ∧
    ∀ i, i < 64 → x.getLsbD i = (s.vP o.p).getLsbD (o.h.toNat * 64 + i)) ∧
  (∀ (s : State) (o : XAny), exec (.xpsAny o) s = lands s 3 (plain o.s (if s.vP o.p = 0 then 0 else 1)))

/-! ## Capability checks and translation (01 R31; 06 R150, R154, Table 6.7) -/

/-- The checks of an access through a capability, in the order of 01 Table 1.7: tag, permission, a negative offset, bounds; the
first that fails gives the detail of class 4, and none gives the virtual address base + offset. -/
def Obligations.CapabilityChecks : Prop :=
  ∀ (s : State) (c : Cap) (off : Int) (size : Nat),
    (c.tag = false → ∀ n, capCheck s c n off size = .error (.flt s false ⟨4, 0, 0, 0⟩)) ∧
    (c.tag = true →
      (c.perms.getLsbD 6 = false → capCheck s c .rd off size = .error (.flt s false ⟨4, 1, 0, 0⟩)) ∧
      (c.perms.getLsbD 5 = false → capCheck s c .wr off size = .error (.flt s false ⟨4, 2, 0, 0⟩)) ∧
      (c.perms.getLsbD 1 = false ∨ c.perms.getLsbD 6 = false ∨ c.perms.getLsbD 5 = false →
        capCheck s c .atm off size = .error (.flt s false ⟨4, 6, 0, 0⟩)) ∧
      (∀ n, permErr c.perms n = none →
        (off < 0 → capCheck s c n off size = .error (.flt s false ⟨4, 8, 0, 0⟩)) ∧
        (0 ≤ off → ((c.len : Int) < off + size ∨ (2 : Int) ^ 57 < c.base + off + size) →
          capCheck s c n off size = .error (.flt s false ⟨4, 9, 0, 0⟩)) ∧
        (0 ≤ off → off + size ≤ (c.len : Int) → c.base + off + size ≤ (2 : Int) ^ 57 →
          capCheck s c n off size = .ok ((c.base : Int) + off).toNat)))

/-- Translation of an access of the running core: a user access to the privileged half raises class 3 detail 2; a cached leaf
answers the frame's address plus the offset in the page, or the first failing check of Table 6.7 as class 5; a miss, or a
write through a leaf whose D is clear, queues a request at the die's walker and waits. -/
def Obligations.TranslatedAccess : Prop :=
  ∀ (s : State) (asid : Nat) (priv : Bool) (va : Nat) (n : Need),
    (priv = false → va / 2 ^ 56 % 2 = 1 → lsXlate s asid priv va n = .error (.flt s false ⟨3, 2, 0, 0⟩)) ∧
    (priv = true ∨ va / 2 ^ 56 % 2 = 0 → let a := if va / 2 ^ 56 % 2 = 1 then 0 else asid
      (∀ e, tlbFind s.k.tlb a va = some e →
        (priv = false → pteU e.pte = false → ∃ i, lsXlate s asid priv va n = .error (.flt s false ⟨5, 3, va, i⟩)) ∧
        (priv = true ∨ pteU e.pte = true → n.write = true → pteW e.pte = false →
          ∃ i, lsXlate s asid priv va n = .error (.flt s false ⟨5, 2, va, i⟩)) ∧
        (leafErr e.pte priv n = none → n.write = false ∨ pteD e.pte = true →
          lsXlate s asid priv va n = .ok (s, resolvePa (ptePa e.pte + va % 2 ^ e.bits), e.pte))) ∧
      (tlbFind s.k.tlb a va = none ∨
          (n.write = true ∧ ∃ e, tlbFind s.k.tlb a va = some e ∧ leafErr e.pte priv n = none ∧ pteD e.pte = false) →
        s.k.walkAns = none → let req : WalkReq := ⟨s.cur, a, va, s.isys.ptroot, priv, n⟩
        req ∉ (s.die (coreDie s.cur)).walkQ →
        lsXlate s asid priv va n = .error (.freeze (s.modDie (coreDie s.cur) fun d => { d with walkQ := d.walkQ ++ [req] }))))

/-- PAGE_WALK: the oldest miss queued at a die's walker is walked, and every queued miss of its ASID and page joins its walk.
Each takes the leaf: its core's TLB holds it, or its core is told the check that fails, or it stays queued while the leaf's
entry waits. A failed walk is told to every core that joined; one whose table waits goes behind the other misses. No task
state changes. -/
def Obligations.PageWalkServesOldestMiss : Prop :=
  (∀ (s : State) (w : WalkReq) (q : List WalkReq), (s.die s.dsel).walkQ = w :: q →
    let joins : WalkReq → Bool := fun x => x.asid == w.asid && x.va / 4096 == w.va / 4096
    let who := (w :: q).filter joins
    let left := q.filter fun x => !joins x
    (∀ s1 x, walk s s.dsel w.asid w.ptroot w.va = .ok (s1, x) →
      exec .pageWalk s = .next (who.foldl (joinWalk s.dsel x) (s1.modDie s.dsel fun y => { y with walkQ := left })) ∧
      ∀ c, (s1.core c).t = (s.core c).t) ∧
    (∀ n det lvl, walk s s.dsel w.asid w.ptroot w.va = .error (.bad n det lvl) →
      ∃ t, exec .pageWalk s = .next t ∧ (t.die s.dsel).walkQ = left ∧ (∀ c, (t.core c).t = (s.core c).t) ∧
        ∀ r ∈ who, ∃ x ∈ who, x.core = r.core ∧ (t.core r.core).walkAns = some ⟨x, det, lvl⟩) ∧
    (∀ n, walk s s.dsel w.asid w.ptroot w.va = .error (.wait n) →
      exec .pageWalk s = .next ((s.noted n).modDie s.dsel fun y => { y with walkQ := left ++ who }))) ∧
  (∀ (s : State) (d : DieId) (x : Leaf) (q : WalkReq), let t := joinWalk d x s q
    (∀ c, (t.core c).t = (s.core c).t) ∧
    (∀ s1 p, useLeaf s d x q.priv q.need = .ok (s1, p) → tlbEnt q.asid q.va p x.bits ∈ (t.core q.core).tlb) ∧
    (∀ n det lvl, useLeaf s d x q.priv q.need = .error (.bad n det lvl) → (t.core q.core).walkAns = some ⟨q, det, lvl⟩) ∧
    (∀ n, useLeaf s d x q.priv q.need = .error (.wait n) → q ∈ (t.die d).walkQ))

/-! ## Loads (13 R317 to R324) -/

/-- A load whose capability, pieces and targets pass their checks joins the pending loads with the physical runs it will read,
behind the stores now queued, and nothing else changes: byte to 64-bit loads, LDV, LDVU (to a register, or to a stream that
takes a push) and CLD. That a push is checked when LDVU issues is the model's choice (log 53). LDV with conversion, its record
engaged and its checks passed, joins the pending loads with the record, the element, the place of its data in the copy committed
now, the places of its tangent planes, and the mode it will decode by. -/
def Obligations.LoadsIssue : Prop :=
  ((∀ (s : State) (o : LScal) (i : Instr) (n : Nat) (sx : Bool),
    (i, n, sx) ∈ [(.ldI8 o, 1, true), (.ldN8 o, 1, false), (.ldI16 o, 2, true), (.ldN16 o, 2, false), (.ldI32 o, 4, true),
      (.ldN32 o, 4, false), (.ldI64 o, 8, true)] →
    s.guard o.g = true → let c := s.cR o.m.cap; let off := (s.sR o.m.idx).toInt + o.m.imm.toInt * n; let va := ((c.base : Int) + off).toNat
    capErr c .rd off n = none → ∀ s1 ps xs, loadPieces s c va n = .ok (s1, ps) → xlatePieces s1 false (mmioFit va n) ps = .ok xs →
      exec i s = .next (commit (pushLoad s1 (.s o.d n sx) (xs.flatMap fun x => cutLines x.2.1 x.1.len) va none))) ∧
  (∀ (s : State) (o : LVec), s.guard o.g = true →
    let c := s.cR o.m.cap; let off := (s.sR o.m.idx).toInt + o.m.imm.toInt * 64; let va := ((c.base : Int) + off).toNat
    capErr c .rd off 512 = none → (va % 512 ≠ 0 → exec (.ldv o) s = traps s ⟨6, 0, va, 0⟩) ∧
    (va % 512 = 0 → ∀ s1 ps xs, loadPieces s c va 512 = .ok (s1, ps) → xlatePieces s1 false false ps = .ok xs →
      exec (.ldv o) s = .next (commit (pushLoad s1 (.v o.d) (xs.flatMap fun x => cutLines x.2.1 x.1.len) va none)))) ∧
  (∀ (s : State) (o : LVecU), s.guard o.g = true →
    let c := s.cR o.m.cap; let off := (s.sR o.m.idx).toInt + o.m.imm.toInt; let va := ((c.base : Int) + off).toNat
    capErr c .rd off 512 = none →
    (o.d = .latch → exec (.ldvu o) s = traps s ⟨1, s.slotNo 1, 0, 1⟩) ∧
    ∀ d, (∃ r, o.d = .reg r ∧ d = .v r) ∨ (∃ q s2, o.d = .push q ∧ pushRow s q 0 = .ok s2 ∧ d = .push q) →
    ∀ s1 ps xs, loadPieces s c va 512 = .ok (s1, ps) → xlatePieces s1 false false ps = .ok xs →
      exec (.ldvu o) s = .next (commit (pushLoad s1 d (xs.flatMap fun x => cutLines x.2.1 x.1.len) va none))) ∧
  (∀ (s : State) (o : LCap), s.guard o.g = true →
    let c := s.cR o.m.cap; let off := (s.sR o.m.idx).toInt + o.m.imm.toInt * 16; let va := ((c.base : Int) + off).toNat
    capErr c .rd off 16 = none → (va % 16 ≠ 0 → exec (.cld o) s = traps s ⟨4, 12, 0, 0⟩) ∧
    (va % 16 = 0 → ∀ s1 ps xs, loadPieces s c va 16 = .ok (s1, ps) → xlatePieces s1 false false ps true = .ok xs →
      exec (.cld o) s = .next (commit (pushLoad s1 (.c o.c) (xs.flatMap fun x => cutLines x.2.1 x.1.len) va none)))) ∧
  (∀ (s : State) (c : Cap) (va n pa : Nat) (w mm : Bool) (pte : BitVec 64), c.handle = 0 → 0 < n → va % 4096 + n ≤ 4096 →
    lsXlate s s.lsAsid (privMode s.k) va ⟨w, false, false⟩ = .ok (s, pa, pte) →
    (∀ l ∈ cutLines pa n, lsTarget s l.1 (va + (l.1 - pa)) mm (!w) = .ok ()) →
    loadPieces s c va n = .ok (s, plainPieces va n) ∧ xlatePieces s w mm (plainPieces va n) = .ok [(⟨va, n, va, false, none⟩, pa, pte)])) ∧
  (∀ (s s1 : State) (o : LVecCvt) (r : RecRef) (va e0 : Nat) (w : BitVec 1024), s.guard o.g = true → let c := s.cR o.m.cap
    cvtCheck s c .rd ((s.sR o.m.idx).toInt + o.m.imm.toInt * 64) = .ok (s1, r, va, e0) → slotRand s1 o.rm = .ok w →
    let g := e0 / r.w.perGran
    ∀ s2 sh b s3 t, gvOp s1 c.handle va (s1.gvOf.committed s1 r g) = .ok (s2, sh, b) →
    gvOp s2 c.handle va (s2.gvOf.tag s2 r sh g) = .ok (s3, t) →
    let f := recFmt (r.w.sfmt t)
    let q : Piece := ⟨va, if f = .mxf4 then 64 else 128 * r.w.pitch, granVa r sh g + elByte f r.w.pitch e0, sh, some g⟩
    ∀ pa pte px, xlatePieces s3 false false [q] = .ok [(q, pa, pte)] →
    (planeRuns r e0 (if s3.dual then s3.dk else 0)).mapM (fun p => lookRun s3 false true p.2) = .ok px →
    exec (.ldvCvt o) s = .next (commit (pushLoad (takeRand s3 o.rm) (.v o.d) [] va
      (some ⟨c.handle, r.va, r.pa, e0, pa / 4096 * 4096, sh, px.map fun l => l.map fun x => (x.2.1, x.1.len), s3.mode o.rm, o.sat, s3.ftz, w⟩))))

/-- LOAD_VALUE_ARRIVAL of the oldest load (a core's loads have their values oldest first: the model's choice, log 8), one run
inside a line: its bytes come from the youngest older store that covers it,
or from the line in the L1, owned or leased in time, once no older store is left; the value lands at once in the register
named, and memory does not change. A row that has arrived whole for a push enters its stream (the model's choice, log 53). LS_HOME_REQUEST: the line's
home, reached, installs the line in the running core's L1, where a way of its set is free of pins, owned for a store, leased
for a load, with the bytes and tags the home holds after recalling its owner. -/
def Obligations.LoadsComplete : Prop :=
  ((∀ (s : State) (l : PLoad) (rest : List PLoad) (e : WEntry) (pa n : Nat), s.k.t.aside = none → s.k.t.loads = l :: rest →
    l.cvt = none → l.segs = [(pa, n)] → forwardOf s.k l = some e →
    ∀ r, loadRes l.dst (lineBytes e.data (pa % 128) n) (e.tags.getLsbD (pa % 128 / 16)) = some r →
    ∃ t, exec .loadValueArrival s = .next t ∧ onlyCore s t ∧ t.k.t.loads = rest ∧ t.k.wq = s.k.wq ∧
      t.k.t.regs = r.apply s.k.t.regs) ∧
  (∀ (s : State) (l : PLoad) (rest : List PLoad) (x : L1Line) (pa n : Nat) (d : DieId), s.k.t.aside = none → s.k.t.loads = l :: rest →
    l.cvt = none → l.segs = [(pa, n)] → l.got = [] → l.older = 0 → target pa = .dev d → Sparse.get false s.poison (pa / 128) = false →
    findL1 s.k (pa / 128) = some x → x.owned = true ∨ s.k.pts ≤ x.lend →
    ∀ r, loadRes l.dst (lineBytes x.data (pa % 128) n) (x.tags.getLsbD (pa % 128 / 16)) = some r →
    ∃ t, exec .loadValueArrival s = .next t ∧ onlyCore s t ∧ t.k.t.loads = rest ∧ t.k.pts = max s.k.pts x.wts ∧
      t.k.l1 = s.k.l1 ∧ t.mem = s.mem ∧ t.k.t.regs = r.apply s.k.t.regs) ∧
  (∀ (s s1 : State) (l : PLoad) (rest : List PLoad) (q : BitVec 4), s.k.t.aside = none → s.k.t.loads = l :: rest → l.cvt = none →
    l.segs = [] → l.older = 0 → l.dst = .push q → pushRow s q (bytesRow l.got) = .ok s1 →
    ∃ t, exec .loadValueArrival s = .next t ∧ onlyCore s t ∧ t.k.t.loads = rest ∧ t.k.t.streams = s1.k.t.streams ∧
      t.k.t.regs = s.k.t.regs) ∧
  (∀ (r : SReg) (n : Nat) (sx : Bool) (bs : List Byte) (tag : Bool), bs.length = n → 0 < n →
    ∃ x : Word, loadRes (.s r n sx) bs tag = some (plain r x) ∧
      (∀ i b, bs[i]? = some b → i < 8 → x.extractLsb' (8 * i) 8 = b) ∧
      (∀ i, 8 * n ≤ i → i < 64 → x.getLsbD i = (sx && (bs.getLastD 0).getLsbD 7)))) ∧
  (∀ (s s1 : State) (line : Nat) (own : Bool), findL1 s.k line = none → homePrep s (coreDie s.cur) (line * 128) = .ok s1 →
    findL1 (s1.core s.cur) line = none → Sparse.get 0 s1.hostHeld line = 0 →
    (∃ w, w < 16 ∧ allotted (s1.core s.cur) (l1Set line) w = false ∧
      ∀ l ∈ (s1.core s.cur).l1, l1Set l.line = l1Set line → l.way = w → pinned (s1.core s.cur) l.line = false) →
    ∃ t x, exec (.lsHomeRequest line own) s = .next t ∧ findL1 t.k line = some x ∧ x.owned = own ∧ x.dirty = false ∧
      x.data = lineData (recallOwner s1 line) line ∧ x.tags = lineTags (recallOwner s1 line) line ∧
      (∀ c, (t.core c).t.regs = (s.core c).t.regs ∧ (t.core c).t.sys = (s.core c).t.sys ∧ (t.core c).t.pc = (s.core c).t.pc ∧
        (t.core c).t.land = (s.core c).t.land) ∧ ∀ c, own = true ∨ c ≠ s.cur → (t.core c).t = (s.core c).t)

/-! ## Stores (13 R319 to R324; 04 R101 to R104) -/

/-- A store whose capability passes its check queues the bytes of its source, from the address computed, and commits: the
integer stores, STV, STVM and CST. Memory and every register stay as they were. What a store queues when its capability
names no record: one entry for each line of each translated piece, holding the piece's bytes at the physical address
computed; no other part of the state changes, and every byte of memory reads as before. It waits while more than 32 entries
would stand in the queue. STV with conversion (13 R322), its record engaged, its random word in, its places translated, its
granule readied, its statistics and norms taken, queues its data, block scales, boundary bits and tangent planes. WRITE_QUEUE_DRAIN of the oldest entry, alone in its group, on a line its core owns, every load
older than it having its value: the line takes the entry's masked bytes and no others, its tags those of the granules
written, and a timestamp above the line's lease; the entry leaves the queue; no other line, and no byte of memory, changes. -/
def Obligations.StoresIssueAndDrain : Prop :=
  (((∀ (s t : State) (o : LScal) (i : Instr) (n : Nat),
    (i, n) ∈ [(.stI8 o, 1), (.stI16 o, 2), (.stI32 o, 4), (.stI64 o, 8)] →
    s.guard o.g = true → let c := s.cR o.m.cap; let off := (s.sR o.m.idx).toInt + o.m.imm.toInt * n; let va := ((c.base : Int) + off).toNat
    capErr c .wr off n = none → lsStore s c [(va, bitsBytes n (s.sR o.d))] false false (mmioFit va n) = .ok t →
      exec i s = .next (commit t)) ∧
  (∀ (s t : State) (o : LStv), s.guard o.g = true →
    let c := s.cR o.m.cap; let off := (s.sR o.m.idx).toInt + o.m.imm.toInt * 64; let va := ((c.base : Int) + off).toNat
    capErr c .wr off 512 = none → (va % 512 ≠ 0 → exec (.stv o) s = traps s ⟨6, 0, va, 0⟩) ∧
    (va % 512 = 0 → lsStore s c [(va, bitsBytes 512 (s.memV o.src).x)] true true = .ok t → exec (.stv o) s = .next (commit t))) ∧
  (∀ (s s1 t : State) (o : LStvm) (x : VIn) (w : BitVec 1024), s.guard o.g = true → gather s [o.src] false = .ok (s1, [x], w) →
    let c := s1.cR o.m.cap
    let vm := s1.iregs.v.get o.vm.toFin
    let runs := runsOf (fun b => (lane vm (b / 4)).testBit (b % 4)) 512 0
    (runs = [] → exec (.stvm o) s = .next (commit s1)) ∧
    (∀ f l, runs.head? = some f → runs.getLast? = some l →
      let off := (s1.sR o.m.idx).toInt + o.m.imm.toInt + f.1; let va := ((c.base : Int) + off).toNat
      capErr c .wr off (l.1 + l.2 - f.1) = none →
      lsStore s1 c (runs.map fun r => (va + (r.1 - f.1), (List.range r.2).map fun i => BitVec.ofNat 8 (rowByte x.x (r.1 + i))))
        true false = .ok t → exec (.stvm o) s = .next (commit t))) ∧
  (∀ (s t : State) (o : LCap), s.guard o.g = true →
    let c := s.cR o.m.cap; let off := (s.sR o.m.idx).toInt + o.m.imm.toInt * 16; let va := ((c.base : Int) + off).toNat
    capErr c .wr off 16 = none → (va % 16 ≠ 0 → c.handle = 0 → exec (.cst o) s = traps s ⟨4, 12, 0, 0⟩) ∧
    (lsStore s c [(va, bitsBytes 16 (s.cR o.c).bits)] false false false (some (s.cR o.c).tag) = .ok t →
      exec (.cst o) s = .next (commit t))) ∧
  (∀ (s s1 s2 s3 s4 s6 : State) (o : LStvCvt) (r r1 : RecRef) (va e0 ov : Nat) (w : BitVec 1024) (ps : List Piece)
      (xs : List (Piece × Nat × BitVec 64)) (pl : StvPlaces) (b : Bool) (k : Core),
    s.guard o.g = true → let c := s.cR o.m.cap
    cvtCheck s c .wr ((s.sR o.m.idx).toInt + o.m.imm.toInt * 64) = .ok (s1, r, va, e0) →
    (recFmt r.w.fmt = .ps2 → s1.usesSR o.rm = false) → slotRand s1 o.rm = .ok w →
    gvOp s1 c.handle va (recPieces s1.gvOf s1 r true va (128 * r.w.pitch)) = .ok (s2, ps) → xlatePieces s2 true false ps = .ok xs →
    let enc := stvEnc s1 o r e0 w
    let g := (va - r.w.dbase) / 4096
    let sh := ps.any fun q => q.rb
    let runs := stvRuns s2 o r e0 g sh enc.2
    stvPlaces s2 sh runs = .ok pl → gvOp s2 c.handle va (s1.gvOf.readyWrite s2 r g false) = .ok (s3, r1, b) →
    (r.w.auto = false → s4 = s3 ∧ ov = 0) →
    (r.w.auto = true → ∃ pol, gvOp s2 c.handle va (s1.gvOf.policy s3 r) = .ok (s4, pol) ∧ ov = polOvlim pol) →
    statStore s2.k s1.gvOf.ctx (taskUid s2.k) r ov enc.1 enc.2.els = .ok k →
    let s5 := s4.modK fun k4 => { k4 with stats := k.stats, wgrp := k4.wgrp + 1 }
    gvOp s2 c.handle va (s1.gvOf.addNorms s5 r1 e0 (encValues (recFmt r.w.fmt) enc.2)) = .ok s6 →
    let s7 := takeRand (stepWrite s6 s1.gvOf.ctx.asid r1 enc.1 enc.2.els) o.rm
    let q := enqueueStore s7.k (stvEntries s5.k.wgrp runs pl)
    q.wq.length ≤ 32 → exec (.stvCvt o) s = .next (commit (s7.setCore s7.cur q)))) ∧
  ((∀ (s : State) (c : Cap) (va : Nat) (bs : List Byte) (vec bo mm : Bool) (cap : Option Bool) (xs : List (Piece × Nat × BitVec 64)),
    c.handle = 0 → (cap.isSome = true → va % 16 = 0) → xlatePieces s true mm (plainPieces va bs.length) cap.isSome = .ok xs →
    let es := joinLines (xs.flatMap fun x => (cutLines x.2.1 x.1.len).map fun l =>
      entryOf l.1 (runBytes [(va, bs)] (x.1.va + (l.1 - x.2.1)) l.2) (cap.getD false) 0 (x.1.va + (l.1 - x.2.1)))
    lsStore s c [(va, bs)] vec bo mm cap = (if 32 < (enqueueStore s.k es).wq.length then .error (.freeze s)
      else .ok (s.setCore s.cur (enqueueStore s.k es)))) ∧
  (∀ (k : Core) (es : List WEntry), let q := enqueueStore k es
    q.t = k.t ∧ q.l1 = k.l1 ∧ q.pts = k.pts ∧
    (q.wq = k.wq ++ es ∨ ∃ e l y, es = [e] ∧ k.wq = l ++ [y] ∧ y.line = e.line ∧
      q.wq = l ++ [{ y with data := mergeLine y.data e.data e.mask, mask := y.mask ||| e.mask
                            tags := (y.tags &&& ~~~maskGranules e.mask) ||| (e.tags &&& maskGranules e.mask) }])) ∧
  (∀ es : List WEntry, es.Pairwise (fun a b => a.line ≠ b.line) → joinLines es = es) ∧
  (∀ (pa : Nat) (bs : List Byte) (tag : Bool) (g va : Nat), pa % 128 + bs.length ≤ 128 → let e := entryOf pa bs tag g va
    e.line = pa / 128 ∧ ∀ j, j < 128 → e.mask.getLsbD j = decide (pa % 128 ≤ j ∧ j < pa % 128 + bs.length) ∧
      (∀ b, pa % 128 ≤ j → bs[j - pa % 128]? = some b → e.data.extractLsb' (8 * j) 8 = b)))) ∧
  (∀ (s : State) (e : WEntry) (rest : List WEntry) (l : L1Line) (d : DieId), s.k.wq = e :: rest → e.group = 0 →
    (∀ x ∈ allLoads s.k, x.older ≠ 0) → target (e.line * 128) = .dev d → findL1 s.k e.line = some l → l.owned = true →
    ∃ t l', exec .writeQueueDrain s = .next t ∧ onlyCore s t ∧ t.mem = s.mem ∧ t.k.wq = rest ∧ findL1 t.k e.line = some l' ∧
      (∀ j, j < 128 → l'.data.extractLsb' (8 * j) 8 = if e.mask.getLsbD j = true then e.data.extractLsb' (8 * j) 8
        else l.data.extractLsb' (8 * j) 8) ∧
      l'.tags = (l.tags &&& ~~~maskGranules e.mask) ||| (e.tags &&& maskGranules e.mask) ∧ l'.dirty = true ∧ l'.owned = true ∧
      l'.wts = max s.k.pts (l.rts + 1) ∧ t.k.pts = l'.wts ∧ (∀ n, n ≠ e.line → findL1 t.k n = findL1 s.k n) ∧
      t.k.t.regs = s.k.t.regs)

/-! ## Atomics (07 R178 to R180; 13 R328, R329) -/

/-- An atomic (each of AMOADD, AMOMIN, AMOMAX, AMOMINN, AMOMAXN, AMOAND, AMOOR, AMOXOR, AMOSWP, AMOCAS in 32 and 64 bits,
AMOFADD.F32, AMOBADD.I32, AMOBADD.I64) through a capability without a record, its line in plain memory and its core's older
accesses done, is sent with its operands cut to the width, and its slot waits; misaligned, it raises class 17 detail 0. An
atomic whose response is in completes: the old value stands in its destination, the core's timestamp is not below the home's,
and nothing outside the core changes; one whose response is lost raises class 17 detail 2. SIGNAL and EVINIT name an event
below ETCNT.COUNT, else class 14 detail 0; they are sent, and complete, in the same way and write no register.
ATOMIC_AT_HOME applies the operation once: the old value is read at the home and remembered there, the new one, if there is
one, written (a compare-and-swap through a record readies its granule for that), and the issuer's own copy of the line goes;
SIGNAL and EVINIT act on their event entry; an operation the home has applied is not applied again.
ATOMIC_RESPONSE_ARRIVAL then answers, or reports the loss when the route has failed. The new values are those of 13 Table
13.3, at either width. -/
def Obligations.AtomicsSentServedAndAnswered : Prop :=
  ((∀ (s : State) (o : LAtom) (i : Instr) (op : AmoOp) (wide : Bool), (i, op, wide) ∈ atomicForms o → s.guard o.g = true →
    s.k.atom = none → let n : Nat := if wide then 8 else 4
    let c := s.cR o.m.cap; let off := (s.sR o.m.idx).toInt + o.m.imm.toInt * n; let va := ((c.base : Int) + off).toNat
    capErr c .atm off n = none → c.handle = 0 → (va % n ≠ 0 → exec i s = traps s ⟨17, 0, 0, 0⟩) ∧
    (va % n = 0 → ∀ pa pte d, lsXlate s s.lsAsid (privMode s.k) va ⟨true, false, false⟩ = .ok (s, pa, pte) →
      va % 4096 + n ≤ 4096 → target pa = .dev d → lsQuiet s.k = true →
      let a : Atomic := { op := op, wide := wide, pa := pa, va := va, v := BitVec.ofNat 64 ((s.sR o.b).toNat % 2 ^ (8 * n))
                          c := BitVec.ofNat 64 ((s.sR o.d).toNat % 2 ^ (8 * n)), ftz := s.ftz, tx := s.k.txn, phase := .sent }
      exec i s = .next (hold (s.modK fun k => { k with txn := (k.txn + 1) % 1024, atom := some a })))) ∧
  (∀ (s : State) (o : LEvReg) (i : Instr) (op : AmoOp) (v : Word), s.guard o.g = true → s.k.atom = none →
    let n := (s.evOp o.e).toNat
    let va := evVa s.k.ctx n
    let cnt := if o.d = 0 then 1#64 else s.sR o.d
    (i, op, v) ∈ [(.signal o, .signal, cnt), (.evinit o, .evinit, s.sR o.d &&& 0xFFFF_FFFF)] →
    ((s.isys.etcnt.extractLsb' 0 17).toNat ≤ n → exec i s = traps s ⟨14, 0, 0, 0⟩) ∧
    (n < (s.isys.etcnt.extractLsb' 0 17).toNat →
      (op = .signal → cnt.toNat = 0 ∨ 2 ^ 31 ≤ cnt.toNat → exec i s = traps s ⟨1, s.slotNo 1, 0, 5⟩) ∧
      ((op = .signal → 0 < cnt.toNat ∧ cnt.toNat < 2 ^ 31) →
        ∀ pa pte d, lsXlate s 0 true va ⟨true, false, false⟩ = .ok (s, pa, pte) → target pa = .dev d → lsQuiet s.k = true →
        let a : Atomic := { op := op, wide := true, pa := pa, va := va, v := v, c := BitVec.ofNat 64 n, ftz := false, tx := s.k.txn
                            phase := .sent }
        exec i s = .next (hold (s.modK fun k => { k with txn := (k.txn + 1) % 1024, atom := some a })))))) ∧
  ((∀ (s : State) (o : LAtom) (i : Instr) (op : AmoOp) (wide : Bool) (a : Atomic) (old : Word) (ts : Nat),
    (i, op, wide) ∈ atomicForms o → s.guard o.g = true → s.k.atom = some a → a.phase = .answered old ts →
    ∃ t, exec i s = .next (commit t) ∧ onlyCore s t ∧ t.k.t.regs = (plain o.d old).apply s.k.t.regs ∧ t.k.atom = none ∧
      t.k.pts = max s.k.pts ts ∧ t.k.l1 = s.k.l1 ∧ t.k.wq = s.k.wq ∧ t.k.t.sys = s.k.t.sys ∧ t.k.t.land = s.k.t.land) ∧
  (∀ (s : State) (o : LEvReg) (i : Instr) (a : Atomic) (old : Word) (ts : Nat), i = .signal o ∨ i = .evinit o → s.guard o.g = true →
    s.k.atom = some a → a.phase = .answered old ts →
    exec i s = .next (commit (s.modK fun k => { k with atom := none, pts := max k.pts ts }))) ∧
  (∀ (s : State) (i : Instr) (a : Atomic), (∃ o, s.guard o.g = true ∧ ∃ x ∈ atomicForms o, x.1 = i) ∨
      (∃ o : LEvReg, s.guard o.g = true ∧ (i = .signal o ∨ i = .evinit o)) →
    s.k.atom = some a → a.phase = .lost → let s1 := s.modK fun k => { k with atom := none }
    exec i s = .next (takeFault s1 s1.cur ⟨17, 2, a.va, 0⟩ (precisePoint s1.k false)))) ∧
  ((∀ (s sr s1 : State) (a : Atomic) (bs : List Byte), s.k.atom = some a → a.phase = .sent →
    let h := homeDie s (coreDie s.cur) a.pa
    let n : Nat := if a.wide then 8 else 4
    let old := BitVec.ofNat 64 (bytesToNat bs)
    let new := amoNew a.op (8 * n) (bytesToNat bs) a.v.toNat a.c.toNat a.ftz
    applied? s h s.cur a.tx = none → a.op ≠ .signal → a.op ≠ .evinit → Sparse.get false s.poison (a.pa / 128) = false →
    readyAtom s s.cur a = .ok sr → homeRead sr (coreDie s.cur) a.pa n = .ok (s1, bs) →
    (∀ x s2 ts, new = some x → homeWrite s1 (coreDie s.cur) a.pa (natToBytes n x) s.k.pts = .ok (s2, ts) →
      exec .atomicAtHome s = .next (remember (s2.modK fun k => dropL1 k (a.pa / 128)) ⟨h, s.cur, a.tx, old, ts⟩)) ∧
    (∀ s2 b2, new = none → homeRead s (coreDie s.cur) a.pa n = .ok (s2, b2) →
      let ts := max s.k.pts ((lineSt s2 (a.pa / 128)).rts + 1)
      exec .atomicAtHome s = .next (remember ((setLineSt s2 (a.pa / 128) ⟨ts, ts, none⟩).modK fun k => dropL1 k (a.pa / 128))
        ⟨h, s.cur, a.tx, old, ts⟩))) ∧
  (∀ (s : State) (a : Atomic), a.gran = none → readyAtom s s.cur a = .ok s) ∧
  (∀ (s : State) (a : Atomic) (e : Applied), s.k.atom = some a → applied? s (homeDie s (coreDie s.cur) a.pa) s.cur a.tx = some e →
    exec .atomicAtHome s = .next s) ∧
  (∀ (s s1 : State) (a : Atomic) (ts : Nat), s.k.atom = some a → a.phase = .sent →
    let h := homeDie s (coreDie s.cur) a.pa
    let v : EvAt := ⟨coreDie s.cur, s.k.ctx, s.k.pts⟩
    applied? s h s.cur a.tx = none →
    (a.op = .signal ∧ v.signal s a.c.toNat a.v.toNat = .ok (s1, ts)) ∨
      (a.op = .evinit ∧ v.init s a.c.toNat (NumFmt.toSigned 32 a.v.toNat) = .ok (s1, ts)) →
    exec .atomicAtHome s = .next (remember (s1.modK fun k => dropL1 k (a.pa / 128)) ⟨h, s.cur, a.tx, 0, ts⟩)) ∧
  (∀ (s : State) (a : Atomic) (e : Applied), s.k.atom = some a → a.phase = .sent →
    applied? s (homeDie s (coreDie s.cur) a.pa) s.cur a.tx = some e →
    (routeErr s (coreDie s.cur) e.home false = none →
      exec .atomicResponseArrival s = .next (s.modK fun k => { k with atom := some { a with phase := .answered e.old e.ts } })) ∧
    (∀ x, routeErr s (coreDie s.cur) e.home false = some x →
      exec .atomicResponseArrival s = .next (s.modK fun k => { k with atom := some { a with phase := .lost } }))) ∧
  (∀ (x v c : BitVec 32) (f : Bool), let r := fun op => amoNew op 32 x.toNat v.toNat c.toNat f
    r .add = some (x + v).toNat ∧ r .min = some (if v.slt x then v else x).toNat ∧ r .max = some (if x.slt v then v else x).toNat ∧
    r .minn = some (min x.toNat v.toNat) ∧ r .maxn = some (max x.toNat v.toNat) ∧ r .and = some (x &&& v).toNat ∧
    r .or = some (x ||| v).toNat ∧ r .xor = some (x ^^^ v).toNat ∧ r .swp = some v.toNat ∧
    r .cas = if x = c then some v.toNat else none) ∧
  (∀ (x v c : BitVec 64) (f : Bool), let r := fun op => amoNew op 64 x.toNat v.toNat c.toNat f
    r .add = some (x + v).toNat ∧ r .min = some (if v.slt x then v else x).toNat ∧ r .max = some (if x.slt v then v else x).toNat ∧
    r .minn = some (min x.toNat v.toNat) ∧ r .maxn = some (max x.toNat v.toNat) ∧ r .and = some (x &&& v).toNat ∧
    r .or = some (x ||| v).toNat ∧ r .xor = some (x ^^^ v).toNat ∧ r .swp = some v.toNat ∧
    r .cas = if x = c then some v.toNat else none) ∧
  (∀ (x v c : Nat) (f : Bool), amoNew .fadd 32 x v c f = some (NumFmt.arith .f32 .rne false f 0
    (NumFmt.sum false [NumFmt.decode .f32 x, NumFmt.decode .f32 v]))) ∧
  (∀ (w x v c : Nat) (f : Bool), w = 32 ∨ w = 64 → ∃ y, amoNew .badd w x v c f = some y ∧ y < 2 ^ w ∧ ∀ j, j < w / 16 →
    elem 16 y j = NumFmt.arith .bf16 .rne false f 0
      (NumFmt.sum false [NumFmt.decode .bf16 (elem 16 x j), NumFmt.decode .bf16 (elem 16 v j)]) % 2 ^ 16))


/-! ## Fences and translation shoot-down (07 R169 to R171; 06 R157 to R160) -/

/-- PFENCE: an empty set, a reserved scope or a host class outside the widest scope raises class 18 with its detail; with its
predecessors done and no collective of the core in fault it commits: an LS successor raises the core's timestamp over its
predecessors' and over its scope's caches, a GV successor drops the leased copies of record-bearing pages that no block
pins, a line whose leaf no TLB entry holds counting as one (the model's choice, log 47). With a collective predecessor that its
group's fault has ended, a fence that names CL raises detail 3, and no later fence does for it (the model's choice, log 62).
TLBINV in its three forms (RNG, ASID, ALL), in privileged mode with the write queue drained, sends its request to every translation agent; at an agent that the route
reaches, every cached entry the form names goes, in the walker of its die too, and its acknowledgement is awaited; an agent
that has performed the accesses it translated with them acknowledges; once all have and 300 cycles have passed, the slot
commits, or raises class 19 where an agent was not reached. A user core raises class 3 detail 0. -/
def Obligations.FencesAndShootDown : Prop :=
  (∀ (s : State) (o : LFence), s.guard o.g = true →
    (o.pred = 0 ∨ o.succ = 0 → exec (.pfence o) s = traps s ⟨18, 0, 0, 0⟩) ∧
    (o.pred ≠ 0 → o.succ ≠ 0 → 5 ≤ o.scope.toNat → exec (.pfence o) s = traps s ⟨18, 1, 0, 0⟩) ∧
    (o.pred ≠ 0 → o.succ ≠ 0 → o.scope.toNat < 4 → o.pred.getLsbD 6 = true ∨ o.succ.getLsbD 6 = true →
      exec (.pfence o) s = traps s ⟨18, 2, 0, 0⟩) ∧
    (o.pred ≠ 0 → o.succ ≠ 0 → o.scope.toNat < 5 → (o.pred.getLsbD 6 = false ∧ o.succ.getLsbD 6 = false) ∨ o.scope.toNat = 4 →
      fenceDone s o.pred = true →
      (o.pred.getLsbD 4 = true →
        s.k.t.collFault = true ∨ (∃ x ∈ (s.die (coreDie s.cur)).coll, x.core = s.cur ∧ x.fault ≠ none) →
        exec (.pfence o) s = traps (s.modT fun t => { t with collFault := false }) ⟨18, 3, 0, 0⟩) ∧
      ((o.pred.getLsbD 4 = true → s.k.t.collFault = false ∧
          ∀ x ∈ (s.die (coreDie s.cur)).coll, x.core = s.cur → x.fault = none) →
      ∃ t, exec (.pfence o) s = .next (commit t) ∧ onlyCore s t ∧ t.k.t = s.k.t ∧ t.k.wq = s.k.wq ∧ s.k.pts ≤ t.k.pts ∧
        (∀ l ∈ s.k.l1, l.owned = true → l ∈ t.k.l1) ∧
        (o.succ.getLsbD 5 = false → t.k.l1 = s.k.l1) ∧
        (o.succ.getLsbD 5 = true → ∀ l ∈ t.k.l1, l.owned = false → pinned s.k l.line = false →
          (∃ e ∈ s.k.tlb, tlbMaps e (l.line * 128) = true) ∧
          ∀ e ∈ s.k.tlb, tlbMaps e (l.line * 128) = true → pteRb e.pte = false) ∧
        (o.succ.getLsbD 0 = true → o.pred ≠ 1 → predMwts s.k.t o.pred ≤ t.k.pts ∧
          ∀ d ∈ scopeDies s.cur o.scope, highWater s d ≤ t.k.pts)))) ∧
  ((∀ (s : State) (i : Instr) (g : Guard) (f : InvForm),
    ((∃ o : LInvRng, i = .tlbinvRng o ∧ g = o.g ∧ (s.sR o.a).toNat + (s.sR o.b).toNat ≤ 2 ^ 57 ∧
        f = .rng (s.sR o.a).toNat (s.sR o.b).toNat ((s.sR o.c).setWidth 16)) ∨
     (∃ o : LInvAsid, i = .tlbinvAsid o ∧ g = o.g ∧ f = .asid ((s.sR o.c).setWidth 16)) ∨
     (∃ o : LGuard, i = .tlbinvAll o ∧ g = o.g ∧ f = .all)) → s.guard g = true →
    (privMode s.k = false → exec i s = traps s ⟨3, 0, 0, 0⟩) ∧
    (privMode s.k = true → s.k.tlbinv = none → s.k.wq = [] → (∀ x ∈ s.invs, x.core ≠ s.cur) →
      exec i s = .next (hold { (s.modK fun k => { k with tlbinv := some s.now }) with
        invs := s.invs ++ [⟨s.cur, f, allAgents, [], none⟩] }))) ∧
  (∀ (s : State) (o : LInvRng), s.guard o.g = true → privMode s.k = true → s.k.tlbinv = none →
    2 ^ 57 < (s.sR o.a).toNat + (s.sR o.b).toNat → exec (.tlbinvRng o) s = traps s ⟨1, s.slotNo 1, 0, 5⟩) ∧
  (∀ (s : State) (x : InvOp) (a : Agent), s.invs.find? (fun i => i.core == s.cur) = some x → a ∈ x.toReach →
    (agentDie a = coreDie s.cur ∨ routeErr s (coreDie s.cur) (agentDie a) false = none →
      ∃ t, exec (.tlbinvAgentRequest a) s = .next t ∧
      (∀ c, a = .core c → ∀ e ∈ (t.core c).tlb, e ∈ (s.core c).tlb ∧ tlbHits x.form e = false) ∧
      (∀ n, a = .engine n → ∀ e ∈ t.engTlb.get n, e ∈ s.engTlb.get n ∧ tlbHits x.form e = false) ∧
      (∀ e ∈ (t.die (agentDie a)).walkCache, e ∈ (s.die (agentDie a)).walkCache ∧ wcHits x.form e = false) ∧
      (∀ y ∈ t.invs, y.core = s.cur → a ∈ y.waiting ∧ a ∉ y.toReach)) ∧
    (∀ e, agentDie a ≠ coreDie s.cur → routeErr s (coreDie s.cur) (agentDie a) false = some e →
      exec (.tlbinvAgentRequest a) s = .next { s with invs := s.invs.map fun i =>
        if i.core = s.cur then { i with toReach := i.toReach.filter (· != a), err := some (i.err.getD e) } else i })) ∧
  (∀ (s : State) (a : Agent), agentQuiet s s.cur a = true →
    ∃ t, exec (.tlbinvAgentAck a) s = .next t ∧ (∀ x ∈ t.invs, x.core = s.cur → a ∉ x.waiting) ∧ t.mem = s.mem ∧
      ∀ c, (t.core c).t = (s.core c).t) ∧
  (∀ (s : State) (x : InvOp) (t0 : Nat), s.invs.find? (fun i => i.core == s.cur) = some x → x.toReach = [] → x.waiting = [] →
    s.k.tlbinv = some t0 → t0 + 300 ≤ s.now →
    let s1 : State := { (s.modK fun k => { k with tlbinv := none }) with invs := s.invs.filter fun y => y.core != s.cur }
    (x.err = none → exec .tlbinvComplete s = .next (commit (s1.modK fun k => { k with frozen := false }))) ∧
    (∀ d, x.err = some d → exec .tlbinvComplete s = .next (takeFault s1 s1.cur ⟨19, d, 0, 0⟩ (precisePoint s1.k true)))))


/-! ## Vector slots: operands, results, frame (10 R231 to R235; 12 R289, R291; 13 R340, R341) -/

/-- Operands and results of a vector slot in flight: registers, latches and zero are read as they were at issue, a pop gives
the row popped at issue with zero tangents, or class 8 with the stream and reason 0 to 3 where that failed. A result goes
to its register, if it names one, and to its own slot's latch, or, pushed, to the end of a drain's rows; a landing merges
the enabled lanes into register and latch and changes nothing else. -/
def Obligations.VectorOperandsAndResults : Prop :=
  (∀ (s : State) (f : Inflight) (srcs : List VSrc), s.k.t.fl = some f → f.pops = [] → (∀ x ∈ srcs, VSrc.pops x = []) →
    gather s srcs false = .ok (s, srcs.map (fun x => match x with
      | .reg n => ⟨f.regs.v.get n.toFin, f.regs.vd.get n.toFin⟩
      | .v0l => ⟨f.regs.vl.get 0, f.regs.vld.get 0⟩
      | .v1l => ⟨f.regs.vl.get 1, f.regs.vld.get 1⟩
      | .zero | .pop _ => ⟨0, VTan4.zero⟩), f.word)) ∧
  (∀ (s : State) (f : Inflight) (q : BitVec 4) (p : Popped) (rest : List Popped), s.k.t.fl = some f → f.pops = p :: rest →
    (p.err = none → gather s [.pop q] false = .ok (s.modT (fun t => { t with fl := some { f with pops := rest } }),
      [⟨p.row, VTan4.zero⟩], f.word)) ∧
    (∀ e, p.err = some e → gather s [.pop q] false = .error (.flt s false ⟨8, p.q.toNat, 0, e.setWidth 64⟩))) ∧
  (∀ (s : State) (n slot : Nat) (en : BitVec 128) (x : Row) (t : VTan4), let l := latchOf slot
    (∀ r, outV s n (.reg r) slot en x t = .ok (s.land n (.v (some r) (some l) en x t))) ∧
    outV s n .latch slot en x t = .ok (s.land n (.v none (some l) en x t)) ∧
    (∀ q, (getStream s.k.t q).bind = .unbound → outV s n (.push q) slot en x t = .error (.flt s false ⟨8, q.toNat, 0, 0⟩)) ∧
    (∀ q, (getStream s.k.t q).bind = .fill → outV s n (.push q) slot en x t = .error (.flt s false ⟨8, q.toNat, 0, 1⟩)) ∧
    (∀ q, (getStream s.k.t q).bind = .drain →
      ((getStream s.k.t q).closed = true ∨ (getStream s.k.t q).left = 0 →
        outV s n (.push q) slot en x t = .error (.flt s false ⟨8, q.toNat, 0, 2⟩)) ∧
      ((getStream s.k.t q).closed = false → (getStream s.k.t q).left ≠ 0 → (getStream s.k.t q).rows.length < 4 →
        ∃ u y, outV s n (.push q) slot en x t = .ok (u.land n (.v none (some l) en x t)) ∧ onlyCore s u ∧
          (∀ i, i < 128 → en.getLsbD i = true → lane y i = lane x i) ∧
          u.k.t = putStream s.k.t q { getStream s.k.t q with rows := (getStream s.k.t q).rows ++ [y], left := (getStream s.k.t q).left - 1 }))) ∧
  (∀ (g : Regs) (r : BitVec 5) (l : BitVec 1) (en : BitVec 128) (x : Row) (t : VTan4), let g' := (Res.v (some r) (some l) en x t).apply g
    (∀ i, i < 128 → lane (g'.v.get r.toFin) i = lane (if en.getLsbD i = true then x else g.v.get r.toFin) i ∧
      lane (g'.vl.get l.toFin) i = lane (if en.getLsbD i = true then x else g.vl.get l.toFin) i) ∧
    (∀ j, j ≠ r.toFin → g'.v.get j = g.v.get j ∧ g'.vd.get j = g.vd.get j) ∧ (∀ j, j ≠ l.toFin → g'.vl.get j = g.vl.get j) ∧
    g'.s = g.s ∧ g'.sp = g.sp ∧ g'.c = g.c ∧ g'.vp = g.vp ∧ g'.md = g.md ∧ g'.cd = g.cd)

/-- Frame of the vector slots whose effect is one result (float, special, integer, select, reduction, lane moves, conversion,
packing), their operands gathered and their destination no stream: they complete; one result enters the landing queue for
the register named and the slot's latch; memory, the other cores, the registers, system registers, PC, loads, loops, flags,
frames, queues, buffers and every stream but those popped are as before, and the random queue too unless the slot draws. -/
def Obligations.VectorFrame : Prop :=
  ∀ (i : Instr) (s s' : State) (g : VG) (srcs : List VSrc) (sr : Bool) (d : VDst) (n : Nat) (ins : List VIn) (w : BitVec 1024),
    vecParts s i = some (g, srcs, sr, d, n) → s.enabled g ≠ 0 → gather s srcs sr = .ok (s', ins, w) → (∀ q, d ≠ .push q) →
    ∃ t x tn, exec i s = .next t ∧ onlyCore s t ∧ t.k.t.land = s.k.t.land ++ [⟨n, .v (dstReg d) (some (latchOf (s.slotNo 3))) (s.enabled g) x tn⟩] ∧
      t.k.t.regs = s.k.t.regs ∧ t.k.t.sys = s.k.t.sys ∧ t.k.t.pc = s.k.t.pc ∧ t.k.t.loads = s.k.t.loads ∧ t.k.t.loops = s.k.t.loops ∧
      t.k.t.flags = s.k.t.flags ∧ t.k.t.frames = s.k.t.frames ∧ (sr = false → t.k.t.rbq = s.k.t.rbq) ∧
      (∀ q, VSrc.pop q ∉ srcs → getStream t.k.t q = getStream s.k.t q) ∧ t.k.wq = s.k.wq ∧ t.k.l1 = s.k.l1 ∧ t.k.mat = s.k.mat ∧
      t.k.abuf = s.k.abuf ∧ t.k.wbuf = s.k.wbuf ∧ t.k.cbuf = s.k.cbuf ∧ t.mem = s.mem ∧ ∀ a, rdByte t a = rdByte s a

/-! ## Vector floating point (12 R289 to R294; 15 R375 to R377) -/

/-- VADD, VSUB, VMUL, VFMA, VFMS, VFNMA: each element of an enabled lane is the exact sum or product, A negated first where NA
is set, rounded once in the slot's mode with the element's random byte; each tangent is its exact sum of products rounded
once. VMIN and VMAX return one operand's encoding, the first of equals, or the canonical NaN; VABS and VNEG change the sign
bit; a subnormal result is flushed under FTZ. VRCP, VRSQRT, VSQRT, VEXP2, VLOG2, VSIN and VCOS land after 8 cycles their
function's value rounded once: the special values are those of 12 Table 12.2, VSQRT's is the exact root, and the others are
the unit's F, a free value inside the table's bound (log 5). -/
def Obligations.VectorFloatArithmetic : Prop :=
  ((∀ (s s' : State) (o : VBin) (a b : VIn) (w : BitVec 1024), s.enabled o.g ≠ 0 →
    gather s [o.a, o.b] (s.usesSR o.rm) = .ok (s', [a, b], w) →
    let A := fun l j => negIf o.na (vEl o.fmt a l j); let B := fun l j => vEl o.fmt b l j
    let dA := fun k l j => negIf o.na (s'.vTel o.fmt a k l j); let dB := fun k l j => s'.vTel o.fmt b k l j
    let rn := fun l j => NumFmt.arith o.fmt (s'.mode o.rm) o.sat s'.ftz (randByte w l j)
    let rd := s'.mode o.rm == .rdn
    let tn := fun ts => tround o.fmt s'.ftz (tsum ts)
    vecDone (.vadd o) s s' 4 o.g o.d o.fmt (fun l j => rn l j (NumFmt.sum rd [A l j, B l j]))
      (fun k l j => tn (tterm (dA k l j) ++ tterm (dB k l j))) ∧
    vecDone (.vsub o) s s' 4 o.g o.d o.fmt (fun l j => rn l j (NumFmt.sum rd [A l j, (B l j).neg]))
      (fun k l j => tn (tterm (dA k l j) ++ (tterm (dB k l j)).map NumFmt.XV.neg)) ∧
    vecDone (.vmul o) s s' 4 o.g o.d o.fmt (fun l j => rn l j (NumFmt.mul (A l j) (B l j)))
      (fun k l j => tn (tmul (dA k l j) (B l j) ++ tmul (dB k l j) (A l j)))) ∧
  (∀ (s s' : State) (o : VTer) (a b c : VIn) (w : BitVec 1024), s.enabled o.g ≠ 0 →
    gather s [o.a, o.b, o.c] (s.usesSR o.rm) = .ok (s', [a, b, c], w) →
    let P := fun l j => NumFmt.mul (negIf o.na (vEl o.fmt a l j)) (vEl o.fmt b l j); let C := fun l j => vEl o.fmt c l j
    let dP := fun k l j => tmul (negIf o.na (s'.vTel o.fmt a k l j)) (vEl o.fmt b l j) ++
      tmul (s'.vTel o.fmt b k l j) (negIf o.na (vEl o.fmt a l j))
    let dC := fun k l j => tterm (s'.vTel o.fmt c k l j)
    let rn := fun l j t => NumFmt.arith o.fmt (s'.mode o.rm) o.sat s'.ftz (randByte w l j) (NumFmt.sum (s'.mode o.rm == .rdn) t)
    let tn := fun ts => tround o.fmt s'.ftz (tsum ts)
    vecDone (.vfma o) s s' 4 o.g o.d o.fmt (fun l j => rn l j [P l j, C l j]) (fun k l j => tn (dP k l j ++ dC k l j)) ∧
    vecDone (.vfms o) s s' 4 o.g o.d o.fmt (fun l j => rn l j [P l j, (C l j).neg])
      (fun k l j => tn (dP k l j ++ (dC k l j).map NumFmt.XV.neg)) ∧
    vecDone (.vfnma o) s s' 4 o.g o.d o.fmt (fun l j => rn l j [(P l j).neg, C l j])
      (fun k l j => tn ((dP k l j).map NumFmt.XV.neg ++ dC k l j)))) ∧
  ((∀ (s s' : State) (o : VMinMax) (a b : VIn) (w : BitVec 1024) (mx : Bool) (i : Instr), (i, mx) ∈ [(Instr.vmin o, false), (.vmax o, true)] →
    s.enabled o.g ≠ 0 → gather s [o.a, o.b] false = .ok (s', [a, b], w) →
    let sec := fun l j => match NumFmt.cmp (vEl o.fmt a l j) (vEl o.fmt b l j) with
      | some .lt => some mx | some .gt => some (!mx) | some .eq => some false | none => none
    vecDone i s s' 4 o.g o.d o.fmt
      (fun l j => match sec l j with
        | none => NumFmt.nanEnc o.fmt
        | some x => flushEnc o.fmt s'.ftz (velem o.fmt (if x then b else a).x l j))
      (fun k l j => match sec l j with
        | none => NumFmt.nanEnc o.fmt
        | some x => tround o.fmt s'.ftz (tsum (tterm (s'.vTel o.fmt (if x then b else a) k l j))))) ∧
  (∀ (s s' : State) (o : VSign) (a : VIn) (w : BitVec 1024), s.enabled o.g ≠ 0 → gather s [o.a] false = .ok (s', [a], w) →
    let h := 2 ^ (NumFmt.width o.fmt - 1)
    let e := fun l j => velem o.fmt a.x l j
    vecDone (.vabs o) s s' 4 o.g o.d o.fmt (fun l j => flushEnc o.fmt s'.ftz (e l j % h))
      (fun k l j => tround o.fmt s'.ftz (tsum ((tterm (s'.vTel o.fmt a k l j)).map (negIf (decide (h ≤ e l j)))))) ∧
    vecDone (.vneg o) s s' 4 o.g o.d o.fmt (fun l j => flushEnc o.fmt s'.ftz (if h ≤ e l j then e l j - h else e l j + h))
      (fun k l j => tround o.fmt s'.ftz (tsum ((tterm (s'.vTel o.fmt a k l j)).map NumFmt.XV.neg)))) ∧
  (∀ (s s' : State) (o : VSpec) (a : VIn) (w : BitVec 1024) (i : Instr) (n : Nat),
    (i, n) ∈ [(Instr.vrcp o, 0), (.vrsqrt o, 1), (.vsqrt o, 2), (.vexp2 o, 3), (.vlog2 o, 4), (.vsin o, 5), (.vcos o, 6)] →
    s.enabled o.g ≠ 0 → gather s [o.a] (s.usesSR o.rm) = .ok (s', [a], w) →
    let val := fun m l j => NumFmt.arith o.fmt (s'.mode o.rm) o.sat s'.ftz (randByte w l j) (NumFmt.special m (vEl o.fmt a l j))
    vecDone i s s' 8 o.g o.d o.fmt (val n) (fun k l j => tround o.fmt s'.ftz (specTan n (vEl o.fmt a l j)
      (NumFmt.decode o.fmt (val n l j)) (NumFmt.decode o.fmt (val (if n = 5 then 6 else 5) l j)) (s'.vTel o.fmt a k l j)))) ∧
  (∀ (b : Bool) (e : Int), let z : NumFmt.XV := .fin b 0 e false
    (∀ n, n ∈ [0, 1, 2, 3, 4, 5, 6] → NumFmt.special n (.nan b) = .nan false) ∧
    NumFmt.special 0 z = .inf b ∧ NumFmt.special 1 z = .inf b ∧ NumFmt.special 2 z = NumFmt.XV.zero b ∧ NumFmt.special 4 z = .inf true ∧
    NumFmt.special 5 z = NumFmt.XV.zero b ∧ NumFmt.special 0 (.inf b) = NumFmt.XV.zero b ∧ NumFmt.special 1 (.inf false) = NumFmt.XV.zero false ∧
    NumFmt.special 2 (.inf false) = .inf false ∧ NumFmt.special 3 (.inf false) = .inf false ∧ NumFmt.special 3 (.inf true) = NumFmt.XV.zero false ∧
    NumFmt.special 4 (.inf false) = .inf false ∧ NumFmt.special 5 (.inf b) = .nan false ∧ NumFmt.special 6 (.inf b) = .nan false ∧
    NumFmt.special 1 (.inf true) = .nan false ∧ NumFmt.special 2 (.inf true) = .nan false ∧ NumFmt.special 4 (.inf true) = .nan false) ∧
  (∀ (n : Nat) (e : Int) (st : Bool), n ≠ 0 → let m : NumFmt.XV := .fin true n e st
    NumFmt.special 1 m = .nan false ∧ NumFmt.special 2 m = .nan false ∧ NumFmt.special 4 m = .nan false) ∧
  (∀ (n : Nat) (e : Int), n ≠ 0 → ∃ r e' u st, NumFmt.special 2 (.fin false n e false) = .fin false r e' st ∧ e = 2 * e' + (u : Nat) ∧
    160 ≤ u ∧ r * r ≤ n * 2 ^ u ∧ n * 2 ^ u < (r + 1) * (r + 1) ∧ (st = false ↔ r * r = n * 2 ^ u)) ∧
  (∀ (x : NumFmt.XV), NumFmt.cmp x (NumFmt.XV.ofInt 1) = some .eq → NumFmt.special 4 x = NumFmt.XV.zero false) ∧
  (∀ (b : Bool) (n : Nat) (e : Int) (st : Bool), n ≠ 0 → let x : NumFmt.XV := .fin b n e st
    let inv := NumFmt.div (NumFmt.XV.ofInt 1) x
    let close := fun k t y => boundedF k (NumFmt.ulp32 t) t y
    let wide := NumFmt.cmp x.abs (NumFmt.XV.ofInt 65536) = some .gt
    close 1 inv (NumFmt.special 0 x) ∧ close 2 (NumFmt.exp2True x) (NumFmt.special 3 x) ∧
    (b = false → close 1 (NumFmt.sqrt inv) (NumFmt.special 1 x) ∧
      (NumFmt.cmp x (NumFmt.XV.ofInt 1) ≠ some .eq →
        (NumFmt.cmp x (NumFmt.XV.ofInt 2) ≠ some .gt → NumFmt.cmp (x.scale 1) (NumFmt.XV.ofInt 1) ≠ some .lt →
          boundedF 1 (-22) (NumFmt.log2True x) (NumFmt.special 4 x)) ∧
        (NumFmt.cmp x (NumFmt.XV.ofInt 2) = some .gt ∨ NumFmt.cmp (x.scale 1) (NumFmt.XV.ofInt 1) = some .lt →
          close 2 (NumFmt.log2True x) (NumFmt.special 4 x)))) ∧
    (¬ wide → boundedF 1 (-22) (NumFmt.trigTrue false x) (NumFmt.special 5 x) ∧ boundedF 1 (-22) (NumFmt.trigTrue true x) (NumFmt.special 6 x)) ∧
    (wide → NumFmt.cmp (NumFmt.special 5 x).abs (NumFmt.XV.ofInt 1) ≠ some .gt ∧
      NumFmt.cmp (NumFmt.special 6 x).abs (NumFmt.XV.ofInt 1) ≠ some .gt)))


/-! ## Vector integers, compares, reductions, lane moves (12 R295 to R302) -/

/-- Integer, bitwise, shift, funnel and count forms of 12 Table 12.3, element by element, with zero tangents. -/
def Obligations.VectorIntegers : Prop :=
  (∀ (s s' : State) (g : VG) (d : VDst) (x y : VSrc) (f : Fmt) (sat : Bool) (a b : VIn) (w : BitVec 1024), f.isVInt = true →
    s.enabled g ≠ 0 → gather s [x, y] false = .ok (s', [a, b], w) →
    let n := NumFmt.width f
    let A := fun l j => vRaw f a l j; let B := fun l j => vRaw f b l j
    let I := fun (e : Nat) => if NumFmt.signed f = true ∧ 2 ^ (n - 1) ≤ e then (e : Int) - 2 ^ n else (e : Int)
    let done := fun i val => vecDone i s s' 2 g d f val (fun _ _ _ => 0)
    let p : VIntP := ⟨g, d, x, y, f⟩
    done (.viadd ⟨g, d, x, y, f, sat⟩) (fun l j => wrapOrClamp f sat (I (A l j) + I (B l j))) ∧
    done (.visub ⟨g, d, x, y, f, sat⟩) (fun l j => wrapOrClamp f sat (I (A l j) - I (B l j))) ∧
    done (.vimul ⟨g, d, x, y, f, sat⟩) (fun l j => wrapOrClamp f sat (I (A l j) * I (B l j))) ∧
    done (.vimulh p) (fun l j => wrapOrClamp f false (I (A l j) * I (B l j) / 2 ^ n)) ∧
    done (.vimin p) (fun l j => wrapOrClamp f false (min (I (A l j)) (I (B l j)))) ∧
    done (.vimax p) (fun l j => wrapOrClamp f false (max (I (A l j)) (I (B l j)))) ∧
    done (.vand p) (fun l j => A l j &&& B l j) ∧ done (.vor p) (fun l j => A l j ||| B l j) ∧
    done (.vxor p) (fun l j => A l j ^^^ B l j) ∧
    done (.vandn p) (fun l j => (BitVec.ofNat n (A l j) &&& ~~~BitVec.ofNat n (B l j)).toNat) ∧
    done (.vshl p) (fun l j => A l j * 2 ^ (B l j % n)) ∧ done (.vshr p) (fun l j => A l j / 2 ^ (B l j % n)) ∧
    done (.vshra p) (fun l j => ((BitVec.ofNat n (A l j)).sshiftRight (B l j % n)).toNat)) ∧
  (∀ (s s' : State) (o : VInt3) (a b c : VIn) (w : BitVec 1024), o.fmt.isVInt = true → s.enabled o.g ≠ 0 →
    gather s [o.a, o.b, o.c] false = .ok (s', [a, b, c], w) →
    let n := NumFmt.width o.fmt
    let ab := fun l j => vRaw o.fmt a l j * 2 ^ n + vRaw o.fmt b l j; let m := fun l j => vRaw o.fmt c l j % n
    vecDone (.vfshl o) s s' 2 o.g o.d o.fmt (fun l j => ab l j * 2 ^ m l j / 2 ^ n) (fun _ _ _ => 0) ∧
    vecDone (.vfshr o) s s' 2 o.g o.d o.fmt (fun l j => ab l j / 2 ^ m l j) (fun _ _ _ => 0)) ∧
  (∀ (s s' : State) (o : VSign) (a : VIn) (w : BitVec 1024) (val : Nat → Nat → Nat), o.fmt.isVInt = true → s.enabled o.g ≠ 0 →
    gather s [o.a] false = .ok (s', [a], w) → let n := NumFmt.width o.fmt
    ((∀ l j, let e := vRaw o.fmt a l j
        (e = 0 → val l j = n) ∧ (e ≠ 0 → val l j < n ∧ 2 ^ (n - 1 - val l j) ≤ e ∧ e < 2 ^ (n - val l j))) →
      vecDone (.vclz o) s s' 2 o.g o.d o.fmt val (fun _ _ _ => 0)) ∧
    ((∀ l j, let e := vRaw o.fmt a l j
        (e = 0 → val l j = n) ∧ (e ≠ 0 → e.testBit (val l j) = true ∧ ∀ i, i < val l j → e.testBit i = false)) →
      vecDone (.vctz o) s s' 2 o.g o.d o.fmt val (fun _ _ _ => 0)) ∧
    vecDone (.vpopc o) s s' 2 o.g o.d o.fmt (fun l j => (List.range n).countP fun i => (vRaw o.fmt a l j).testBit i) (fun _ _ _ => 0))

/-- VCMP lands in a lane predicate, in the enabled lanes, the truth of its condition; VSEL takes each lane from A where its
predicate holds, else from B; VPERM, VBCASTL and VXSEC move lanes, tangents with them. VGMAX, VGMIN and VGSUM: every lane of
a group of 2, 4, 8 or 16 lanes gets, position by position, an element of the largest or smallest value, the first of equals,
the canonical NaN if a NaN stands there; or the sum, wrapped or clamped for integers, rounded once for floats. Tangents of
the integer forms are zero, which for VGMAX and VGMIN is the model's reading (log 64). -/
def Obligations.VectorLanesAndGroups : Prop :=
  ((∀ (s s' : State) (o : VCmpOp) (a b : VIn) (w : BitVec 1024), s.enabled o.g ≠ 0 → gather s [o.a, o.b] false = .ok (s', [a, b], w) →
    ∃ m, exec (.vcmp o) s = .next (commit (s'.land 2 (.vp o.p (s.enabled o.g) m))) ∧
      ∀ l, l < 128 → (s.enabled o.g).getLsbD l = true → let x := vRaw o.fmt a l 0; let y := vRaw o.fmt b l 0
        (o.fmt = .f32 → m.getLsbD l = condF o.cond (NumFmt.decode .f32 x) (NumFmt.decode .f32 y)) ∧
        (o.fmt ≠ .f32 → m.getLsbD l = condI o.cond (vIntV o.fmt x) (vIntV o.fmt y))) ∧
  (∀ (s s' : State) (o : VSelOp) (a b : VIn) (w : BitVec 1024), s.enabled o.g ≠ 0 → gather s [o.a, o.b] false = .ok (s', [a, b], w) →
    let c := fun l => if (s'.vP o.p).getLsbD l = true then a else b
    vecDone (.vsel o) s s' 2 o.g o.d .f32 (fun l _ => lane (c l).x l) (fun k l _ => s'.vTan (c l) k l)) ∧
  (∀ (s s' : State) (o : VBinPlain) (a b : VIn) (w : BitVec 1024), s.enabled o.g ≠ 0 → gather s [o.a, o.b] false = .ok (s', [a, b], w) →
    let i := fun l => 16 * (l / 16) + lane b.x l % 16
    vecDone (.vperm o) s s' 6 o.g o.d .f32 (fun l _ => lane a.x (i l)) (fun k l _ => s'.vTan a k (i l))) ∧
  (∀ (s s' : State) (o : VBcast) (a : VIn) (w : BitVec 1024), s.enabled o.g ≠ 0 → gather s [o.a] false = .ok (s', [a], w) →
    let i := fun l => if o.sec = true then 16 * (l / 16) + o.lane.toNat % 16 else o.lane.toNat
    vecDone (.vbcastl o) s s' 6 o.g o.d .f32 (fun l _ => lane a.x (i l)) (fun k l _ => s'.vTan a k (i l))) ∧
  (∀ (s s' : State) (o : VXsecOp) (a b : VIn) (w : BitVec 1024), s.enabled o.g ≠ 0 → o.mode ≠ .rot →
    gather s [o.a, o.b] false = .ok (s', [a, b], w) → let n := o.n.toNat
    let c : Nat → VIn × Nat := fun l => match o.mode with
      | .up => if n ≤ l then (a, l - n) else (b, 128 + l - n)
      | .down => if l + n < 128 then (a, l + n) else (b, l + n - 128)
      | .rot => (a, l)
    vecDone (.vxsec o) s s' 6 o.g o.d .f32 (fun l _ => lane (c l).1.x (c l).2) (fun k l _ => s'.vTan (c l).1 k (c l).2)) ∧
  (∀ (s s' : State) (o : VXsecOp) (a : VIn) (w : BitVec 1024), s.enabled o.g ≠ 0 → o.mode = .rot →
    gather s [o.a] false = .ok (s', [a], w) → let i := fun l => 16 * ((l / 16 + o.n.toNat) % 8) + l % 16
    vecDone (.vxsec o) s s' 6 o.g o.d .f32 (fun l _ => lane a.x (i l)) (fun k l _ => s'.vTan a k (i l)))) ∧
  ((∀ (s s' : State) (o : VGrp) (a : VIn) (w : BitVec 1024) (mx : Bool) (i : Instr) (p : Nat → Nat → Nat),
    (i, mx) ∈ [(Instr.vgmin o, false), (.vgmax o, true)] → o.fmt.isVInt = true → s.enabled o.g ≠ 0 → gather s [o.a] false = .ok (s', [a], w) →
    let n := 2 ^ (o.gsz.toNat + 1)
    let V := fun l j => vIntV o.fmt (vRaw o.fmt a l j)
    (∀ l j, p l j / n = l / n ∧ ∀ q, q / n = l / n → if mx = true then V q j ≤ V (p l j) j else V (p l j) j ≤ V q j) →
    vecDone i s s' 4 o.g o.d o.fmt (fun l j => vRaw o.fmt a (p l j) j) (fun _ _ _ => 0)) ∧
  (∀ (s s' : State) (o : VGrp) (a : VIn) (w : BitVec 1024) (mx : Bool) (i : Instr),
    (i, mx) ∈ [(Instr.vgmin o, false), (.vgmax o, true)] → o.fmt.isFlt = true → s.enabled o.g ≠ 0 → gather s [o.a] false = .ok (s', [a], w) →
    let n := 2 ^ (o.gsz.toNat + 1)
    let c := fun l j => grpPick mx o.fmt a (n * (l / n)) n j
    vecDone i s s' 4 o.g o.d o.fmt
      (fun l j => match c l j with
        | none => NumFmt.nanEnc o.fmt
        | some q => flushEnc o.fmt s'.ftz (vRaw o.fmt a q j))
      (fun k l j => match c l j with
        | none => NumFmt.nanEnc o.fmt
        | some q => elem (NumFmt.width o.fmt) (s'.vTan a k q) j) ∧
    (∀ l j, c l j = none ↔ ∃ q, q / n = l / n ∧ (vEl o.fmt a q j).isNan = true) ∧
    (∀ l j q, c l j = some q → q / n = l / n ∧ ∀ p, p / n = l / n →
      NumFmt.cmp (vEl o.fmt a p j) (vEl o.fmt a q j) ≠ some (if mx = true then .gt else .lt) ∧
      (p < q → NumFmt.cmp (vEl o.fmt a p j) (vEl o.fmt a q j) ≠ some .eq))) ∧
  (∀ (s s' : State) (o : VGrp) (a : VIn) (w : BitVec 1024), o.fmt.isVInt = true → s.enabled o.g ≠ 0 → gather s [o.a] false = .ok (s', [a], w) →
    let n := 2 ^ (o.gsz.toNat + 1)
    vecDone (.vgsum o) s s' 4 o.g o.d o.fmt
      (fun l j => wrapOrClamp o.fmt o.sat (((List.range n).map fun q => vIntV o.fmt (vRaw o.fmt a (n * (l / n) + q) j)).sum)) (fun _ _ _ => 0)) ∧
  (∀ (s s' : State) (o : VGrp) (a : VIn) (w : BitVec 1024), o.fmt.isFlt = true → s.enabled o.g ≠ 0 →
    gather s [o.a] (s.usesSR o.rm) = .ok (s', [a], w) → let n := 2 ^ (o.gsz.toNat + 1)
    let grp := fun l => (List.range n).map fun q => n * (l / n) + q
    vecDone (.vgsum o) s s' 4 o.g o.d o.fmt
      (fun l j => NumFmt.arith o.fmt (s'.mode o.rm) o.sat s'.ftz (randByte w (n * (l / n)) j)
        (NumFmt.sum (s'.mode o.rm == .rdn) ((grp l).map fun q => vEl o.fmt a q j)))
      (fun k l j => tround o.fmt s'.ftz (tsum ((grp l).flatMap fun q => tterm (s'.vTel o.fmt a k q j))))))

/-! ## Typed buffers, conversion, packing, tangents (12 R303 to R315; 04 R106 to R116) -/

/-- VLDB reads a row of a typed buffer, transposed when it says so; VSTB stores the bytes of the enabled lanes into a row, VSTBM
only those its mask register names too; every other byte of the buffers stays. A row beyond the buffer raises class 1
reason 6. A slot in flight whose row's frame has begun to fill since its issue goes on (12 R306). -/
def Obligations.VectorBuffers : Prop :=
  (∀ (s s' : State) (o : VLdbOp) (ins : List VIn) (w : BitVec 1024) (k : Core), s.enabled o.g ≠ 0 → gather s [] false = .ok (s', ins, w) →
    let r := s'.rowOp o.base o.off
    (bufRows o.buf ≤ r → exec (.vldb o) s = traps (rowsKept s s') ⟨1, s.slotNo 3, 0, 6⟩) ∧
    (r < bufRows o.buf → vbReady s'.k o.buf r = some k ∨ (vbReady s'.k o.buf r = none ∧ s'.k.t.fl ≠ none ∧ k = s'.k) →
      vecDone (.vldb o) s (s'.setCore s.cur k) 5 o.g o.d .f32 (fun l _ => lane (readRow k o.buf o.t r) l) (fun _ _ _ => 0))) ∧
  (∀ (s s' : State) (o : VStbOp) (a : VIn) (w : BitVec 1024) (k : Core), s.enabled o.g ≠ 0 → gather s [o.src] false = .ok (s', [a], w) →
    let r := s'.rowOp o.base o.off
    r < bufRows o.buf → vbReady s'.k o.buf r = some k ∨ (vbReady s'.k o.buf r = none ∧ s'.k.t.fl ≠ none ∧ k = s'.k) →
    ∃ t x, exec (.vstb o) s = .next t ∧ onlyCore s t ∧ t.k.t.regs = s.k.t.regs ∧ t.k.t.land = s.k.t.land ∧
      (∀ b, getBuf t.k b = getBuf (putRow k o.buf r x) b) ∧ ∀ i, i < 512 → rowByte x i =
        if (s.enabled o.g).getLsbD (i / 4) = true then rowByte a.x i else rowByte (bufRow k o.buf r) i) ∧
  (∀ (s s' : State) (o : VStbmOp) (a : VIn) (w : BitVec 1024) (k : Core), s.enabled o.g ≠ 0 → gather s [o.src] false = .ok (s', [a], w) →
    let r := s'.rowOp o.base o.off
    r < bufRows o.buf → vbReady s'.k o.buf r = some k ∨ (vbReady s'.k o.buf r = none ∧ s'.k.t.fl ≠ none ∧ k = s'.k) →
    ∃ t x, exec (.vstbm o) s = .next t ∧ onlyCore s t ∧ t.k.t.regs = s.k.t.regs ∧ t.k.t.land = s.k.t.land ∧
      (∀ b, getBuf t.k b = getBuf (putRow k o.buf r x) b) ∧ ∀ i, i < 512 → rowByte x i =
        if (s.enabled o.g).getLsbD (i / 4) = true ∧ (lane (s'.iregs.v.get o.vm.toFin) (i / 4)).testBit (i % 4) = true
        then rowByte a.x i else rowByte (bufRow k o.buf r) i) ∧
  (∀ (k : Core) (b : Buf) (r : Nat) (x : Row), (x ≠ 0 ∨ Sparse.wf 0 (getBuf k b) = true → bufRow (putRow k b r x) b r = x) ∧
    (∀ c q, c ≠ b ∨ q ≠ r → bufRow (putRow k b r x) c q = bufRow k c q) ∧
    (Sparse.wf 0 (getBuf k b) = true → Sparse.wf 0 (getBuf (putRow k b r x) b) = true)) ∧
  (∀ (k : Core) (f : Fmt) (r i : Nat), NumFmt.width f = 8 ∨ NumFmt.width f = 16 → i < 512 →
    let wb := NumFmt.width f / 8; let rows := 32 / wb
    let row := 4 * (r % rows) + i / 128; let col := i % 128 / wb; let src := 128 * col + wb * row + i % wb
    rowByte (readRow k .wbuf (some f) r) i = rowByte (bufRow k .wbuf (r - r % rows + src / 512)) (src % 512))

/-- VCVT puts one converted element into its position beside B's others, tangents converted like their primals (the model's
reading, log 49); VMAXEXP lands the scale codes of its groups; VQPS2
quantises a row to PS2, or raises class 1 reason 3 under SR; VPACK and VUNPACK gather and spread elements; VTGET, VTSET and
VTZERO reach tangent rows, those of the slot's latch with them (the model's reading, log 41), class 13 detail 1 above
DUALCTL.K. -/
def Obligations.VectorConversions : Prop :=
  (∀ (s s' : State) (o : VCvtOp) (a b : VIn) (w : BitVec 1024), s.enabled o.g ≠ 0 → gather s [o.a, o.b] (s.usesSR o.rm) = .ok (s', [a, b], w) →
    let sp := o.sp.toNat; let dp := o.dp.toNat
    let code := fun l => (s'.isys.scl.extractLsb' (8 * (l / 32)) 8).toNat
    vecDone (.vcvt o) s s' 3 o.g o.d o.dst
      (fun l j => if j = dp then cvtEl o.src o.dst (s'.mode o.rm) o.sat s'.ftz (randByte w l dp) (code l) (velem o.src a.x l sp)
        else velem o.dst b.x l j)
      (fun k l j => if o.dst.isInt = true then 0
        else if o.dst.narrow = true then elem (NumFmt.width o.dst) (s'.cvtTan o.src o.dst (s'.srcTan o.src a k l sp)) j
        else if j = dp then s'.cvtTan o.src o.dst (s'.srcTan o.src a k l sp)
        else elem (NumFmt.width o.dst) (s'.vTan b k l) j)) ∧
  (∀ (s s' : State) (o : VMaxexpOp) (a : VIn) (w : BitVec 1024), s.enabled o.g ≠ 0 → gather s [o.a] false = .ok (s', [a], w) →
    ∃ m c, exec (.vmaxexp o) s = .next (commit (s'.land 3 (.scl m c))) ∧ ∀ g, g < 4 →
      let vs := ((List.range 32).filter fun i => (s.enabled o.g).getLsbD (32 * g + i)).map fun i => vEl .f32 a (32 * g + i) 0
      m.getLsbD g = !vs.isEmpty ∧
      (m.getLsbD g = true → (c.extractLsb' (8 * g) 8).toNat = if vs.any NumFmt.XV.isNan = true then 255 else match NumFmt.groupExp vs with
        | some e => NumFmt.e8m0Of (e - emaxf o.fmt + o.h.toInt)
        | none => 0)) ∧
  (∀ (s s' : State) (o : VQps2Op) (a : VIn) (w : BitVec 1024), s.enabled o.g ≠ 0 → gather s [o.a] false = .ok (s', [a], w) →
    (s'.usesSR o.rm = true → exec (.vqps2 o) s = traps (rowsKept s s') ⟨1, s.slotNo 3, 0, 3⟩) ∧
    (s'.usesSR o.rm = false →
      let bl := ps2Blocks (bjumpOf s'.isys) ((List.range 16).map fun g => (List.range 8).map fun i => vEl .f32 a (8 * g + i) 0)
      vecDone (.vqps2 o) s s' 3 o.g o.d .f32
        (fun l _ => let x := (bl[l / 8]?).getD (false, 0)
          (if x.1 = true ∧ l % 8 = 0 then 2 ^ 16 else 0) + x.2 * 256 + ps2El x.2 (vEl .f32 a l 0))
        (fun k l _ => s'.cvtTan .f32 .ps2 (s'.srcTan .f32 a k l 0)))) ∧
  (∀ (s s' : State) (o : VPackOp) (a b : VIn) (w : BitVec 1024), (Instr.vpack o).wf = true → s.enabled o.g ≠ 0 → gather s [o.a, o.b] false = .ok (s', [a, b], w) →
    let n := 32 / NumFmt.width o.fmt
    let i := fun l j => n * (l - 128 / n * o.p.toNat) + j
    let on := fun l => l / (128 / n) = o.p.toNat
    vecDone (.vpack o) s s' 3 o.g o.d o.fmt (fun l j => if on l then velem o.fmt a.x (i l j) 0 else velem o.fmt b.x l j)
      (fun k l j => if NumFmt.width o.fmt ≠ 16 then 0 else elem 16 (if on l then s'.vTan a k (i l j) else s'.vTan b k l) (if on l then 0 else j))) ∧
  (∀ (s s' : State) (o : VUnpackOp) (a : VIn) (w : BitVec 1024), (Instr.vunpack o).wf = true → s.enabled o.g ≠ 0 → gather s [o.a] false = .ok (s', [a], w) →
    let n := 32 / NumFmt.width o.fmt
    let i := fun l => 128 / n * o.p.toNat + l / n
    let e := fun l => velem o.fmt a.x (i l) (l % n)
    vecDone (.vunpack o) s s' 3 o.g o.d .f32
      (fun l _ => if NumFmt.signed o.fmt = true then ((BitVec.ofNat (NumFmt.width o.fmt) (e l)).signExtend 32).toNat else e l)
      (fun k l _ => if NumFmt.width o.fmt ≠ 16 then 0 else elem 16 (s'.vTan a k (i l)) (l % n))) ∧
  (∀ (s s' : State) (o : VTan) (a : VIn) (w : BitVec 1024), 1 ≤ o.k.toNat → s.enabled o.g ≠ 0 → gather s [o.a] false = .ok (s', [a], w) →
    let en := s.enabled o.g; let l := latchOf (s.slotNo 3)
    (s'.dk < o.k.toNat → exec (.vtget o) s = traps (rowsKept s s') ⟨13, 1, 0, 0⟩ ∧
      exec (.vtset o) s = traps (rowsKept s s') ⟨13, 1, 0, 0⟩) ∧
    (o.k.toNat ≤ s'.dk →
      (∃ x, exec (.vtget o) s = .next (commit (s'.land 2 (.v (some o.d) (some l) en x VTan4.zero))) ∧
        ∀ i, i < 128 → en.getLsbD i = true → lane x i = lane (a.t.toList.getD (o.k.toNat - 1) 0) i) ∧
      exec (.vtset o) s = .next (commit (s'.land 2 (.vtan o.d o.k.toNat l en a.x))))) ∧
  (∀ (s s' : State) (o : VTan0) (ins : List VIn) (w : BitVec 1024), s.enabled o.g ≠ 0 → gather s [] false = .ok (s', ins, w) →
    exec (.vtzero o) s = .next (commit (s'.land 2 (.vtz o.d (latchOf (s.slotNo 3)) (s.enabled o.g)))))


/-! ## Load-blocks, prefetch, the frame table (04 R96 to R113; 13 R325, R327) -/

/-- LDBLK: its flag must be claimable, its count 1 to 64, its address aligned, no set left with more than twelve pinned ways and
no line held by a block already, else class 9 details 0 to 4, and a user core's block that reaches the privileged half class
3 detail 2; then it claims its flag, and its block pins the lines the L1 holds and has all its lines to come. LDBLK_FILL_DONE and
LDBLK_FILL_FAIL: the fill done or failed sets the flag, its event is signalled (for a failed fill this is the model's choice,
log 54) and a release that waited takes effect; a line the home grants joins the block. BLKREL idles the flag of a filled
block and marks one that still fills; BLKWAIT freezes while the fill is in flight; without a block either raises class 9
detail 5, but for a BLKWAIT that has waited for its block. PREF with the drop bit always commits and changes no register;
without it a failing check traps, and a line that is absent, or whose lease is over, is fetched by a lease. PROBE.LOOKUP, PROBE.PIN and PROBE.UNPIN:
class 16 detail 1 for a branch outside the body, class 9 details 7, 8 and 6 for no frames, a frame in error, no frame to
take; with the stores before it drained, a resident block gives its frame, referenced and pinned by the form; an absent one
gives all ones for unpin, and for the others takes a frame, starts its fill on the engine of C0 and branches. -/
def Obligations.BlocksAndProbes : Prop :=
  ((∀ (s : State) (o : LBlk) (ev : Option (BitVec 16)), s.guard o.g = true →
    (o.ev = none ∧ ev = none) ∨ (∃ e name, o.ev = some e ∧ s.evName ((s.sR e) &&& 0xFFFF) = .ok name ∧ ev = some (BitVec.ofNat 16 name)) →
    let c := s.cR o.m.cap; let n := o.n.toNat
    let off := (s.sR o.m.idx).toInt + o.m.imm.toInt * 128; let va := ((c.base : Int) + off).toNat
    let flag := getFlag s.k.t o.f
    capErr c .rd off (128 * n) = none →
    (claimable flag = false → exec (.ldblk o) s = traps s ⟨9, 0, va, 0⟩) ∧
    (claimable flag = true → n = 0 ∨ 64 < n → exec (.ldblk o) s = traps s ⟨9, 1, va, 0⟩) ∧
    (claimable flag = true → 1 ≤ n → n ≤ 64 →
      (va % 128 ≠ 0 → exec (.ldblk o) s = traps s ⟨9, 2, va, 0⟩) ∧
      (va % 128 = 0 → privMode s.k = false → (va + 128 * n - 1) / 2 ^ 56 % 2 = 1 → exec (.ldblk o) s = traps s ⟨3, 2, 0, 0⟩) ∧
      (va % 128 = 0 → privMode s.k = true ∨ (va + 128 * n - 1) / 2 ^ 56 % 2 = 0 → ∀ s1 ls, blockLines s va n = .ok (s1, ls) →
        let pas := ls.filterMap Prod.snd
        ((∃ l ∈ pas, 12 < pinnedIn s1.k pas (l1Set l)) → exec (.ldblk o) s = traps s1 ⟨9, 3, va, 0⟩) ∧
        ((∀ l ∈ pas, pinnedIn s1.k pas (l1Set l) ≤ 12) →
          ((∃ l ∈ pas, l ∈ blockHeld s1.k) → exec (.ldblk o) s = traps s1 ⟨9, 4, va, 0⟩) ∧
          ((∀ l ∈ pas, l ∉ blockHeld s1.k) → ∃ t b, exec (.ldblk o) s = .next (commit t) ∧ b ∈ t.k.blocks ∧ b.flag = o.f ∧
            b.unit = false ∧ b.released = false ∧ b.priv = privMode s1.k ∧ b.older = s1.k.wq.length ∧
            (∀ l, l ∈ b.filled ↔ l ∈ pas ∧ (findL1 s1.k l).isSome = true) ∧ b.left.map BlkLine.vline = ls.map Prod.fst ∧
            getFlag t.k.t o.f = ⟨1, 2, 7, ev, 0, 0, 0⟩ ∧ (∀ f, f ≠ o.f → getFlag t.k.t f = getFlag s.k.t f) ∧
            t.k.t.regs = s.k.t.regs ∧ t.k.t.land = s.k.t.land ∧ t.k.wq = s.k.wq))))) ∧
  (∀ (s s1 s3 : State) (b : Block), let f : Flag := BitVec.ofNat 4 s.unit
    findBlock s.k f = some b → (getFlag s.k.t f).state = 1 → b.older = 0 →
    let put : FlagSt → State := fun x => s1.modCore s.cur fun k => { k with t := putFlag k.t f x }
    let x := getFlag (s1.core s.cur).t f
    let done : State := if b.released then s3.modCore s.cur (releaseBlock · f) else s3
    (fillLines s s.cur f b.priv (b.left.map BlkLine.vline) = .done s1 → let s2 := put { x with state := 2 }
      opSignal? s2 (coreDie s.cur) (s2.core s.cur).ctx (taskUid (s2.core s.cur)) x.ev 0 = .ok s3 →
      exec .ldblkFillDone s = .next done) ∧
    (∀ cl d a, fillLines s s.cur f b.priv (b.left.map BlkLine.vline) = .fail s1 cl d a →
      let s2 := put { x with state := 3, cause := BitVec.ofNat 9 (cl * 16 + d), addr := BitVec.ofNat 57 a }
      opSignal? s2 (coreDie s.cur) (s2.core s.cur).ctx (taskUid (s2.core s.cur)) x.ev 0 = .ok s3 →
      exec .ldblkFillFail s = .next done)) ∧
  (∀ (s s1 s2 : State) (c : CoreId) (f : Flag) (priv : Bool) (v l : Nat) (rest : List Nat) (d : DieId),
    blockXlate s c priv (v * 128) = .ok (s1, l) → target (l * 128) = .dev d → Sparse.get false s1.poison l = false →
    findL1 (s1.core c) l = none → grantLease s1 c l = .ok s2 →
    fillLines s c f priv (v :: rest) = fillLines (lineArrived s2 c f v l) c f priv rest ∧
    ∀ b ∈ ((lineArrived s2 c f v l).core c).blocks, b.unit = false → b.flag = f → l ∈ b.filled ∧ v ∉ b.left.map BlkLine.vline) ∧
  (∀ (s : State) (o : LFlag), s.guard o.g = true →
    (findBlock s.k o.f = none → exec (.blkrel o) s = traps s ⟨9, 5, 0, 0⟩ ∧
      ((∀ f, s.k.t.fl = some f → f.since = none) → exec (.blkwait o) s = traps s ⟨9, 5, 0, 0⟩) ∧
      ((∃ f, s.k.t.fl = some f ∧ f.since ≠ none) → exec (.blkwait o) s = .next (commit s))) ∧
    (∀ b, findBlock s.k o.f = some b →
      ((getFlag s.k.t o.f).state = 1 → ∃ t, exec (.blkrel o) s = .next (commit t) ∧ onlyCore s t ∧
        t.k.t = s.k.t ∧ ∀ x, findBlock t.k o.f = some x → x.released = true) ∧
      ((getFlag s.k.t o.f).state ≠ 1 → ∃ t, exec (.blkrel o) s = .next (commit t) ∧ onlyCore s t ∧
        getFlag t.k.t o.f = FlagSt.idle ∧ findBlock t.k o.f = none ∧ t.k.l1 = s.k.l1 ∧ t.k.t.regs = s.k.t.regs) ∧
      ((getFlag s.k.t o.f).state = 1 → exec (.blkwait o) s = .next (hold s)) ∧
      ((getFlag s.k.t o.f).state ≠ 1 → exec (.blkwait o) s = .next (commit (s.modK fun k =>
        { k with pts := max k.pts (getFlag s.k.t o.f).mwts })))))) ∧
  ((∀ (s : State) (o : LPref), s.guard o.g = true → let c := s.cR o.m.cap; let off := (s.sR o.m.idx).toInt + o.m.imm.toInt * 128
    let va := ((c.base : Int) + off).toNat
    (o.drop = true → ∃ t, exec (.pref o) s = .next (commit t) ∧ t.k.t = s.k.t ∧ t.k.wq = s.k.wq) ∧
    (o.drop = false → (∀ d, capErr c .rd off 1 = some d → exec (.pref o) s = traps s ⟨4, d, 0, 0⟩) ∧
      (capErr c .rd off 1 = none → ∀ pa pte, lsXlate s s.lsAsid (privMode s.k) va ⟨false, false, false⟩ = .ok (s, pa, pte) →
        lsTarget s pa va false true = .ok () →
        (∀ x, findL1 s.k (pa / 128) = some x → x.owned = true ∨ s.k.pts ≤ x.lend → exec (.pref o) s = .next (commit s)) ∧
        ((∀ x, findL1 s.k (pa / 128) = some x → x.owned = false ∧ x.lend < s.k.pts) → ∀ t, grantLease s s.cur (pa / 128) true = .ok t →
          exec (.pref o) s = .next (commit t))))) ∧
  (∀ (s : State) (fl : Inflight) (o : LProbe) (i : Instr) (m : ProbeMode),
    (i, m) ∈ [(Instr.probeLookup o, .lookup), (.probePin o, .pin), (.probeUnpin o, .unpin)] → s.k.t.fl = some fl → s.guard o.g = true →
    let x := (BitVec.ofInt 64 (fl.unit + o.target.toInt)).toNat
    let c := s.cR o.m.cap
    let start : Int := ((c.base : Int) + ((s.sR o.m.idx).toInt + o.m.imm.toInt * 16384)) / 16384 * 16384
    let va := start.toNat; let n := frameCount s.isys
    let hit := (List.range n).find? (fun f => (getFrame s.k.t f).v && (getFrame s.k.t f).vblk.toNat == va / 16384)
    (inBody s x = false → exec i s = traps s ⟨16, 1, 0, 0⟩) ∧
    (inBody s x = true → capErr c .rd (start - c.base) 16384 = none →
      (n = 0 → exec i s = traps s ⟨9, 7, va, 0⟩) ∧
      (n ≠ 0 → s.k.wq ≠ [] → exec i s = .next (hold s)) ∧
      (n ≠ 0 → s.k.wq = [] → ∀ f, hit = some f → let y := getFrame s.k.t f
        (y.e = true → let s1 := s.modT fun t => putFrame t f { y with v := false }
          exec i s = .next (takeFault s1 s1.cur ⟨9, 8, va, y.cause.setWidth 64⟩ (precisePoint s1.k false))) ∧
        (y.e = false → exec i s = .next (commit ((s.modT fun t =>
          putFrame t f { y with ref := true, p := match m with | .lookup => y.p | .pin => true | .unpin => false }).land 1
            (plain o.d (BitVec.ofNat 64 f)))))) ∧
      (n ≠ 0 → s.k.wq = [] → hit = none → (m = .unpin → exec i s = lands s 1 (plain o.d (BitVec.allOnes 64))) ∧
        (m ≠ .unpin → engineLoad (s.engine (engineFor s.cur 0)) < 32 → ∀ t f, victim s.isys s.k.t = (t, some f) →
          ∃ u, exec i s = .next (commit u) ∧ u.engine (engineFor s.cur 0) = s.engine (engineFor s.cur 0) ++ [frameOp s f (va / 16384 * 16384) c] ∧
            u.k.t.frames = t.frames.set (f % 256) ⟨true, decide (m = .pin), true, true, false, BitVec.ofNat 43 (va / 16384), 0⟩ (Nat.mod_lt _ (by decide)) ∧
            u.k.t.fl = some { fl with btgt := some x } ∧ u.k.t.regs = s.k.t.regs ∧ u.k.t.land = s.k.t.land ++ [⟨1, plain o.d (BitVec.ofNat 64 f)⟩] ∧
            u.mem = s.mem)))) ∧
  (∀ (y : Sys) (t t' : TState) (f : Nat), victim y t = (t', some f) → ((getFrame t f).v = false ∨ ((getFrame t f).p = false ∧ (getFrame t f).f = false))))


/-! ## Events and activation lists (09 R212 to R215, R221 to R223; 11 R278 to R280; 13 R331) -/

/-- Event entries at their home: a signal beyond the count raises class 14 detail 1, one that leaves the count above zero
writes it, one that brings it to zero releases the waiters listed; a waiter that finds a count at or below zero goes on, else
its token joins the entry. EVQUERY loads the entry's word 0; WAITEV goes on when the count reads zero and spins otherwise;
at the spin limit, its older accesses done, it parks, or goes on after the access that ended its wait; without a free save slot
it goes on spinning; a parked task is saved. A task released while its core still holds it enters its level at once and is saved
all the same (the model's order, log 45). A name at or above ETCNT.COUNT raises class 14 detail 0. RESUME makes Ready again a
task that class 14 detail 2 parked, and does nothing for a token of none. -/
def Obligations.EventsWaitAndSignal : Prop :=
  (∀ (v : EvAt) (s s1 : State) (name n x : Nat), v.rd s (evVa v.ctx name) 32 = .ok (s1, x) → let e := EvEntry.ofNat x
    (e.count < n → v.signal s name n = .error (.bad .none 14 1 0 0)) ∧
    (n < e.count ∨ (e.count = n ∧ e.nwait = 0) → v.signal s name n = v.wr s1 (evVa v.ctx name) 32 { e with count := e.count - n : EvEntry }.toNat) ∧
    (e.count = n → 0 < e.nwait → e.nwait ≤ 4 → e.sphead = 0 → ∀ s2 ts,
      v.wr s1 (evVa v.ctx name) 32 { e with count := 0, nwait := 0, sphead := 0, sptail := 0 : EvEntry }.toNat = .ok (s2, ts) →
      v.signal s name n = .ok ((e.w.take e.nwait).foldl (fun s t => release s t ts) s2, ts)) ∧
    (e.count ≤ 0 → ∃ ts, ∀ tok, v.park s name tok = .ok (s1, some ts)) ∧
    (0 < e.count → e.nwait < 4 → ∀ tok s2 ts,
      v.wr s1 (evVa v.ctx name) 32 { e with nwait := e.nwait + 1, w := e.w.set e.nwait tok : EvEntry }.toNat = .ok (s2, ts) →
      v.park s name tok = .ok (s2, none))) ∧
  (∀ (s : State) (o : LEvReg), s.guard o.g = true → let n := (s.evOp o.e).toNat
    ((s.isys.etcnt.extractLsb' 0 17).toNat ≤ n → exec (.evquery o) s = traps s ⟨14, 0, 0, 0⟩) ∧
    (n < (s.isys.etcnt.extractLsb' 0 17).toNat → ∀ pa pte, lsXlate s 0 true (evVa s.k.ctx n) ⟨false, false, false⟩ = .ok (s, pa, pte) →
      lsTarget s pa (evVa s.k.ctx n) false true = .ok () →
      exec (.evquery o) s = .next (commit (pushLoad s (.s o.d 8 false) [(pa, 8)] (evVa s.k.ctx n) none)))) ∧
  (∀ (s : State) (o : LEv), s.guard o.g = true → s.k.parking = .no → let n := (s.evOp o.e).toNat
    ((s.isys.etcnt.extractLsb' 0 17).toNat ≤ n → exec (.waitev o) s = traps s ⟨14, 0, 0, 0⟩) ∧
    (n < (s.isys.etcnt.extractLsb' 0 17).toNat → lsQuiet s.k = true → ∀ pa pte s1 bs,
      lsXlate s 0 true (evVa s.k.ctx n) ⟨false, false, false⟩ = .ok (s, pa, pte) → lsTarget s pa (evVa s.k.ctx n) false true = .ok () →
      lsReadHome s s.cur pa 8 = .ok (s1, bs) →
      exec (.waitev o) s = .next (if bytesToNat bs / 2 ^ 32 = 0 then commit (endSpin s1) else hold s1))) ∧
  (∀ (s : State) (t : Task) (o : LEv) (since : Nat), s.k.task = some t → frozenWaitev s.k = some (o, since) →
    (s.now < since + spinLimit s.k ∨ lsQuiet s.k = false → exec .waitevSpinLimit s = .next s) ∧
    (since + spinLimit s.k ≤ s.now → lsQuiet s.k = true →
      (saveSlot s t = none → exec .waitevSpinLimit s = .next (lacksSlot s (coreDie s.cur) t.uid 1)) ∧
      (∀ slot, saveSlot s t = some slot →
        (s.k.parking = .no → ∀ n, s.evName (s.evOp o.e) = .ok n →
          (∀ s1, (EvAt.mk (coreDie s.cur) s.k.ctx s.k.pts).park s n (taskToken t.uid) = .ok (s1, none) →
            exec .waitevSpinLimit s = .next (s1.modK fun k => { k with parking := .parked })) ∧
          (∀ s1 ts, (EvAt.mk (coreDie s.cur) s.k.ctx s.k.pts).park s n (taskToken t.uid) = .ok (s1, some ts) →
            exec .waitevSpinLimit s = .next (commit ((endSpin (s1.modK fun k => { k with pts := max k.pts ts })).modK fun k => { k with frozen := false })))) ∧
        (quietFor s s.cur = true → ∀ u, saveTask (commit s) s.cur t slot = .ok u →
          s.k.parking = .parked ∨ s.k.parking = .released → exec .waitevSpinLimit s = .next u)))) ∧
  (∀ (s : State) (d : DieId) (uid why : Nat), ((uid, why) ∈ (s.die d).noSlot → lacksSlot s d uid why = s) ∧
    ((uid, why) ∉ (s.die d).noSlot → lacksSlot s d uid why = raiseInt (s.modDie d fun x => { x with noSlot := x.noSlot ++ [(uid, why)] }) d 1)) ∧
  (∀ (s : State) (uid ts : Nat),
    (∀ x, s.saved.find? (fun x => x.uid == uid) = some x →
      release s (2 * uid) ts = readySaved { s with saved := s.saved.map fun y => if y.uid = uid then { y with pts := max y.pts ts } else y } x) ∧
    (∀ c t, s.saved.find? (fun x => x.uid == uid) = none → (s.core c).task = some t → t.uid = uid → (s.core c).parking = .parked →
      (∀ c' t', (s.core c').task = some t' → t'.uid = uid → c' = c) →
      release s (2 * uid) ts = readyTask (s.modCore c fun k => { k with parking := .released, pts := max k.pts ts }) (coreDie c) t)) ∧
  (∀ (s u : State) (t : Task) (slot : Nat), saveTask s s.cur t slot = .ok u → (u.core s.cur).task = none ∧
    ∃ x ∈ u.saved, x.uid = t.uid ∧ x.slot = slot ∧ x.t.regs = s.k.t.regs ∧ x.t.pc = s.k.t.pc) ∧
  (∀ (s : State) (tok : BitVec 32), (∀ x ∈ s.saved, taskToken x.uid ≠ tok.toNat) → exec (.resume tok) s = .next s) ∧
  (∀ (s : State) (x : Saved) (f : Inflight) (n : Nat) (o : LEv) (rest : List (Nat × SlotDo)) (tok : BitVec 32), x ∈ s.saved →
    taskToken x.uid = tok.toNat → (∀ y ∈ s.saved, taskToken y.uid = tok.toNat → y = x) → x.t.sys.cause = 0xE2 → x.t.fl = some f → f.todo = (n, .run (.waitev o)) :: rest →
    (∀ d, ∀ e ∈ (s.die d).ready, e.uid ≠ some x.uid) → (∀ c, (s.core c).loading ≠ some (some x.uid)) →
    ∃ t, exec (.resume tok) s = .next t ∧
      (t.die x.die).ready = (s.die x.die).ready ++ [⟨x.task.gid, x.die, some x.uid, levelOf s x.task.gid, s.now⟩] ∧ t.saved = s.saved)

/-- ACTSET and ACTCLR hand their update to the die's Pointer after its checks, class 15 detail 12 for an invalid list or tile;
the Pointer applies its updates oldest first; a list in error takes none, and one whose storage fails is marked. Neighbours of
a tile are those beside it in its grid, in ascending order. Set marks the tile in the bitmap and appends it to the next list, Clr
takes the mark back, and swap makes the next list, without its cleared entries, the current one and copies it. A grid driven by
a list starts on the list's swap with the positions drawn, or fails with class 15 detail 13 when the list is in error, or is not
configured, which is the model's choice, as is the form of a cleared entry (log 28). -/
def Obligations.ActivationListsRecordAndSwap : Prop :=
  (∀ (s s1 : State) (g : Guard) (list : BitVec 3) (i : Word) (set : Bool) (nb : Nb) (a : ActDesc) (x : Instr),
    ((∃ o : LAct, x = .actset o ∧ g = o.g ∧ list = o.list ∧ i = s.sR o.idx + o.imm.signExtend 64 ∧ set = true ∧ nb = o.nb) ∨
     (∃ o : LActClr, x = .actclr o ∧ g = o.g ∧ list = o.list ∧ i = s.sR o.idx + o.imm.signExtend 64 ∧ set = false ∧ nb = .none)) →
    s.guard g = true → let d := coreDie s.cur
    (Ptr.mk d s.k.ctx).desc s list.toNat = .ok (s1, a) →
    (a.v = false ∨ a.size ≤ i.toNat ∨ (nb ≠ .none ∧ a.w = 0) → exec x s = traps s ⟨15, 12, 0, 0⟩) ∧
    (a.v = true → i.toNat < a.size → nb = .none ∨ a.w ≠ 0 →
      exec x s = .next (commit (s1.modDie d fun y => { y with ptr := y.ptr ++ [⟨s.cur, taskUid s.k, s.k.ctx, list, i, set, nb⟩] })))) ∧
  (∀ (s s1 : State) (u : ActUpd) (rest : List ActUpd), (s.die s.dsel).ptr = u :: rest → applyUpd s s.dsel u = .ok s1 →
    exec .activationUpdateApply s = .next (s1.modDie s.dsel fun y => { y with ptr := y.ptr.drop 1 })) ∧
  (∀ (s s1 : State) (d : DieId) (u : ActUpd) (a : ActDesc), (Ptr.mk d u.ctx).desc s u.list.toNat = .ok (s1, a) →
    (a.err = true → applyUpd s d u = .ok s1) ∧
    (a.err = false → u.set = true → ∀ s2, (Ptr.mk d u.ctx).actSet s1 a u.tile.toNat u.nb = .ok s2 → applyUpd s d u = .ok s2) ∧
    (a.err = false → u.set = false → ∀ s2, (Ptr.mk d u.ctx).actClr s1 a u.tile.toNat = .ok s2 → applyUpd s d u = .ok s2)) ∧
  (∀ (s : State) (d : DieId) (u : ActUpd) (n : HNote) (c det : Nat) (e : Option Nat) (i : Option Word),
    (Ptr.mk d u.ctx).desc s u.list.toNat = .error (.bad n c det e i) →
    applyUpd s d u = (Ptr.mk d u.ctx).fail (s.noted n) u.list.toNat c det) ∧
  (∀ (a : ActDesc) (i j : Nat), 0 < a.w → (j ∈ neighbours a .eight i ↔ j < a.size ∧ j ≠ i ∧
    j % a.w ≤ i % a.w + 1 ∧ i % a.w ≤ j % a.w + 1 ∧ j / a.w ≤ i / a.w + 1 ∧ i / a.w ≤ j / a.w + 1)) ∧
  (∀ (a : ActDesc) (i j : Nat), 0 < a.w → (j ∈ neighbours a .four i ↔ j ∈ neighbours a .eight i ∧ (j % a.w = i % a.w ∨ j / a.w = i / a.w))) ∧
  (∀ (a : ActDesc) (i : Nat) (nb : Nb), neighbours a .none i = [] ∧ (0 < a.w → (neighbours a nb i).Pairwise (· < ·))) ∧
  (∀ (p : Ptr) (s s1 : State) (a : ActDesc) (i b : Nat), p.rd s (a.bmap + i / 8) 1 = .ok (s1, b) →
    (b.testBit (i % 8) = true → p.set s a i = .ok (s1, a)) ∧
    (b.testBit (i % 8) = false → a.nlen ≠ a.size → ∀ s2 s3 r, p.wr s1 (a.bmap + i / 8) 1 (b ||| 2 ^ (i % 8)) = .ok s2 →
      p.wr s2 (a.next + 4 * a.nlen) 4 i = .ok s3 → p.lens s3 a a.clen (a.nlen + 1) = .ok r → p.set s a i = .ok r) ∧
    (b.testBit (i % 8) = false → p.actClr s a i = .ok s1) ∧
    (b.testBit (i % 8) = true → ∀ s2 s3 es, p.wr s1 (a.bmap + i / 8) 1 (b - 2 ^ (i % 8)) = .ok s2 → p.entries s2 a.next a.nlen = .ok (s3, es) →
      (i ∉ es → p.actClr s a i = .ok s3) ∧
      (∀ n, es[n]? = some i → (∀ m, m < n → es[m]? ≠ some i) → p.actClr s a i = p.wr s3 (a.next + 4 * n) 4 (2 ^ 31 + i)))) ∧
  (∀ (p : Ptr) (s t : State) (a b : ActDesc) (clen nlen : Nat), p.lens s a clen nlen = .ok (t, b) → clen < 2 ^ 24 → nlen < 2 ^ 24 →
    b.nlen = nlen ∧ b.clen = clen ∧ b.va = a.va ∧ b.w0 = a.w0 ∧ b.w1 = a.w1 ∧ b.w2 = a.w2 ∧ b.w3 = a.w3) ∧
  (∀ (p : Ptr) (s s1 s2 s3 s4 s5 : State) (a b : ActDesc) (es : List Nat) (ext : Nat), p.entries s a.next a.nlen = .ok (s1, es) →
    let live := es.filter fun e => decide (e < 2 ^ 31)
    p.putEntries s1 a.next live = .ok s2 → p.putEntries s2 (if a.cur then a.listB else a.listA) live = .ok s3 →
    p.wr s3 a.va 8 (a.w0 ^^^ 2 ^ 61) = .ok s4 → p.lens s4 { a with w0 := a.w0 ^^^ 2 ^ 61 } live.length live.length = .ok (s5, b) →
    p.swap s a ext = .ok (s5, (live.take ext).zipIdx.map fun x => (x.2, x.1))) ∧
  (∀ (s s1 : State) (g : Grid) (l : Level) (a : ActDesc), findGrid s s.item = some g → g.listLevel = some l → g.startable s = true →
    listBusy s g l.listn = false → (Ptr.mk g.qdie g.ctx).desc s l.listn.toNat = .ok (s1, a) →
    (a.err = true ∨ a.v = false → ∃ t, exec .activationGenerationSwap s = .next t ∧
      ∀ h ∈ t.grids, h.gid = g.gid → h.cancelled = true ∧ h.cause = some (BitVec.ofNat 9 253, 0, 0)) ∧
    (a.err = false → a.v = true → ∀ s2 ds, (Ptr.mk g.qdie g.ctx).swap s1 a l.extent.toNat = .ok (s2, ds) →
      ∃ t, exec .activationGenerationSwap s = .next t ∧ ∀ h ∈ t.grids, h.gid = g.gid → h.draws = ds ∧ h.entered = true))


/-! ## Tasks, grids and queues (08 R187 to R199; 09 R201 to R220; 11 R281, R282; 16 R394 to R415) -/

/-- LAUNCH with its packet readable, passing only capabilities that may be launched, into a device queue of its context, writes
the packet into the ring slot at TAIL with the tags of its granules 3 to 7, and TAIL moves by one; a packet that passes
another capability raises class 4 detail 7, a full ring class 15 detail 10, a queue number above 255, a queue that is not
valid, is the host's or of another context detail 11, a depth of 8 detail 6. TASKEND marks the task completing with its
events; TASK_COMPLETION signals them once the task's accesses are done, after the completions reached before it, and frees its
core. -/
def Obligations.LaunchAndTaskEnd : Prop :=
  (∀ (s s1 : State) (o : LScal) (ps : List Piece) (xs : List (Piece × Nat × BitVec 64)), s.guard o.g = true →
    let c := s.cR o.m.cap; let off := (s.sR o.m.idx).toInt + o.m.imm.toInt * 128; let va := ((c.base : Int) + off).toNat
    let n := (s1.sR o.d).toNat
    capErr c .rd off 128 = none → (va % 128 ≠ 0 → exec (.launch o) s = traps s ⟨4, 12, 0, 0⟩) ∧
    (va % 128 = 0 → loadPieces s c va 128 = .ok (s1, ps) → xlatePieces s1 false false ps true = .ok xs →
      (255 < n → exec (.launch o) s = .next (takeFault s1 s1.cur ⟨15, 11, 0, 0⟩ (precisePoint s1.k false))) ∧
      (n ≤ 255 → ∀ t, s1.k.task = some t →
        (8 ≤ t.depth → exec (.launch o) s = .next (takeFault s1 s1.cur ⟨15, 6, 0, 0⟩ (precisePoint s1.k false))) ∧
        (t.depth < 8 → lsQuiet s1.k = true → ∀ s2 bs tags u, readTagged s1 xs = .ok (s2, bs, tags) →
          launchPacket s2 t (64 + n) bs tags = .ok u → exec (.launch o) s = .next (commit u))))) ∧
  (∀ (s s1 : State) (t : Task) (q : Nat) (bs : List Byte) (tags : List Bool) (x : QCtx),
    let lnp : Nat → Bool := fun i => (BitVec.ofNat 128 (bytesToNat ((bs.drop (16 * i)).take 16))).getLsbD 121
    ((∃ i ∈ [3, 4, 5, 6, 7], tags.getD i false = true ∧ lnp i = false) → launchPacket s t q bs tags = .error (.flt s false ⟨4, 7, 0, 0⟩)) ∧
    ((∀ i ∈ [3, 4, 5, 6, 7], tags.getD i false = true → lnp i = true) → readQCtx s (coreDie s.cur) q = .ok (s1, x) →
      (x.v = false ∨ x.host = true ∨ x.asid ≠ s.lsAsid → launchPacket s t q bs tags = .error (.flt s false ⟨15, 11, 0, 0⟩)) ∧
      (x.v = true → x.host = false → x.asid = s.lsAsid → ∃ kept : BitVec 8,
        (∀ i, i < 8 → kept.getLsbD i = (decide (3 ≤ i) && tags.getD i false)) ∧
        launchPacket s t q bs tags = launchInto s1 t q x bs kept))) ∧
  (∀ (s s1 : State) (t : Task) (q : Nat) (c : QCtx) (bs : List Byte) (tags : BitVec 8) (pa : Nat) (pte : BitVec 64) (d : DieId) (y : QSlot),
    slotOfQueue s q = some (d, y) → walkXlate s (coreDie s.cur) s.k.ctx true (c.ring + 128 * (y.tail.toNat % c.size)) ⟨true, false, false⟩ = .ok (s1, pa, pte) →
    pteTagc pte = true → inDev pa = true →
    ((y.tail - y.head).toNat = c.size → launchInto s t q c bs tags = .error (.flt s false ⟨15, 10, 0, 0⟩)) ∧
    ((y.tail - y.head).toNat ≠ c.size → ∀ u, lsWriteHome s1 s.cur pa bs = .ok u → (slotOfQueue u q).isSome = true →
      ∃ v, launchInto s t q c bs tags = .ok v ∧ v.launched = u.launched ++ [⟨q, y.tail.toNat, t.gid, u.k.pts⟩] ∧ v.mem = u.mem ∧
        (pa % 128 = 0 → Sparse.wf false u.tags = true → ∀ i, i < 8 → rdTag v (resolvePa (pa + 16 * i)) = tags.getLsbD i) ∧
        ∀ e z, slotOfQueue v q = some (e, z) → z.tail = y.tail + 1)) ∧
  (∀ (s : State) (o : LTaskend), s.guard o.g = true →
    let es := (o.e1.toList.map fun e => (s.evOp e).toNat) ++ (o.e2.toList.map fun r => ((s.sR r) &&& 0xFFFF).toNat)
    (∀ n ∈ es, n < (s.isys.etcnt.extractLsb' 0 17).toNat) →
    exec (.taskend o) s = .next (commit (s.modT fun t => { t with completing := some (es.map (BitVec.ofNat 16)) }))) ∧
  (∀ (s s1 s3 : State) (t : Task) (names : List (BitVec 16)), s.k.task = some t → s.k.t.completing = some names → s.k.t.fl = none →
    closeStreams s s.cur t.uid = .ok s1 → let s2 := flushCore (s1.modK closeBlocks) s1.cur
    (taskQuiet s2 s2.cur t.uid = false → exec .taskCompletion s = .next s2) ∧
    (taskQuiet s2 s2.cur t.uid = true → let u := queueDone (s2.modK endResidency) s2.cur
      (∀ c, u.dones.head? = some c → c ≠ u.cur → exec .taskCompletion s = .next u) ∧
      (u.dones.head? = some u.cur → signalEnds u t names = .ok s3 → exec .taskCompletion s = .next (leaveCore s3 s3.cur t)))) ∧
  (∀ (s s1 : State) (t : Task) (n : BitVec 16), (signalEnds s t []).toOption.map State.mem = some s.mem ∧
    (opSignal s.clearHts (coreDie s.cur) t.ctx t.uid n.toNat (max (max s.k.pts s.k.t.mwts) (s.doneTs + 1)) = .ok s1 →
      signalEnds s t [n] = .ok { s1 with doneTs := max s1.doneTs s1.hts })) ∧
  (∀ (s : State) (c : CoreId) (t : Task), let u := leaveCore s c t
    (u.core c).task = none ∧ (u.core c).t = TState.reset ∧ slotOf u t.uid = none ∧
    ∀ g ∈ s.grids, g.gid = t.gid → ∃ h ∈ u.grids, h.gid = t.gid ∧ h.done = g.done + 1)

/-- Dispatch places the first entry of the highest level on an idle core, a steal takes one from the die with the most ready
tasks above the threshold, ageing raises an entry's level by one. A new task starts with the registers of 08 Table 8.6 and
PC at ENTRY, its arguments applied; a saved one goes on from its save slot, under its context's descriptor as that stands
now. What takes a task off its core, or halts it: a boundary fault in the order
of 16 R394, among equals the oldest (the model's reading, log 46), the bound on pre-emption, the watchdog, a pre-emption at a Q bundle or at a loop pass, a grid-fatal fault, a
debug halt, the power-loss notice. Which waits count as stopped at the notice is the model's choice (log 27), the free REM of a
bundle that cannot be read too (log 62), and the registers taken from the descriptor (log 59). -/
def Obligations.TasksRunAndStop : Prop :=
  ((∀ (s : State) (e : Ready) (c : CoreId), let s0 := enterGrids s
    (s0.die s0.dsel).dom = .running → headEntry s0 s0.dsel (fun e => e.die == s0.dsel) = some e → pickCore s0 s0.dsel (pavhOf s0 e.gid) = some c →
    placeable s0 e = true → exec .dispatch s = .next (placeEntry s0 s0.dsel e c)) ∧
  (∀ (s : State) (v : DieId) (e : Ready) (c : CoreId), (s.die s.dsel).dom = .running → readyCount s s.dsel = 0 → stealFrom s s.dsel = some v →
    headEntry s v (migratable s) = some e → pickCore s s.dsel (pavhOf s e.gid) = some c → placeable s e = true →
    exec .taskSteal s = .next (placeEntry s v e c)) ∧
  (∀ (s : State) (d : DieId) (ok : Ready → Bool) (e : Ready), headEntry s d ok = some e →
    e ∈ (s.die d).ready ∧ ok e = true ∧ 0 < entrySize s e ∧
      ∀ x ∈ (s.die d).ready, ok x = true → 0 < entrySize s x → x.level < 12 → x.level ≤ e.level) ∧
  (∀ (s : State) (d : DieId) (pavh : Nat) (c : CoreId), pickCore s d pavh = some c → coreDie c = d ∧ (s.core c).task = none ∧ (s.core c).loading = none) ∧
  (∀ (s : State) (d v : DieId), stealFrom s d = some v → v ≠ d ∧ ((s.die d).rebal.extractLsb' 0 16).toNat < readyCount s v ∧
    ∀ u, u ≠ d → readyCount s u ≤ readyCount s v) ∧
  (∀ (s : State) (src : DieId) (e : Ready) (c : CoreId), let t := placeEntry s src e c
    (∀ uid, e.uid = some uid → (t.core c).loading = some (some uid) ∧ (t.core c).t = (s.core c).t) ∧
    (∀ g, e.uid = none → findGrid s e.gid = some g →
      (t.core c).task = some (newTask s.uids g e.die (g.startedOn e.die)) ∧ (t.core c).loading = some none ∧ t.uids = s.uids + 1)) ∧
  (∀ (s : State), ∃ t, exec .ageingPromotion s = .next t ∧ ∀ e ∈ (s.die s.dsel).ready,
    (e.level < 10 → e.since + ageInterval (s.die s.dsel) ≤ s.now → { e with level := e.level + 1, since := s.now } ∈ (t.die s.dsel).ready) ∧
    (10 ≤ e.level ∨ s.now < e.since + ageInterval (s.die s.dsel) → e ∈ (t.die s.dsel).ready)) ∧
  (∀ (s : State) (e : Ready), placeable s e = true ↔ ∀ uid, e.uid = some uid → ∃ x ∈ s.saved, x.uid = uid) ∧
  (∀ (s s0 s1 : State) (t0 t : Task) (g : Regs), s.k.task = some t0 → s.k.loading = some none → ctxNow s (coreDie s.cur) t0 = .ok (s0, t) →
    s0.cur = s.cur → s0.k.dictKid = some t.img.kid →
    applyArgs (s0.modK fun k => clearBufs { k with task := some t } t.ctx.asid) s0.cur t Regs.reset = .ok (s1, g) →
    ∃ u, exec .taskLoading s = .next u ∧ u.k.loading = none ∧ u.k.t.sys = startSys t ∧ u.k.t.land = [] ∧ u.k.t.loads = [] ∧
      (∀ h, findGrid s1 t.gid = some h → h.mwts ≤ u.k.pts) ∧
      ((∀ l ∈ t.img.levels, l.isT = false) → u.k.t.pc = t.img.entry) ∧
      ((∀ l ∈ t.img.levels, l.ireg = 0) → u.k.t.regs = g)) ∧
  (∀ (t : Task), let y := startSys t
    y.status = (if t.ctx.priv = true then 1 else 0) ∧ y.taskid = BitVec.ofNat 64 (t.tag.toNat * 2 ^ 48 + t.idx % 2 ^ 32) ∧
    y.ldie = BitVec.ofNat 64 t.ldie ∧ y.fpctl = 0x20 ∧ y.scl = 0x7F7F7F7F ∧ y.evctl = 0x10 ∧ y.asid = t.ctx.asid.setWidth 64 ∧
    y.rngkey = t.ctx.rngkey ∧ y.ptroot = t.ctx.ptroot ∧ y.wdog = t.ctx.wdlim.setWidth 64) ∧
  (∀ (s s1 s2 : State) (x : Saved) (t1 t2 : TState) (task : Task), s.k.loading = some (some x.uid) →
    s.saved.find? (fun y => y.uid == x.uid) = some x → readSlot s (coreDie s.cur) x.task x.slot x.t = .ok (s1, t1) →
    freshCtx s1 (coreDie s.cur) x.task t1 = .ok (s2, task, t2) → (s2.core s.cur).dictKid = some task.img.kid →
    ∃ u, exec .switchIn s = .next u ∧ u.k.task = some task ∧ u.k.loading = none ∧ u.k.t = t2.resnap s2.now ∧ (t2.fl = none → u.k.t = t2) ∧ u.k.pts = max (s2.core s.cur).pts x.pts ∧
      (∀ y ∈ u.saved, y.uid ≠ x.uid) ∧ (∀ b, x.cbuf = some b → u.k.cbuf = b)) ∧
  (∀ (s s1 : State) (d : DieId) (t t' : Task) (slot : Nat) (x y : TState),
    (readSlot s d t slot x = .ok (s1, y) → y.land = x.land ∧ y.loads = x.loads ∧ y.loops = x.loops ∧ y.fl = x.fl ∧ y.flags = x.flags ∧
      y.regs.s = x.regs.s ∧ y.regs.sp = x.regs.sp ∧ y.regs.v = x.regs.v ∧ y.regs.vp = x.regs.vp) ∧
    (freshCtx s d t x = .ok (s1, t', y) → t'.uid = t.uid ∧ t'.img = t.img ∧ y = { x with sys := y.sys } ∧
      y.sys.ptroot = t'.ctx.ptroot ∧ y.sys.prebound = t'.ctx.prebound ∧
      y.sys.rngctr = x.sys.rngctr ∧ y.sys.lease = x.sys.lease ∧ y.sys.wdog = x.sys.wdog))) ∧
  ((∀ (s : State) (t : Task), canRun s s.cur = true → stopsHere s s.cur = false → s.k.t.fl = none → s.k.task = some t →
    (watchdogDue s.k = true → exec .trapEntry s = .next (faultBefore (remOf s t).1 ⟨21, 0, 0, 0⟩ (remOf s t).2)) ∧
    (watchdogDue s.k = false → topPend s.k.t = none → exec .trapEntry s = .next s) ∧
    (∀ p, watchdogDue s.k = false → topPend s.k.t = some p → let r := remOf (s.modT fun x => { x with pend := x.pend.erase p }) t
      exec .trapEntry s = .next (faultBefore r.1 p.f r.2))) ∧
  (∀ (t : TState) (p : PendFault), topPend t = some p → p ∈ t.pend ∧ p.held = false ∧ ∀ q ∈ t.pend, q.held = false →
    (q.f.cls = 21 → p.f.cls = 21) ∧ (q.f.cls = 20 → p.f.cls = 21 ∨ p.f.cls = 20) ∧
    (q.f.cls = 10 ∨ q.f.cls = 12 → p.f.cls = 21 ∨ p.f.cls = 20 ∨ p.f.cls = 10 ∨ p.f.cls = 12) ∧ (p.f.cls = 16 → q.f.cls = 16)) ∧
  (∀ (s : State) (f : FaultRec) (rem : Nat), faultBefore s f rem = takeFault s s.cur f (if f.cls = 10 ∨ f.cls = 12
    then ⟨s.k.t.pc, false, 0, 0, 0, none, none⟩ else ⟨s.k.t.pc, false, rem, 0, stageEnables s.k.t s.k.t.pc, none, none⟩)) ∧
  (∀ (s : State) (t : Task), (∀ r, s.k.t.rep = some r → remOf s t = (s, r)) ∧
    (s.k.t.rep = none → ∀ s1 n w, fetchBundle s t = .ok (s1, n, w) → remOf s t = (s, (Bundle.ofBits w).h.rep.toNat))) ∧
  (∀ (s : State) (f : FaultRec) (p : TrapPoint), s.k.trap = some (f, p) → exec .trapEntry s = .next (takeFault s s.cur f p)) ∧
  (∀ (s : State), let b := (s.k.t.sys.prebound.extractLsb' 0 32).toNat
    b ≠ 0 → b < s.k.t.pbcnt → s.k.preempt = true → s.k.task.isSome = true → trapMode s.k = false →
    ∃ t, exec .preboundExceeded s = .next t ∧ onlyCore s t ∧ t.k.t = { s.k.t with pend := s.k.t.pend ++ [⟨⟨16, 4, 0, 0⟩, false⟩], pbcnt := 0 }) ∧
  (∀ (s : State), let w := s.k.t.sys.wdog.toNat
    s.k.task.isSome = true → s.k.loading = none → s.k.t.fatal = none → w % 2 ^ 32 ≠ 0 → w % 2 ^ 32 ≤ w / 2 ^ 32 →
    (s.k.t.fl.isSome = true → exec .watchdogExpiry s = .next (takeFault s s.cur ⟨21, 0, 0, 0⟩ (precisePoint s.k false))) ∧
    (∀ t, s.k.t.fl = none → s.k.task = some t → exec .watchdogExpiry s = .next (faultBefore (remOf s t).1 ⟨21, 0, 0, 0⟩ (remOf s t).2))) ∧
  (∀ (s : State) (mask : BitVec 36), ∃ t, exec (.prmpt mask) s = .next t ∧ ∀ c,
    t.core c = if coreDie c = s.dsel ∧ mask.getLsbD (coreLocal c) = true ∧ (s.core c).task.isSome = true then { s.core c with preempt := true } else s.core c) ∧
  (∀ (s : State) (mask : BitVec 36), ∃ t, exec (.dbghalt mask) s = .next t ∧ t.die s.dsel = { s.die s.dsel with dbghalt := mask.setWidth 64 } ∧
    (∀ d, d ≠ s.dsel → t.die d = s.die d) ∧ t.cores = s.cores ∧ t.mem = s.mem) ∧
  (∀ (s : State) (t : Task) (slot : Nat), s.k.task = some t → atBoundary s = true → s.k.draining = none → passHere s.k = none →
    atQBundle s t = true → saveSlot s t = some slot → quietFor s s.cur = true →
    ∀ u, preemptNow s t slot = .ok u → exec .preemptAtQBundle s = .next u ∧ u.k.task = none ∧ u.k.preempt = false ∧
      ∃ x ∈ u.saved, x.uid = t.uid ∧ x.task = t ∧ x.slot = slot ∧ x.t.pc = s.k.t.pc ∧ x.t.regs = (landAll s.k.t).regs ∧ x.t.loops = s.k.t.loops) ∧
  (∀ (s : State), atBoundary s = true ↔ canRun s s.cur = true ∧ stopsHere s s.cur = false ∧ s.k.t.fl = none ∧ s.k.preempt = true ∧
    trapMode s.k = false ∧ watchdogDue s.k = false ∧ topPend s.k.t = none) ∧
  (∀ (s : State) (t : Task), s.k.task = some t → atBoundary s = true → saveSlot s t = none → s.k.draining = none →
    (passHere s.k = none → atQBundle s t = true → exec .preemptAtQBundle s = .next (lacksSlot s (coreDie s.cur) t.uid 0)) ∧
    (passHere s.k ≠ none → exec .preemptAtLoopPass s = .next (lacksSlot s (coreDie s.cur) t.uid 0))) ∧
  (∀ (s : State) (t : Task) (slot : Nat) (i : Fin 4), s.k.task = some t → atBoundary s = true → saveSlot s t = some slot → let l := s.k.t.loops.get i
    (s.k.draining = none → innermost s.k.t s.k.t.pc = some i → s.k.t.atPass = true → l.pass < l.iters →
      ∃ u, exec .preemptAtLoopPass s = .next u ∧ u.k.draining = some (i.val, l.pass) ∧
        (1 < l.ns → (u.k.t.loops.get i).pre = true ∧ (u.k.t.loops.get i).lim = some l.pass) ∧
        (l.ns ≤ 1 → (u.k.t.loops.get i).pass = 0 ∧ (u.k.t.loops.get i).n = l.n - l.pass)) ∧
    (∀ p, s.k.draining = some (i.val, p) → l.pre = false → quietFor s s.cur = true →
      ∀ u, preemptNow (s.modT fun x => resumePass x i) t slot = .ok u → exec .preemptAtLoopPass s = .next u ∧ u.k.task = none ∧ ∃ x ∈ u.saved, x.uid = t.uid ∧ x.task = t ∧ x.slot = slot)) ∧
  (∀ (s s1 : State) (t : Task) (f : FaultRec), s.k.task = some t → s.k.t.fatal = some f → closeStreams s s.cur t.uid = .ok s1 →
    fatalReady s1 s.cur t.uid = false → exec .gridFatalFault s = .next s1) ∧
  (∀ (s s1 v : State) (t : Task) (f : FaultRec), s.k.task = some t → s.k.t.fatal = some f → closeStreams s s.cur t.uid = .ok s1 →
    fatalReady s1 s.cur t.uid = true → fatalEnd s1 s.cur t f = .ok v →
    ∃ u, exec .gridFatalFault s = .next u ∧ u = { v with cur := s.cur } ∧ u.k.task = none ∧ u.k.t = TState.reset ∧
      ∀ h ∈ u.grids, h.gid = t.gid → h.cancelled = true ∧ h.cause ≠ none) ∧
  (∀ (s : State), (s.pln = none → ∃ t, exec .powerLossNotice s = .next t ∧ t.pln = some s.now ∧
      (∀ c, (t.core c).plnHalt = true ∧ (t.core c).mat.queue = [] ∧ (t.core c).mat.run = none ∧ (t.core c).mat.busy = 0 ∧ (t.core c).t = (s.core c).t) ∧
      (∀ e, t.engine e = []) ∧ t.mem = s.mem ∧
      t.agenda = s.agenda ++ allDies.map fun d => ⟨s.cur, d, 0, 0, .powerLossNotice⟩) ∧
    (∀ t0, s.pln = some t0 →
      ((∀ c, coreDie c = s.dsel → plnStopped s c = true) → ∀ u, plnSave s s.dsel t0 = .ok u → exec .powerLossNotice s = .next u) ∧
      (∀ c, coreDie c = s.dsel → plnStopped s c = false → exec .powerLossNotice s = .next (s.deferDie s.dsel .powerLossNotice)))))


/-- Queues: a doorbell moves TAIL when it lies within SIZE of HEAD and else sets ERR and interrupts; a pending queue takes a
slot, a reclaimed slot's words go back to its context; the packet at HEAD of a resident queue becomes a grid, a signal or
nothing, and HEAD moves by one; a ring slot that cannot be read stops its queue. A malformed packet fails with class 15
detail 8. A finished grid, with nothing its tasks left running, has its record written and DONEEV signalled, and leaves. What a
queue manager does when its own access fails, the mark of a stopped queue in memory, and the readings of the launch path are
the model's (logs 18, 20, 26). -/
def Obligations.QueuesAndGrids : Prop :=
  (∀ (s s1 : State) (v : BitVec 32) (c : QCtx) (d : DieId) (x : QSlot), let q := s.item % 64
    blockReached s (portNo s) s.dsel = true → doorbellWaits s q = false → blockWaits s s.dsel = false →
    readQCtx s s.dsel q = .ok (s1, c) → c.v = true → slotOfQueue s1 q = some (d, x) →
    ((v - x.head).toNat ≤ c.size → exec (.doorbell v) s = .next (modSlot s1 q fun y => { y with tail := v })) ∧
    (c.size < (v - x.head).toNat → exec (.doorbell v) s = .next (raiseInt (modSlot s1 q fun y => { y with err := true, stopped := y.stopped }) c.qdie 0))) ∧
  (∀ (s s1 : State) (v : BitVec 32) (c : QCtx), blockReached s (portNo s) s.dsel = true → doorbellWaits s (s.item % 64) = false →
    blockWaits s s.dsel = false → readQCtx s s.dsel (s.item % 64) = .ok (s1, c) → c.v = false → exec (.doorbell v) s = .next s1) ∧
  (∀ (s : State) (v : BitVec 32), (blockReached s (portNo s) s.dsel = false → exec (.doorbell v) s = .next (s.emit .unsupported)) ∧
    (blockReached s (portNo s) s.dsel = true → doorbellWaits s (s.item % 64) = true ∨ blockWaits s s.dsel = true →
      exec (.doorbell v) s = .next (s.deferDie s.dsel (.doorbell v) s.unit (s.item % 64)))) ∧
  (∀ (s : State) (p d : DieId), blockReached s p d = true ↔ islActive s d = true ∧ routeErr s p d false = none) ∧
  (∀ (s s1 s2 : State) (q : Nat) (rest : List Nat) (c : QCtx), (s.die s.dsel).pendq = q :: rest → slotOfQueue s q = none →
    readQCtx s s.dsel q = .ok (s1, c) →
    (c.v = false ∨ c.pend = false ∨ c.qdie ≠ s.dsel → exec .queueSwitchIn s = .next (pendQueue s1 s.dsel q false)) ∧
    (c.v = true → c.pend = true → c.qdie = s.dsel → slotFree (s1.die s.dsel) = true →
      physWrite s1 s.dsel (qctxPa s1 s.dsel q + 32) 8 (qWord4 false c.err true (c.w4.testBit 60)) = .ok s2 →
      ∃ t, exec .queueSwitchIn s = .next t ∧ q ∉ (t.die s.dsel).pendq ∧
        some ⟨q, BitVec.ofNat 32 c.tail, BitVec.ofNat 32 c.head, c.err, c.w4.testBit 60, s2.now⟩ ∈ (t.die s.dsel).qslots)) ∧
  (∀ (s s1 : State) (x : QSlot), (s.die s.dsel).qslots.getD s.item none = some x → ((victimOk s x).1 = true ∨ (victimOk s x).2 = true) →
    physWrite s s.dsel (qctxPa s s.dsel x.q + 24) 16
      (x.head.toNat + 2 ^ 32 * x.tail.toNat + 2 ^ 64 * qWord4 (x.tail != x.head) x.err false x.stopped) = .ok s1 →
    ∃ t, exec .queueSwitchOut s = .next t ∧ (t.die s.dsel).qslots = (s1.die s.dsel).qslots.set s.item none ∧ t.mem = s1.mem) ∧
  (∀ (s s1 s2 s3 : State) (x : QSlot) (c : QCtx) (ctx : Ctx) (p : Packet), slotOfQueue s s.item = some (s.dsel, x) → x.stopped = false →
    x.tail ≠ x.head → readQCtx s s.dsel s.item = .ok (s1, c) → readCtx s1 s.dsel c.ctxpa = .ok (s2, ctx) →
    readPacket s2 s.dsel s.item c ctx x.head.toNat = .ok (s3, p) →
    (p.f 0 60 4 = 0 → exec .queuePacketRead s = .next (modSlot (forgetLaunch s3 s.item x.head.toNat) s.item fun y => { y with head := y.head + 1 })) ∧
    (p.f 0 60 4 = 2 → ∀ s4, acceptSignal s3 s.dsel s.item p ctx = .ok s4 →
      exec .queuePacketRead s = .next (modSlot (forgetLaunch s4 s.item x.head.toNat) s.item fun y => { y with head := y.head + 1 })) ∧
    (p.f 0 60 4 ≠ 0 → p.f 0 60 4 ≠ 2 → ∀ s4, acceptLaunch s3 s.dsel s.item p c.sys ctx = .ok s4 →
      exec .queuePacketRead s = .next (modSlot s4 s.item fun y => { y with head := y.head + 1 }))) ∧
  (∀ (s : State) (x : QSlot) (n : HNote) (cl dt : Nat) (a : Option Nat) (i : Option Word), slotOfQueue s s.item = some (s.dsel, x) →
    x.stopped = false → x.tail ≠ x.head → packetAt s s.dsel s.item x.head.toNat = .error (.bad n cl dt a i) →
    exec .queuePacketRead s = .next (raiseInt (modSlot (s.noted n) s.item fun y => { y with err := true, stopped := true }) s.dsel 0)) ∧
  (∀ (s : State) (d : DieId) (q : Nat) (p : Packet) (sys : Bool) (ctx : Ctx), packetBad p sys (etCount ctx) = true →
    ∃ t, acceptLaunch s d q p sys ctx = .ok t ∧ t.uids = s.uids + 1 ∧ t.qlast = s.qlast ∧
      ∃ g ∈ t.grids, g.gid = s.uids ∧ g.cancelled = true ∧ g.cause = some (BitVec.ofNat 9 248, 0, 0)) ∧
  (∀ (s : State) (g : Grid), findGrid s s.item = some g → g.finished s = false → exec .gridComplete s = .next s) ∧
  (∀ (s : State) (g : Grid), g.finished s = true → (g.cancelled = true ∨ g.entered = true) ∧ g.children = 0 ∧ g.launches = 0 ∧
    (∀ e, ∀ o ∈ s.engine e, o.uid ∉ g.lag) ∧ (∀ d, ∀ o ∈ (s.die d).coll, o.uid ∉ g.lag) ∧ (∀ d, ∀ u ∈ (s.die d).ptr, u.uid ∉ g.lag) ∧
    ∀ t ∈ s.ticks, t.done = true ∨ (t.uid ∉ g.lag ∧ (t.kind = 2 → t.ctx.asid ≠ g.ctx.asid))) ∧
  (∀ (s s1 : State) (g : Grid), findGrid s s.item = some g → g.finished s = true →
    (writeRecord s g.qdie g).bind (fun s => signalDone s g.qdie g) = .ok s1 →
    ∃ t, exec .gridComplete s = .next t ∧ (∀ h ∈ t.grids, h.gid ≠ g.gid) ∧ t.mem = s1.mem) ∧
  (∀ (g : Grid), recordOf g = natToBytes 8 (g.pkt.f 5 0 64) ++ natToBytes 8 (match g.cause with
    | some (c, info, _) => 2 ^ 63 + 2 ^ 62 + c.toNat * 2 ^ 52 + info.toNat % 2 ^ 52
    | none => 2 ^ 63))


/-! ## Statistics, ticks and step sets (03 R77 to R90; 11 R283 to R286) -/

/-- GOVTICK, STEPCOMMIT and STEPABORT start a tick, and those that wait end with it: STEPCOMMIT writes 1 when the set committed,
0 when it was aborted, and raises the floor fault it met with its slot committed. RESCALE and STEPBEGIN send one GV update
and end with it. Without an open set class 11 detail 6; a count of 0 or above 1,024, or a handle of more than 24 bits, class
11 detail 5. The governor's own actions: GV_UPDATE_AT_HOME performs an update once; STATS_FLUSH sends one entry's counts into
its record and keeps the remainders, and STATS_FLUSH_REPLY brings BASE and OVER; STEP_STATE_REWRITE marks a closing set's
members and then rewrites them on each die, TICK_GOVERN governs each die's records, TICK_COMPLETE clears the norms and the
allowances and ends the tick; a set commits exactly when it stayed finite and was not aborted. Rest on the model's choices: a
sigma below SMIN counts as at the floor, and the timestamp of a commit (log 61); BINBASE's clamp and what FROZEN holds of a loss
scale (log 42); the order of a STEPBEGIN's failures and how a tick reports a record it cannot use (log 55). -/
def Obligations.GovernorSlotsAndActions : Prop :=
  ((∀ (s : State) (o : LGovtick) (ev : Option (BitVec 16)), s.guard o.g = true →
    (∀ t, myTick s = some t → exec (.govtick o) s = .next (if t.done then commit (endTick s t) else hold s)) ∧
    (myTick s = none → (o.e = none ∧ ev = none) ∨
        (∃ e, o.e = some e ∧ (s.evOp e).toNat < (s.isys.etcnt.extractLsb' 0 17).toNat ∧ ev = some (BitVec.ofNat 16 (s.evOp e).toNat)) →
      exec (.govtick o) s = .next (if o.wait then hold (startTick s 0 ev true) else commit (startTick s 0 ev false))) ∧
    (myTick s = none → ∀ e, o.e = some e → (s.isys.etcnt.extractLsb' 0 17).toNat ≤ (s.evOp e).toNat →
      exec (.govtick o) s = traps s ⟨14, 0, 0, 0⟩)) ∧
  (∀ (s : State) (o : LDst), s.guard o.g = true →
    (myTick s = none → openSet s = none → exec (.stepcommit o) s = traps s ⟨11, 6, 0, 0⟩) ∧
    (∀ x, myTick s = none → openSet s = some x → exec (.stepcommit o) s = .next (hold (startTick s 1 none true))) ∧
    (∀ t, myTick s = some t → t.done = false → exec (.stepcommit o) s = .next (hold s)) ∧
    (∀ t, myTick s = some t → t.done = true →
      let u := (endTick s t).modRegs fun g => (plain o.d (if t.committed = some true then 1 else 0)).apply g
      (t.floor = none → exec (.stepcommit o) s = .next (commit u)) ∧
      (∀ f, t.floor = some f → exec (.stepcommit o) s = .next (takeFault u u.cur f (precisePoint u.k true))))) ∧
  (∀ (s : State) (o : LGuard), s.guard o.g = true →
    (myTick s = none → openSet s = none → exec (.stepabort o) s = traps s ⟨11, 6, 0, 0⟩) ∧
    (∀ x, myTick s = none → openSet s = some x → exec (.stepabort o) s = .next (hold (startTick s 2 none true))) ∧
    (∀ t, myTick s = some t → exec (.stepabort o) s = .next (if t.done then commit (endTick s t) else hold s))) ∧
  (∀ (s : State) (x : Tick), (∀ t ∈ (endTick s x).ticks, t.core ≠ s.cur ∨ t.uid ≠ taskUid s.k ∨ t.waits = false) ∧
    (endTick s x).k.pts = max s.k.pts x.mw ∧ (endTick s x).k.t = s.k.t ∧ (endTick s x).mem = s.mem) ∧
  (∀ (s : State) (o : LMem), s.guard o.g = true → let c := s.cR o.m.cap
    let start : Int := ((c.base : Int) + ((s.sR o.m.idx).toInt + o.m.imm.toInt * 4096)) / 4096 * 4096
    myGv s = none → capErr c .both (start - c.base) 4096 = none →
    (c.handle = 0 → exec (.rescale o) s = traps s ⟨4, 10, 0, 0⟩) ∧
    (c.handle ≠ 0 → ∀ s1 r, gvOp s c.handle start.toNat (engage s s.gvOf.d s.gvOf.ctx c.handle) = .ok (s1, r) →
      (start.toNat < r.w.dbase ∨ r.w.dbase + r.w.len ≤ start.toNat → exec (.rescale o) s = traps s1 ⟨4, 9, 0, 0⟩) ∧
      (r.w.dbase ≤ start.toNat → start.toNat < r.w.dbase + r.w.len →
        (privMode s1.k = false → start.toNat / 2 ^ 56 % 2 = 1 → exec (.rescale o) s = traps s1 ⟨3, 2, 0, 0⟩) ∧
        (privMode s1.k = true ∨ start.toNat / 2 ^ 56 % 2 = 0 →
          exec (.rescale o) s = .next (hold { s1 with gv := s1.gv ++ [⟨s1.cur, .rescale c.handle r.va ((start.toNat - r.w.dbase) / 4096), false, none, 0⟩] }))))) ∧
  (∀ (s : State) (i : Instr) (g : Guard) (r : GvReq), ((∃ o : LMem, i = .rescale o ∧ g = o.g) ∨ (∃ o : LScal, i = .stepbegin o ∧ g = o.g)) →
    s.guard g = true → myGv s = some r →
    let u : State := { (s.modK fun k => { k with pts := max k.pts r.mw, t := k.t.gvDone r.mw }) with gv := s.gv.filter fun x => x.core != s.cur }
    (r.done = false → exec i s = .next (hold s)) ∧
    (r.done = true → r.fault = none → exec i s = .next (commit u)) ∧
    (∀ f, r.done = true → r.fault = some f → f.cls ≠ 20 →
      exec i s = .next (takeFault u u.cur ⟨f.cls, f.det, f.eva, f.einfo⟩ (precisePoint u.k false)))) ∧
  (∀ (s s1 s2 : State) (o : LScal) (ps : List Piece) (xs : List (Piece × Nat × BitVec 64)) (bs : List Byte), s.guard o.g = true → myGv s = none →
    let n := (s.sR o.d).toNat
    let c := s.cR o.m.cap; let off := (s.sR o.m.idx).toInt + o.m.imm.toInt * 4; let va := ((c.base : Int) + off).toNat
    (n = 0 ∨ 1024 < n → exec (.stepbegin o) s = traps s ⟨11, 5, 0, 0⟩) ∧
    (1 ≤ n → n ≤ 1024 → capErr c .rd off (4 * n) = none → loadPieces s c va (4 * n) = .ok (s1, ps) → xlatePieces s1 false false ps = .ok xs →
      lsQuiet s1.k = true →
      xs.foldlM (init := (s1, ([] : List Byte))) (fun y x => (lsReadHome y.1 y.1.cur x.2.1 x.1.len).map fun r => (r.1, y.2 ++ r.2)) = .ok (s2, bs) →
      let hs := (List.range n).map fun i => bytesToNat ((bs.drop (4 * i)).take 4)
      ((∃ h ∈ hs, 2 ^ 24 ≤ h) → exec (.stepbegin o) s = .next (takeFault s2 s2.cur ⟨11, 5, 0, 0⟩ (precisePoint s2.k false))) ∧
      ((∀ h ∈ hs, h < 2 ^ 24) → exec (.stepbegin o) s = .next (hold { s2 with gv := s2.gv ++ [⟨s2.cur, .stepbegin hs, false, none, 0⟩] }))))) ∧
  ((∀ (s : State) (r : GvReq), myGv s = some r → r.done = false →
    (∀ h rva g, r.upd = .rescale h rva g → ∀ s1 x s2, engageVa s.clearHts s.gvOf.d s.gvOf.ctx h rva = .ok (s1, x) →
      rescaleGran s.gvOf s1 x g s1.ftz (bjumpOf s1.isys) = .ok s2 →
      exec .gvUpdateAtHome s = .next (modGvReq s2 s2.cur fun r => { r with done := true, mw := s2.hts })) ∧
    (∀ hs, r.upd = .stepbegin hs → ∀ s1, openStep s.gvOf s.clearHts hs = .ok s1 →
      exec .gvUpdateAtHome s = .next (modGvReq s1 s1.cur fun r => { r with done := true, mw := s1.hts }) ∧ stepSet s s.k.ctx.asid = none ∧
      (stepSet s1 s.k.ctx.asid).isSome = true) ∧
    (∀ hs n c d e i, r.upd = .stepbegin hs → openStep s.gvOf s.clearHts hs = .error (.bad n c d e i) →
      exec .gvUpdateAtHome s = .next (modGvReq (s.noted n) s.cur fun r => { r with done := true, fault := some ⟨c, d, e.getD 0, i.getD 0⟩ }))) ∧
  (∀ (s s1 s2 s3 : State) (e : StatEnt) (r : RecRef) (p : BitVec 128), nextFlush s.k = some e →
    let v : Gv := ⟨coreDie s.cur, e.ctx⟩
    engage s.clearHts v.d v.ctx e.handle = .ok (s1, r) → v.policy s1 r = .ok (s2, p) →
    let x := flushInto r.w e (polHunit p) (polOvlim p)
    v.putRec s2 { r with w := x.1 } = .ok s3 → ∃ t, exec .statsFlush s = .next t ∧ t.mem = s3.mem ∧
      t.k.stats = (modStat s3.k e fun _ => [x.2]).stats ∧
      (∀ y, s3.k.task = some y → y.uid = e.uid → (∀ c z, (s3.core c).task = some z → z.uid = e.uid → c = s3.cur) → t.k.t = s3.k.t.gvDone s3.hts) ∧
      ∀ y ∈ t.ticks, y.ctx.asid = e.ctx.asid → y.done = false → s3.hts ≤ y.mw) ∧
  (∀ (w : RecBits) (e : StatEnt) (h v : Nat), let x := (flushInto w e h v).2
    x.bins = e.bins.map (· % 2 ^ h) ∧ x.samp = e.samp % 2 ^ h ∧ x.sat = 0 ∧ x.und = 0 ∧ x.nan = 0 ∧ x.maxe = none ∧ x.clean = true ∧
    x.handle = e.handle ∧ x.ctx = e.ctx ∧ x.uid = e.uid ∧ x.reply.isSome = true) ∧
  (∀ (s : State) (e : StatEnt), s.k.stats.find? (fun x => x.reply.isSome) = some e →
    ∃ t, exec .statsFlushReply s = .next t ∧ onlyCore s t ∧ t.k.t = s.k.t ∧
      ∀ x ∈ t.k.stats, x.handle = e.handle → x.ctx.asid = e.ctx.asid → x.evict = e.evict → x.reply = none) ∧
  (∀ (s s1 : State) (t : Tick), s.ticks[s.unit]? = some t → activeTick s s.unit = true → s.dsel ∉ t.governed →
    (t.kind = 0 → t.governed ≠ [] ∨ flushedAll s t.ctx.asid = true) → (t.kind ≠ 0 → ∀ d, d ∈ t.rewritten) →
    (if islActive s s.dsel then onRecords s.clearHts s.unit t s.dsel (handlesOf t.ctx) (fun v x r => governOne x s.unit t v r)
      else .ok s.clearHts) = .ok s1 →
    exec .tickGovern s = .next (modTick s1 s.unit fun y => { y with mw := max y.mw s1.hts, governed := y.governed ++ [s.dsel] })) ∧
  (∀ (s s1 : State) (t : Tick), s.ticks[s.unit]? = some t → activeTick s s.unit = true → t.kind ≠ 0 → s.dsel ∉ t.rewritten →
    (t.committed = none → flushedAll s t.ctx.asid = true → ∀ x, stepSet s t.ctx.asid = some x →
      let ok := decide (t.kind = 1) && !x.finite
      markMembers s.clearHts s.unit t x.members (if ok then 1 else 2) = .ok s1 →
      exec .stepStateRewrite s = .next (modTick s1 s.unit fun y => { y with mw := max y.mw s1.hts, committed := some ok, members := x.members })) ∧
    (∀ ok, t.committed = some ok →
      (if islActive s s.dsel then onRecords s.clearHts s.unit t s.dsel t.members (fun v x r => rewriteState v x r ok)
        else .ok s.clearHts) = .ok s1 →
      exec .stepStateRewrite s = .next (modTick s1 s.unit fun y => { y with mw := max y.mw s1.hts, rewritten := y.rewritten ++ [s.dsel] }))) ∧
  (∀ (s s1 : State) (t : Tick), s.ticks[s.unit]? = some t → activeTick s s.unit = true → (∀ d, d ∈ t.governed) →
    (allDies.filter (islActive s)).foldlM (init := s.clearHts) (fun x d => clearNorms x s.unit t d) = .ok s1 →
    t.ev = none → (s1.ticks[s.unit]?).bind Tick.fault = none →
    ∃ u, exec .tickComplete s = .next u ∧ u.mem = s1.mem ∧ (t.kind ≠ 0 → stepSet u t.ctx.asid = none) ∧
      (t.waits = true → u.ticks = (modTick s1 s.unit fun y => { y with done := true, mw := max t.mw s1.hts }).ticks) ∧
      (t.waits = false → u.ticks = s1.ticks.take s.unit ++ s1.ticks.drop (s.unit + 1)) ∧
      ∀ c, ∀ e ∈ (u.core c).stats, e.ctx.asid = t.ctx.asid → e.above = false ∧ e.base = 0 ∧ e.recOver = false) ∧
  (∀ (w : RecBits) (p : Pol) (discarded : Bool), let s := w.sigma w.live
    (w.satn = 0 ∧ w.nann = 0 ∧ discarded = false) ∨
      (p.smin < s → (r84 w p discarded).1 = (if w.frozen then s else max p.smin (s - p.steplim)) ∧ (r84 w p discarded).2 = (0, false)) ∧
      (s ≤ p.smin → r84 w p discarded = (s, w.clean, true))) ∧
  (∀ (w : RecBits) (p : Pol), w.satn = 0 → w.nann = 0 → let s := w.sigma w.live
    (r84 w p false).2.2 = false ∧
    (p.nclean ≤ w.clean + 1 → s < p.smax → (r84 w p false).1 = (if w.frozen then s else min p.smax (s + p.steplim)) ∧ (r84 w p false).2.1 = 0) ∧
    (w.clean + 1 < p.nclean ∨ p.smax ≤ s → r84 w p false = (s, min p.nclean (w.clean + 1), false))) ∧
  (∀ (w : RecBits) (p : Pol), w.frozen = true → (r81 w p).1 = w.sigma w.live ∧ (r81 w p).2.1 = w.fmt))


/-! ## The matrix engine (14 R349 to R368; 15 R385 to R387) -/

/-- A matrix slot whose descriptors pass Table 14.6 joins the queue and sets the busy bits of its tiles; the lowest failing
detail raises class 10, which is the model's order (log 61); K of 4 raises class 13 detail 3; MRS raises class 13 detail 0 in a dual slot and class 12 for a
missing table, another length or a count exhausted; MSCALE class 12 detail 6 with SCNT.T at 0. MTWAIT waits for its tile,
or for all. -/
def Obligations.MatrixSlots : Prop :=
  (∀ (s : State) (i : Instr) (x : MatPair), matPair s i = some x → x.pre = none →
    let da := s.iregs.md.get x.a.toFin; let db := s.iregs.md.get x.b.toFin
    (∀ det, det ∈ [0, 1, 2, 3, 4, 5, 6, 8] → x.bad da db det = true → (∀ e, e ∈ [0, 1, 2, 3, 4, 5, 6, 8] → e < det → x.bad da db e = false) →
      exec i s = traps s ⟨10, det, 0, 0⟩) ∧
    (∀ s1 s2 sa sb va vb, (∀ det, det ∈ [0, 1, 2, 3, 4, 5, 6, 8] → x.bad da db det = false) → sigmaOf s da x.mop = .ok (s1, sa, va) →
      sigmaOf s1 db x.mop = .ok (s2, sb, vb) →
      (∀ e, x.late = some e → exec i s = traps s2 ⟨12, e, 0, 0⟩) ∧
      (x.late = none → s2.k.mat.queue.length < 4 →
        let o : MOp := { kind := x.kind, tile := x.tile, a := da, b := db, ta := da.tr != x.fl.ta, tb := db.tr != x.fl.tb, ra := x.fl.ra, rb := x.fl.rb
                         dual := x.dk != 0, k := x.dk, sigA := sa, sigB := sb, ftz := s2.ftz, recA := va, recB := vb }
        ∃ t, exec i s = .next (commit t) ∧ onlyCore s2 t ∧ t.k.mat.queue = s2.k.mat.queue ++ [o] ∧ t.k.t = s2.k.t ∧ t.k.cbuf = s2.k.cbuf ∧
          ∀ n, n < 32 → t.k.mat.busy.getLsbD n = (s2.k.mat.busy.getLsbD n || o.tiles.contains n)))) ∧
  (∀ (s : State) (d : MDesc), (d.rs = false → sigmaOf s d false = .ok (s, d.sig, 0)) ∧
    (d.rs = true → ∀ m, (d.cap.tag = false → sigmaOf s d m = .error (.flt s false ⟨4, 0, 0, 0⟩)) ∧
      (d.cap.tag = true → d.cap.perms.getLsbD 4 = true → d.cap.handle ≠ 0 → ∀ s1 r,
        gvOp s d.cap.handle 0 (engage s s.gvOf.d s.gvOf.ctx d.cap.handle) = .ok (s1, r) →
        sigmaOf s d m = if d.fmt = some (recFmt r.w.fmt) then .ok (s1, r.w.sigma r.w.live, r.va) else .error (.flt s1 false ⟨10, 7, 0, 0⟩)))) ∧
  (∀ (s : State) (i : Instr) (x : MatPair) (det : Nat), matPair s i = some x → x.pre = some det → exec i s = traps s ⟨13, det, 0, 0⟩) ∧
  (∀ (s : State) (i : Instr) (kind : MKind) (tile dk : Nat),
    ((∃ o : MTile, i = .mzero o ∧ kind = .zero ∧ tile = o.tile.toNat ∧ dk = s.mtk o.du) ∨
     (∃ o : MTile, i = .mscale o ∧ kind = .scale ∧ tile = o.tile.toNat ∧ dk = s.mtk o.du ∧ scntT s.isys ≠ 0) ∨
     (∃ o : MTile0, i = .mfro o ∧ kind = .fro ∧ tile = o.tile.toNat ∧ dk = 0)) →
    (dk = 4 → exec i s = traps s ⟨13, 3, 0, 0⟩) ∧ (dk ≠ 4 → tileErr dk tile = true → exec i s = traps s ⟨10, 6, 0, 0⟩) ∧
    (dk ≠ 4 → tileErr dk tile = false → s.k.mat.queue.length < 4 → ∃ t o, exec i s = .next (commit t) ∧ onlyCore s t ∧
      t.k.mat.queue = s.k.mat.queue ++ [o] ∧ o.kind = kind ∧ o.tile = tile ∧ o.k = dk ∧ o.ftz = s.ftz ∧ t.k.t = s.k.t ∧ t.k.cbuf = s.k.cbuf ∧
      ∀ n, n < 32 → t.k.mat.busy.getLsbD n = (s.k.mat.busy.getLsbD n || o.tiles.contains n))) ∧
  (∀ (s : State) (o : MTile), scntT s.isys = 0 → exec (.mscale o) s = traps s ⟨12, 6, 0, 0⟩) ∧
  (∀ (s : State) (o : MWait),
    (∀ t, o.tile = some t → (tileBusy s.k t.toNat = false → exec (.mtwait o) s = .next (commit s)) ∧
      (tileBusy s.k t.toNat = true → s.k.mat.resident = none → exec (.mtwait o) s = .next (hold s)) ∧
      (∀ r acc, tileBusy s.k t.toNat = true → s.k.mat.resident = some (r, acc) →
        exec (.mtwait o) s = .next (if r = t.toNat ∧ tileQueued s.k t.toNat = false then commit (s.setCore s.cur (endResidency s.k)) else hold s))) ∧
    (o.tile = none →
      (s.k.mat.queue ≠ [] ∨ s.k.mat.run ≠ none → exec (.mtwait o) s = .next (hold s)) ∧
      (s.k.mat.queue = [] → s.k.mat.run = none → s.k.mat.resident = none → s.k.mat.busy = 0 → exec (.mtwait o) s = .next (commit s))))

/-- The engine: the oldest queued operation starts when none runs, from zeros for MMAZ, MZERO and an MRS that zeroes, else from
its tile; a product leaves in each cell its cycles' exact products added with one rounding each; MFRO, MZERO, MSCALE,
MNORM and MALIAS leave what their rules say; sampling, no vector slot waiting for the random word, takes at most one word at a time
and checks its variance at each multiple of 64; a deferred fault ends its
operation, discards later ones and waits for the boundary. -/
def Obligations.MatrixEngine : Prop :=
  (∀ (s : State) (o : MOp) (rest : List MOp), s.k.mat.run = none → s.k.mat.queue = o :: rest →
    ∃ t r, exec .matrixOpStart s = .next t ∧ onlyCore s t ∧ t.k.mat.queue = rest ∧ t.k.mat.run = some r ∧ r.op = o ∧ r.fault = none ∧ t.k.t = s.k.t ∧
      ((∃ c, o.kind = .mul true c) ∨ (∃ w n, o.kind = .mrs true w n) ∨ o.kind = .zero → r.acc = zeroTile) ∧
      (s.k.mat.resident = none → (∃ c, o.kind = .mul false c) ∨ o.kind = .fro ∨ o.kind = .scale → r.acc = tileRows s.k o.tile) ∧
      (∀ c acc, o.kind = .mul false c → s.k.mat.resident = some (o.tile, acc) → r.acc = acc)) ∧
  (∀ (s : State) (r : MRun), s.k.mat.run = some r → r.fault = none → let o := r.op; let x := o.sideA s s.cur; let y := o.sideB s s.cur
    let ready := peerBad s s.cur o.ra o.a = false ∧ peerBad s s.cur o.rb o.b = false ∧ x.filling o.k = false ∧ y.filling o.k = false
    let done := fun (k : Core → Core) => exec .matrixOpComplete s = .next (s.modK k)
    (∀ z c, o.kind = .mul z c → ready →
      let tans := o.tanTiles.map fun p => (p.2, tanPass o x y p.1 (if z then zeroTile else tileRows s.k p.2))
      (c = false → done fun k => writeBack k o ((o.tile, primalPass o x y r.acc) :: tans)) ∧
      (c = true → done fun k => let k := setTile (writeBack k o tans) o.tile true
        { k with mat := { k.mat with resident := some (o.tile, primalPass o x y r.acc) } })) ∧
    (o.kind = .norm → ready → done fun k => { k with mat := { k.mat with run := none, norms := some (normsOf o.ftz x, normsOf o.ftz y) } }) ∧
    (o.kind = .zero → done fun k => writeBack k o (o.tiles.map fun t => (t, zeroTile))) ∧
    (o.kind = .fro → ∃ t, exec .matrixOpComplete s = .next t ∧ onlyCore s t ∧ t.k.mat.run = none ∧
      t.k.t.sys.svar = (s.k.t.sys.svar &&& ~~~0xFFFF_FFFF) ||| (f32 (sumSq r.acc)).setWidth 64) ∧
    (o.kind = .scale → scntT s.k.t.sys ≠ 0 → o.dual = false → ∃ t, exec .matrixOpComplete s = .next t ∧ onlyCore s t ∧
      t.k = writeBack s.k o [(o.tile, r.acc.map fun a => accRound o.ftz (NumFmt.div (accVal a) (NumFmt.XV.ofInt (scntT s.k.t.sys))))]) ∧
    (∀ z w n, o.kind = .mrs z w n → r.stopped = true → done fun k => writeBack k o [(o.tile, r.acc)]) ∧
    (∀ na nb, o.kind = .draws false → s.k.mat.norms = some (na, nb) →
      let ws := (List.range (tableSize o.a.len)).map fun k =>
        if k < o.a.len then accRound o.ftz ((NumFmt.sqrt (NumFmt.mul (accVal (na.getD k 0)) (accVal (nb.getD k 0)))).scale (o.sigA + o.sigB)) else 0
      (∀ sum tab, aliasTable o.ftz o.a.len ws = .ok (sum, tab) → ∃ t, exec .matrixOpComplete s = .next t ∧ onlyCore s t ∧ t.k.mat.run = none ∧
        t.k.mat.table = some (o.a.len, tab) ∧ t.k.t.sys.svar.extractLsb' 32 32 = sum) ∧
      (∀ det, aliasTable o.ftz o.a.len ws = .error det → ∃ t, exec .matrixOpComplete s = .next t ∧ onlyCore s t ∧ t.k.mat.table = none ∧
        t.k.mat.run = some { r with fault := some ⟨12, det, 0, matInfo o.tile 0⟩ }))) ∧
  (∀ (o : MOp) (x y : Side1) (acc : List (BitVec 32)) (m n : Nat), m < 128 → n < 128 → acc.length = 16384 →
    (primalPass o x y acc)[128 * m + n]? = (acc[128 * m + n]?).map fun a =>
      cell o.ftz (fun c => (List.range o.a.p).map fun j => NumFmt.mul (x.val (o.a.p * c + j) m) (y.val (o.a.p * c + j) n)) (o.a.len / o.a.p) 0 a) ∧
  (∀ (s : State) (r r1 : MRun) (w : Word) (tab : List AliasEnt) (q : List RWord), mrsRun s.k = some (r, w) → let o := r.op
    let x := o.sideA s s.cur; let y := o.sideB s s.cur
    peerBad s s.cur o.ra o.a = false → peerBad s s.cur o.rb o.b = false → x.filling o.k = false → y.filling o.k = false → vectorTakes s = false →
    s.k.mat.table = some (o.a.len, tab) → sampleRun x y tab 64 (s.k.t.rbq.take 1) r = (q, r1) →
    (r1.t % 64 ≠ 0 ∨ r1.t = r.t → ∃ t, exec .samplingVarianceCheck s = .next t ∧ onlyCore s t ∧ t.k.t.rbq = q ++ s.k.t.rbq.drop 1 ∧
      t.k.mat.run = some r1 ∧ t.k.t.sys = s.k.t.sys) ∧
    (r1.t % 64 = 0 → r1.t ≠ r.t → let v := varianceOf r1.acc r1.t (s.k.t.sys.svar.extractLsb' 32 32)
    let stop := stopOf w r1.t v.1 v.2
    ∃ t, exec .samplingVarianceCheck s = .next t ∧ onlyCore s t ∧ t.k.t.rbq = q ++ s.k.t.rbq.drop 1 ∧ t.k.mat.run = some { r1 with stopped := stop.isSome } ∧
      scntT t.k.t.sys = r1.t % 2 ^ 32 ∧ t.k.t.sys.svar.extractLsb' 0 32 = v.2 ∧ t.k.t.sys.svar.extractLsb' 32 32 = s.k.t.sys.svar.extractLsb' 32 32)) ∧
  (∀ (s : State) (r : MRun) (f : FaultRec), s.k.mat.run = some r → r.fault = some f →
    ∃ t, exec .matrixDeferredFault s = .next t ∧ onlyCore s t ∧ t.k.mat.run = none ∧ t.k.mat.queue = [] ∧ t.k.t.pend = s.k.t.pend ++ [⟨f, false⟩] ∧
      (∀ z w n, r.op.kind = .mrs z w n → (t.k.t.sys.scnt.extractLsb' 62 2).toNat = 3))

/-! ## Copies, streams and frames -/

/-- CPY, GATHER and SCATTER (13 R333 to R339, R343). With 32 operations on the engine the slot waits. A descriptor refused
raises class 7 with the engine and the reason, an index descriptor whose source is no memory reason 0, a flag still claimed
reason 4, a plain source in memory outside its capability class 4. Else, with event, flag, both sides, the index list and
the planes of a tangent gather as the rules want them, the operation joins the engine's queue with all it read, its flag
reads busy under a copy with that engine, and the slot commits. CPYS and QCLOSE (13 R341, R342). A stream in use raises
class 8 with its number and reason 4; else the operation joins its engine and the stream is bound with no row and as many
rows to come as the shape has. QCLOSE raises class 8 reason 0 for an unbound stream, closes one that drains, and unbinds one
that fills, whose operation ends. Which of several reasons a refused descriptor gives is the model's choice (log 43). -/
def Obligations.CopiesAndStreamsIssue : Prop :=
  (∀ (s : State) (i : Instr) (kind : CopyKind) (di : BitVec 4) (xi : Option (BitVec 4)) (f : Option Flag) (ev : Bool) (cv : Option CCvt),
    ((∃ o : CCpy, i = .cpy o ∧ kind = .cpy ∧ di = o.d ∧ xi = none ∧ f = o.f ∧ ev = o.ev ∧ cv = o.cv) ∨
     (∃ o : CIdx, i = .gather o ∧ kind = .gather ∧ di = o.d ∧ xi = some o.x ∧ f = o.f ∧ ev = o.ev ∧ cv = o.cv) ∨
     (∃ o : CIdx, i = .scatter o ∧ kind = .scatter ∧ di = o.d ∧ xi = some o.x ∧ f = o.f ∧ ev = o.ev ∧ cv = o.cv)) →
    let e := copyUnit s
    let seven := fun (r : Nat) => traps s ⟨7, e.val % 6, 0, BitVec.ofNat 64 r⟩
    let d := s.iregs.cd.get di.toFin
    let xd := match xi with | some n => s.iregs.cd.get n.toFin | none => nullDesc
    let x := srcSide d cv (kind == .gather)
    let y := dstSide d cv (kind == .scatter)
    (32 ≤ engineLoad (s.engine e) → exec i s = .next (hold s)) ∧
    (engineLoad (s.engine e) < 32 →
      (xi.isSome = true → xd.ssp ≠ 0 → exec i s = seven 0) ∧
      ((xi.isSome = true → xd.ssp = 0) →
        (∀ r, descReason s d cv x y false = .ok (some r) → exec i s = seven r) ∧
        (descReason s d cv x y false = .ok none → (xi.isSome = true → xd.f 0 60 57 = 0) → ∀ ve, copyEv s d ev = .ok ve →
          (∀ g, f = some g → claimable (getFlag s.k.t g) = false → exec i s = seven 4) ∧
          ((∀ g, f = some g → claimable (getFlag s.k.t g) = true) →
            (∀ det, x.sp = 0 → x.via = false → x.indexed = false → d.nrow = 1 →
              capErr x.cap .cps (x.off 0) (d.rlen * x.w) = some det → exec i s = traps s ⟨4, det, 0, 0⟩) ∧
            (∀ rs rd, sideCheck s x .cps false d.nrow d.rlen = .ok rs → sideCheck s y .cpd true d.nrow d.rlen = .ok rd →
              (∀ det, xi.isSome = true → capErr xd.src .cps xd.saddr (4 * d.nrow) = some det → exec i s = traps s ⟨4, det, 0, 0⟩) ∧
              ((xi.isSome = true → capErr xd.src .cps xd.saddr (4 * d.nrow) = none) →
                (∀ c, cv = some c → c.tg = true → (∃ r r', rs = some r ∧ rd = some r' ∧ r.w.planes ≠ 0 ∧ r'.w.planes ≠ 0)) →
                ∃ t p, exec i s = .next (commit t) ∧ t = { s with cores := t.cores, engines := t.engines } ∧
                  (∀ c, c ≠ s.cur → t.core c = s.core c) ∧ (∀ n, n ≠ e → t.engine n = s.engine n) ∧
                  t.engine e = s.engine e ++ [p] ∧ p.kind = kind ∧ p.core = s.cur ∧ p.uid = taskUid s.k ∧ p.desc = d ∧ p.xdesc = xd ∧
                  p.cv = cv ∧ p.flag = f ∧ p.ev = ve ∧ p.ctx = s.k.ctx ∧ p.priv = privMode s.k ∧
                  t.k.t.regs = s.k.t.regs ∧ t.k.t.land = s.k.t.land ∧
                  ∀ n, getFlag t.k.t n = if f = some n then ⟨1, 1, BitVec.ofNat 3 (e.val % 6), ve, 0, 0, 0⟩ else getFlag s.k.t n))))))) ∧
  ((∀ (s : State) (o : CCpys), let e := copyUnit s
    let d := s.iregs.cd.get o.d.toFin
    let x := srcSide d none false
    let y := dstSide d none false
    let fill := decide (d.dsp = 4)
    let q : BitVec 4 := BitVec.ofNat 4 (if fill then d.daddr else d.saddr)
    let st := getStream s.k.t q
    (32 ≤ engineLoad (s.engine e) → exec (.cpys o) s = .next (hold s)) ∧
    (engineLoad (s.engine e) < 32 →
      (∀ r, descReason s d none x y true = .ok (some r) → exec (.cpys o) s = traps s ⟨7, e.val % 6, 0, BitVec.ofNat 64 r⟩) ∧
      (descReason s d none x y true = .ok none →
        (st.bind ≠ .unbound → exec (.cpys o) s = traps s ⟨8, q.toNat, 0, 4⟩) ∧
        (st.bind = .unbound → st.rows = [] → ∀ ve r, copyEv s d o.ev = .ok ve → (∀ g, o.f = some g → claimable (getFlag s.k.t g) = true) →
          (if fill then sideCheck s x .cps false d.nrow d.rlen else sideCheck s y .cpd true d.nrow d.rlen) = .ok r →
          ∃ t p, exec (.cpys o) s = .next (commit t) ∧ t = { s with cores := t.cores, engines := t.engines } ∧
            t.engine e = s.engine e ++ [p] ∧ p.kind = (if fill then CopyKind.fill q else CopyKind.drain q) ∧ p.desc = d ∧ p.flag = o.f ∧
            p.ev = ve ∧ p.pos = 0 ∧
            getStream t.k.t q = ⟨if fill then .fill else .drain, [], d.nrow * d.rlen / 512, false, false⟩ ∧
            ∀ n, getFlag t.k.t n = if o.f = some n then ⟨1, 1, BitVec.ofNat 3 (e.val % 6), ve, 0, 0, 0⟩ else getFlag s.k.t n)))) ∧
  (∀ (s : State) (o : CQ), let x := getStream s.k.t o.q
    (x.bind = .unbound → exec (.qclose o) s = traps s ⟨8, o.q.toNat, 0, 0⟩) ∧
    (x.bind = .drain → ∃ t, exec (.qclose o) s = .next (commit t) ∧ onlyCore s t ∧ getStream t.k.t o.q = { x with closed := true } ∧
      t.k.t.flags = s.k.t.flags ∧ ∀ q, q ≠ o.q → getStream t.k.t q = getStream s.k.t q) ∧
    (x.bind = .fill → let s1 := s.modT fun t => putStream t o.q Stream.unbound
      (streamOp s (taskUid s.k) o.q = none → exec (.qclose o) s = .next (commit s1)) ∧
      (∀ e p, streamOp s (taskUid s.k) o.q = some (e, p) →
        (∀ u, opSignal? (flagDone s1 p.uid p.flag 0) (engineDie e) p.ctx p.uid p.ev 0 = .ok u →
          exec (.qclose o) s = .next (commit (u.modEngine e fun l => l.erase p))) ∧
        (p.ev = none → ∀ k, s.k.task = some k → (∀ c k', (s.core c).task = some k' → k'.uid = k.uid → c = s.cur) →
          ∃ t, exec (.qclose o) s = .next (commit t) ∧ t = { s with cores := t.cores, saved := t.saved, engines := t.engines, grids := t.grids } ∧
            t.engine e = (s.engine e).erase p ∧ getStream t.k.t o.q = Stream.unbound ∧ (∀ q, q ≠ o.q → getStream t.k.t q = getStream s.k.t q) ∧
            ∀ g, getFlag t.k.t g = if p.flag = some g then { getFlag s.k.t g with state := 2, mwts := 0 } else getFlag s.k.t g)))) ∧
  (∀ (s : State) (uid : Nat) (q : BitVec 4) (e : EngineId) (p : CopyOp), streamOp s uid q = some (e, p) → p ∈ s.engine e ∧ p.uid = uid ∧ p.kind = .fill q) ∧
  (∀ (s : State) (d : CDesc) (cv : Option CCvt) (x y : CpSide) (st : Bool) (r : Option Nat), descReason s d cv x y st = .ok r →
    (r = some 0 ↔ 5 ≤ d.ssp ∨ 5 ≤ d.dsp ∨ (d.lcv ≠ 0 ∧ d.ssp ≠ 0)) ∧
    (r = some 1 ↔ d.ssp < 5 ∧ d.dsp < 5 ∧ (d.lcv = 0 ∨ d.ssp = 0) ∧ (bufErr x d.nrow d.rlen = true ∨ bufErr y d.nrow d.rlen = true)) ∧
    (r = none ↔ d.ssp < 5 ∧ d.dsp < 5 ∧ (d.lcv = 0 ∨ d.ssp = 0) ∧ bufErr x d.nrow d.rlen = false ∧ bufErr y d.nrow d.rlen = false ∧
      d.ssp ≠ 1 ∧ d.ssp ≠ 2 ∧ d.dsp ≠ 3 ∧ d.nrow ≠ 0 ∧ d.rlen ≠ 0 ∧ d.f 0 58 57 = 0 ∧ d.f 1 60 57 = 0 ∧ addrErr x = false ∧ addrErr y = false ∧
      (x.via = true → x.sp = 0) ∧ (y.via = true → y.sp = 0) ∧ (cv.isSome = true → d.ssp ≠ 4 ∧ d.dsp ≠ 4) ∧ lcvErr s d x = .ok false ∧
      (st = false → d.ssp ≠ 4 ∧ d.dsp ≠ 4) ∧
      (st = true → ((d.ssp = 4 ∧ d.dsp ≠ 4) ∨ (d.ssp ≠ 4 ∧ d.dsp = 4)) ∧ d.nrow * d.rlen % 512 = 0))) ∧
  (∀ (x : CpSide) (nrow rlen : Nat), 1 ≤ nrow → (x.sp = 0 ∨ 4 ≤ x.sp ∨ x.via = true → bufErr x nrow rlen = false) ∧
    (1 ≤ x.sp → x.sp < 4 → x.via = false → (bufErr x nrow rlen = false ↔ rlen * x.w % 512 = 0 ∧ x.str % 512 = 0 ∧
      (x.indexed = false → ∀ i, i = 0 ∨ i = nrow - 1 → 0 ≤ x.off i ∧ x.off i / 512 + (rlen * x.w / 512 : Nat) ≤ (bufRows (bufOf x.sp) : Int))))) ∧
  (∀ (x : CpSide), addrErr x = false ↔ (x.sp ≠ 0 → x.addr < 8192) ∧ (x.sp = 4 → x.addr < 16)))

/-- CPYW and COLLW (13 R344, R346): a flag that is idle or held by the other kind raises class 1 reason 5, a busy one is
waited for. A flag that reads done becomes idle and the predicate, if named, true; one that reads error gives false, or with TRAP
becomes idle and leaves a class 7 fault pending that carries its engine, address and cause. Either brings PTS up to the flag's
timestamp. Where the limit has passed since its bundle issued with the flag busy, the slot commits with the predicate false and the flag as it was. -/
def Obligations.FlagWaits : Prop :=
  (∀ (s : State) (i : Instr) (o : CWait) (h : BitVec 2), ((i = .cpyw o ∧ h = 1) ∨ (i = .collw o ∧ h = 3)) →
    let x := getFlag s.k.t o.f
    ((x.hold ≠ h ∨ x.state = 0) → exec i s = traps s ⟨1, s.slotNo 6, 0, 5⟩) ∧
    (x.hold = h → x.state = 1 → exec i s = .next (hold s)) ∧
    (x.hold = h → x.state = 2 → ∃ t, exec i s = .next (commit t) ∧ onlyCore s t ∧ t.k.pts = max s.k.pts x.mwts ∧
      (∀ n, getFlag t.k.t n = if n = o.f then FlagSt.idle else getFlag s.k.t n) ∧
      t.k.t.land = s.k.t.land ++ (if o.pv then [⟨1, .p o.p true⟩] else [])) ∧
    (x.hold = h → x.state = 3 → o.tr = false → ∃ t, exec i s = .next (commit t) ∧ onlyCore s t ∧ t.k.pts = max s.k.pts x.mwts ∧
      t.k.t.flags = s.k.t.flags ∧ t.k.t.land = s.k.t.land ++ (if o.pv then [⟨1, .p o.p false⟩] else [])) ∧
    (x.hold = h → x.state = 3 → o.tr = true → ∃ t, exec i s = .next (commit t) ∧ onlyCore s t ∧
      (∀ n, getFlag t.k.t n = if n = o.f then FlagSt.idle else getFlag s.k.t n) ∧
      t.k.t.pend = s.k.t.pend ++ [⟨⟨7, x.eng.toNat, x.addr.toNat, BitVec.ofNat 64 (x.cause.toNat * 2 ^ 12 + 15)⟩, false⟩])) ∧
  (∀ (s : State) (f : Inflight) (n t0 : Nat) (i : Instr) (o : CWait) (rest : List (Nat × SlotDo)), s.k.t.fl = some f →
    f.todo = (n, .run i) :: rest → f.since = some t0 → (i = .cpyw o ∨ i = .collw o) → o.limit ≠ 0 → f.at_ + 64 * o.limit.toNat ≤ s.now →
    (getFlag s.k.t o.f).state = 1 →
    ∃ t, exec .cpywLimitExpiry s = .next (commit t) ∧ onlyCore s t ∧ t.k.frozen = false ∧ t.k.pts = s.k.pts ∧
      t.k.t.flags = s.k.t.flags ∧ t.k.t.land = s.k.t.land ++ (if o.pv then [⟨1, .p o.p false⟩] else []))

/-- A copy, gather or scatter moves its rows one after the other, in ascending order up to the first failure; after the last row
or a failure it leaves its engine: its flag reads done, or error with the cause and the address, and its event is signalled (13
R337, R338). That one action moves one row, and what the bytes after a stop and those both read and written hold, is the model's
choice (logs 15, 17). One unconverted row of
CBUF copied to ABUF or WBUF is that row in the buffer, and no other row of it differs (13 R335, R337). A fill whose stream
holds fewer than four rows pushes the next 512 bytes of its shape as a row; a drain writes its oldest row; the last ends the
operation, as does a fill that fails, whose stream keeps the failure, and a closed drain with no row left (13 R340 to R342).
A frame fill without a failure writes its 16 KiB block into the frame's 32 rows and clears F; a failed one sets E with its
cause and clears F (04 R111, R113). -/
def Obligations.CopiesStreamsAndFramesComplete : Prop :=
  ((∀ (s : State) (e : EngineId) (o : CopyOp) (m : Mv) (err : Option (Nat × Nat × Nat)),
    getOp s s.unit s.item = some (e, o) → (o.kind = .cpy ∨ o.kind = .gather ∨ o.kind = .scatter) →
    moveNext (o.by_ e) o s = .ok (m, err) → let mw := max o.mw m.mwts
    (err = none → o.pos + 1 < o.desc.nrow →
      exec .copyComplete s = .next (setOp (freeOverlap m).s e o { o with pos := o.pos + 1, mw := mw, seen := m.src, put := m.dst })) ∧
    (err ≠ none ∨ o.desc.nrow ≤ o.pos + 1 → ∀ t,
      opSignal? (match err with
        | none => flagDone (freeOverlap m).s o.uid o.flag mw
        | some (c, d, a) => flagError (freeOverlap m).s o.uid o.flag c d a mw) (engineDie e) o.ctx o.uid o.ev mw = .ok t →
      exec .copyComplete s = .next (t.modEngine e fun l => l.erase o))) ∧
  (∀ (s : State) (b : MvBy) (o : CopyOp) (m m' : Mv), badUnit (moveRows b o ((List.range o.desc.nrow).drop o.pos) { Mv.start s with src := o.seen, dst := o.put }) = none →
    o.pos < o.desc.nrow → moveRow b o { Mv.start s with src := o.seen, dst := o.put } o.pos = .ok m → moveNext b o s = .ok (m, none)) ∧
  (∀ (s : State) (e : EngineId) (o : CopyOp) (b : Buf), getOp s s.unit s.item = some (e, o) → o.kind = .cpy → o.cv = none →
    o.ev = none → o.desc.ssp = 3 → ((o.desc.dsp = 1 ∧ b = .abuf) ∨ (o.desc.dsp = 2 ∧ b = .wbuf)) → o.desc.nrow = 1 →
    o.desc.rlen = 512 → o.desc.saddr < 4096 → o.desc.daddr < 8192 → o.pos = 0 → o.seen = [] → o.put = [] → (∀ k, Sparse.get false s.crc k = false) →
    tileBusy (s.core o.core) (o.desc.saddr / 128) = false → Sparse.wf 0 (getBuf (s.core o.core) b) = true →
    (∃ k, (s.core o.core).task = some k ∧ k.uid = o.uid ∧ ∀ c k', (s.core c).task = some k' → k'.uid = o.uid → c = o.core) →
    ∃ t, exec .copyComplete s = .next t ∧ t.engine e = (s.engine e).erase o ∧ t.mem = s.mem ∧
      (∀ r, bufRow (t.core o.core) b r = if r = o.desc.daddr then bufRow (s.core o.core) .cbuf o.desc.saddr else bufRow (s.core o.core) b r) ∧
      ∀ f, o.flag = some f → (getFlag (t.core o.core).t f).state = 2)) ∧
  ((∀ (s : State) (e : EngineId) (o : CopyOp) (q : BitVec 4) (x : Stream) (m : Mv) (bs : List Byte),
    getOp s s.unit s.item = some (e, o) → o.kind = .fill q → streamOf s o q = some x → o.paused = false → x.rows.length < 4 →
    fillBytes (o.by_ e) o (Mv.start s) = .ok (m, bs) →
    let s1 := modStream m.s o.uid q fun x => { x with rows := x.rows ++ [rowOfBytes fun i => byteAt bs i], left := x.left - 1 }
    (o.pos + 512 < o.total → exec .streamRowTransfer s = .next (setOp s1 e o { o with pos := o.pos + 512 })) ∧
    (o.total ≤ o.pos + 512 → o.ev = none →
      exec .streamRowTransfer s = .next (dropOp (flagDone s1 o.uid o.flag 0) e o))) ∧
  (∀ (s : State) (e : EngineId) (o : CopyOp) (q : BitVec 4) (x : Stream) (row : Row) (rest : List Row) (m : Mv),
    getOp s s.unit s.item = some (e, o) → o.kind = .drain q → streamOf s o q = some x → x.rows = row :: rest →
    drainRow (o.by_ e) o q (Mv.start s) (bitsBytes 512 row) = .ok m →
    let s1 := modStream m.s o.uid q fun x => { x with rows := rest }
    (o.pos + 512 < o.total →
      exec .streamRowTransfer s = .next (setOp s1 e o { o with pos := o.pos + 512, mw := max o.mw m.mwts })) ∧
    (o.total ≤ o.pos + 512 → o.ev = none →
      exec .streamRowTransfer s =
        .next (dropOp (flagDone (modStream s1 o.uid q fun _ => Stream.unbound) o.uid o.flag (max o.mw m.mwts)) e o))) ∧
  (∀ (b : MvBy) (o : CopyOp) (q : BitVec 4) (m : Mv) (bs : List Byte), Sparse.get false m.s.crc (streamUnit b.core q (o.pos / 4096)) = false →
    drainRow b o q m bs = drainBytes b o m bs) ∧
  (∀ (s : State) (e : EngineId) (o : CopyOp) (q : BitVec 4) (x : Stream) (m : Mv) (c d a : Nat),
    getOp s s.unit s.item = some (e, o) → streamOf s o q = some x → o.ev = none →
    (o.kind = .fill q → o.paused = false → x.rows.length < 4 → fillBytes (o.by_ e) o (Mv.start s) = .error (.stop m c d a) →
      exec .streamRowTransfer s = .next (dropOp (flagError (modStream m.s o.uid q fun x => { x with failed := true, left := 0 })
        o.uid o.flag c d a 0) e o)) ∧
    (o.kind = .drain q → x.rows = [] → x.closed = true →
      exec .streamRowTransfer s = .next (dropOp (flagDone (modStream s o.uid q fun _ => Stream.unbound) o.uid o.flag o.mw) e o))) ∧
  (∀ (s : State) (e : EngineId) (o : CopyOp) (f : BitVec 8) (m : Mv) (bs : List Byte),
    getOp s s.unit s.item = some (e, o) → o.kind = .frame f → frameBytes s e o = .ok (m, bs, none) → bs.length = 16384 →
    Sparse.wf 0 (m.s.core o.core).abuf = true → (∃ k, (m.s.core o.core).task = some k ∧ k.uid = o.uid ∧ ∀ c k', (m.s.core c).task = some k' → k'.uid = o.uid → c = o.core) →
    ∃ t, exec .frameFillDone s = .next t ∧ t.engine e = (m.s.engine e).erase o ∧
      getFrame (t.core o.core).t f.toNat = { getFrame (m.s.core o.core).t f.toNat with f := false } ∧
      ∀ r j, r < 8192 → j < 512 → rowByte (bufRow (t.core o.core) .abuf r) j =
        if r / 32 = f.toNat then (bs.getD (512 * (r % 32) + j) 0).toNat else rowByte (bufRow (m.s.core o.core) .abuf r) j) ∧
  (∀ (s : State) (e : EngineId) (o : CopyOp) (f : BitVec 8) (m : Mv) (bs : List Byte) (c d a : Nat),
    getOp s s.unit s.item = some (e, o) → o.kind = .frame f → frameBytes s e o = .ok (m, bs, some (c, d, a)) →
    (∃ k, (m.s.core o.core).task = some k ∧ k.uid = o.uid ∧ ∀ c k', (m.s.core c).task = some k' → k'.uid = o.uid → c = o.core) →
    ∃ t, exec .frameFillFault s = .next t ∧ t.engine e = (m.s.engine e).erase o ∧
      getFrame (t.core o.core).t f.toNat =
        { getFrame (m.s.core o.core).t f.toNat with f := false, e := true, cause := BitVec.ofNat 9 (c * 16 + d) }))

/-! ## Collectives and Lorelle ports -/

/-- COLL and COLLECTIVE_COMPLETE (13 R345, R346; 17 R425 to R427). A group of no valid entry, or whose entry refuses the
caller, and a refused descriptor raise class 7 reason 8, a flag still claimed reason 4, a side outside its capability class 4. Else the
collective joins the die's, with its place in the group's order. It then sends what it read to every other member; with every
member's part here and alike, its results are written and its flag reads done; with parts that differ, or a fault of the group,
its flag reads error with class 7 detail 6. The results: the root's elements, the larger of two, the sum of two FP32 values. The
frame that carries a part, and that the codes of a narrow wire are summed before they are scaled, are the model's (log 13). -/
def Obligations.CollectivesRun : Prop :=
  (∀ (s s1 : State) (o : CCpys) (ge : Option GroupEnt), let d := s.iregs.cd.get o.d.toFin
    let die := coreDie s.cur
    groupEnt s die d.group = .ok (s1, ge) →
    ((∀ g, ge = some g → (g.v && !g.fault && g.asid == s.k.ctx.asid.toNat && !collBad d g.p) = false) →
      exec (.coll o) s = traps s ⟨7, 6, 0, 8⟩) ∧
    (∀ g ve, ge = some g → (g.v && !g.fault && g.asid == s.k.ctx.asid.toNat && !collBad d g.p) = true → copyEv s d o.ev = .ok ve →
      (∀ f, o.f = some f → claimable (getFlag s.k.t f) = false → exec (.coll o) s = traps s ⟨7, 6, 0, 4⟩) ∧
      ((∀ f, o.f = some f → claimable (getFlag s.k.t f) = true) →
        (∀ e, capErr d.src .cps d.saddr d.len = some e → exec (.coll o) s = traps s ⟨4, e, 0, 0⟩) ∧
        (capErr d.src .cps d.saddr d.len = none →
          (∀ e, capErr d.dst .cpd d.daddr d.len = some e → exec (.coll o) s = traps s ⟨4, e, 0, 0⟩) ∧
          (capErr d.dst .cpd d.daddr d.len = none → collDst s d (resultSpan d g.p g.rank).1 (resultSpan d g.p g.rank).2 = .ok () →
            ∃ t p, exec (.coll o) s = .next (commit t) ∧ t.mem = s1.mem ∧ (t.die die).coll = (s1.die die).coll ++ [p] ∧
              p.core = s.cur ∧ p.desc = d ∧ p.flag = o.f ∧ p.ev = ve ∧ p.mine = none ∧ p.fault = none ∧
              p.seq = (match (s1.die die).groups.find? fun y => y.group == d.group with
                | some y => if y.epoch = g.epoch then y.count else 0
                | none => 0) ∧
              ∀ n, getFlag t.k.t n = if o.f = some n then ⟨1, 3, 6, ve, 0, 0, 0⟩ else getFlag s1.k.t n))))) ∧
  (∀ (s : State) (o : CollOp), (s.die s.dsel).coll[s.item]? = some o → o.ev = none → (∀ f, o.fault = some f → f.cls = 7 →
      exec .collectiveComplete s = .next ((flagError (modTask (if o.desc.stepc then setFinite s o.ctx.asid else s) o.uid
        fun t => { t with collFault := true }) o.uid o.flag 7 f.det 0 0 true).modDie s.dsel fun x => { x with coll := x.coll.erase o })) ∧
    (∀ s1 g m bs, o.fault = none → groupEnt s s.dsel o.desc.group = .ok (s1, some g) → o.mine = none →
      plainRead (o.by_ s.dsel) (Mv.start s1) o.desc.src 0 (o.desc.src.base + o.desc.saddr) o.desc.len = .ok (m, bs, none) →
      ∀ s2 ws, otherMembers m.s s.dsel g = .ok (s2, ws) →
      ∃ p, let fr : Sys2Proof.Frame := ⟨o.desc.group, g.epoch, g.rank, o.seq, p⟩
        exec .collectiveComplete s = .next (sendMembers (s2.modDie s.dsel fun x => { x with coll := x.coll.set s.item { o with mine := some p } })
          s.dsel ws (.lorelleFrameReceive fr) 0 fun w => .frame s.dsel w fr) ∧
        p.rank = g.rank ∧ p.len = o.desc.len ∧ p.bytes = bs ∧ (nonFinite (partyVals (efmtOf o.desc.efmt) bs) = true → p.nonFinite = true)) ∧
    (∀ s1 g p ps, o.fault = none → groupEnt s s.dsel o.desc.group = .ok (s1, some g) → o.mine = some p →
      partiesOf s1 s.dsel o p g.p = some ps →
      ((∃ q ∈ ps, agree q p = false) → exec .collectiveComplete s = .next ((flagError (dropFrames (if o.desc.stepc then setFinite s1 o.ctx.asid else s1)
        s.dsel o) o.uid o.flag 7 6 0 0 true).modDie s.dsel fun x => { x with coll := x.coll.erase o })) ∧
      ((∀ q ∈ ps, agree q p = true) → ∀ m,
        collWrite (o.by_ s.dsel) o (collResult o.desc p.rank s1.fresh (ps.map Party.bytes)) (resultSpan o.desc ps.length p.rank).2
          (Mv.start { s1 with fresh := s1.fresh + 2 * ps.length * (o.desc.len / o.desc.width) }) = .ok (m, none) →
        exec .collectiveComplete s = .next ((flagDone (dropFrames (if o.desc.stepc && ps.any Party.nonFinite then setFinite m.s o.ctx.asid else m.s)
          s.dsel o) o.uid o.flag m.mwts true).modDie s.dsel fun x => { x with coll := x.coll.erase o })))) ∧
  (∀ (s : State) (t : Task) (f : Flag) (c d a mw : Nat) (cl : Bool), s.k.task = some t →
    (∀ x y, (s.core x).task = some y → y.uid = t.uid → x = s.cur) →
    getFlag (flagError s t.uid (some f) c d a mw cl).k.t f =
      { getFlag s.k.t f with state := 3, cause := BitVec.ofNat 9 (c * 16 + d), addr := BitVec.ofNat 57 a, mwts := mw } ∧
    getFlag (flagDone s t.uid (some f) mw cl).k.t f = { getFlag s.k.t f with state := 2, mwts := mw }) ∧
  (∀ (s : State) (d : DieId) (ws : List Nat) (i : Instr) (item : Nat) (out : Nat → Out), let t := sendMembers s d ws i item out
    t = { s with agenda := t.agenda, outbox := t.outbox } ∧ t.outbox = s.outbox ++ (ws.filter fun w => (memberDie s d w).isNone).map out ∧
    t.agenda = s.agenda ++ (ws.filterMap (memberDie s d)).map fun x => ⟨s.cur, x, 0, item, i⟩) ∧
  (∀ (s : State) (d x : DieId) (w : Nat), memberDie s d w = some x ↔ BitVec.ofNat 13 (w / 4) = (s.die d).sysid.setWidth 13 ∧ x.val = w % 4) ∧
  (∀ (d : CDesc) (r k i : Nat) (a b : List Byte), d.op ≠ 2 → i < d.len / d.width →
    let f := efmtOf d.efmt
    let x := (partyVals f a).getD i (.zero false)
    let y := (partyVals f b).getD i (.zero false)
    ∃ v, (collResult d r k [a, b])[i]? = some v ∧
      (d.op = 4 → d.root < 2 → v = if d.root = 0 then x else y) ∧
      (d.op = 1 → v = maxOf x y ∨ v = maxOf y x) ∧
      (d.op = 0 → d.wire = 0 → v = addF32 x y ∨ v = addF32 y x))

/-- Frames, faults and ports (17 R422, R423, R425, R428, R429). A frame of the group's EPOCH from another member is
kept once; one of another EPOCH, or for a group in fault, is dropped; one that no member can have sent faults the group. Finding
a fault marks the entry, stops the group's collectives, sets the interrupt and notifies the members; a notification does the same without
notifying again. A port that is removed, or whose training changes, sets its LNKSTAT bits and the interrupt. A die has a fault still to
find in a group one of whose members lies on an island that is not active, or one of whose members no kept port reaches. The
frame's fields, and which frame no member can have sent, are the model's (log 13). -/
def Obligations.GroupsAndPorts : Prop :=
  (∀ (s s1 : State) (fr : Sys2Proof.Frame) (e : GroupEnt), groupEnt s s.dsel fr.group = .ok (s1, some e) →
    ((e.v = false ∨ e.fault = true ∨ e.epoch ≠ fr.epoch) → exec (.lorelleFrameReceive fr) s = .next s1) ∧
    (e.v = true → e.fault = false → e.epoch = fr.epoch →
      ((e.p ≤ fr.rank ∨ fr.rank = e.rank ∨ fr.party.rank ≠ fr.rank) →
        exec (.lorelleFrameReceive fr) s = .next (s1.postDie s.dsel (.groupFaultDetect fr.group .frameRefused))) ∧
      (fr.rank < e.p → fr.rank ≠ e.rank → fr.party.rank = fr.rank →
        ∃ t y, exec (.lorelleFrameReceive fr) s = .next t ∧ t.mem = s1.mem ∧ t.cores = s1.cores ∧ groupSt t s.dsel fr.group = some y ∧
          y.epoch = fr.epoch ∧ (∃ x ∈ y.frames, x.rank = fr.rank ∧ x.seq = fr.seq) ∧
          (∀ z, groupSt s1 s.dsel fr.group = some z → z.epoch = fr.epoch → (∀ x ∈ z.frames, ¬ (x.rank = fr.rank ∧ x.seq = fr.seq)) →
            y.frames = z.frames ++ [fr])))) ∧
  (∀ (s s1 s2 : State) (g : Nat) (r : GrpReason) (e : GroupEnt), groupEnt s s.dsel g = .ok (s1, some e) → e.v = true →
    e.fault = false → markFault s1 s.dsel e = .ok s2 → let u := stopGroup (raiseInt s2 s.dsel 3) s.dsel g
    (u.die s.dsel).intstat = (s2.die s.dsel).intstat ||| 8 ∧ u.mem = s2.mem ∧
    ((u.die s.dsel).coll = (s2.die s.dsel).coll.map fun o =>
      if o.desc.group = g ∧ o.fault.isNone then { o with fault := some ⟨7, 6, 0, 0⟩ } else o) ∧
    ∀ s3 ws, otherMembers u s.dsel e = .ok (s3, ws) →
      exec (.groupFaultDetect g r) s = .next (sendMembers s3 s.dsel ws .groupFaultNotification g fun w => .notify s.dsel w g 0x76)) ∧
  (∀ (s s1 s2 : State) (d : DieId) (g : Nat) (e : GroupEnt) (ws : List Nat), groupEnt s d g = .ok (s1, some e) → e.v = true → e.fault = false →
    otherMembers s1 d e = .ok (s2, ws) →
    let down := ∃ w ∈ ws, ∃ x, memberDie s2 d w = some x ∧ islActive s2 x = false
    (groupDue s d g = some .island ↔ down) ∧
    (groupDue s d g = some .noRoute ↔ ¬ down ∧ (∃ w ∈ ws, memberDie s2 d w = none) ∧ ∀ p, p < 16 → e.mask.testBit p = true → portKept s2 p = false)) ∧
  (∀ (s s1 s2 : State) (e : GroupEnt), groupEnt s s.dsel s.item = .ok (s1, some e) → e.v = true → markFault s1 s.dsel e = .ok s2 →
    ∃ t, exec .groupFaultNotification s = .next t ∧ t.mem = s2.mem ∧ t.outbox = s2.outbox ∧
      (e.fault = false → (t.die s.dsel).intstat = (s2.die s.dsel).intstat ||| 8) ∧
      (t.die s.dsel).coll = (s2.die s.dsel).coll.map fun o =>
        if o.desc.group = s.item ∧ o.fault.isNone then { o with fault := some ⟨7, 6, 0, 0⟩ } else o) ∧
  (∀ s : State, let n := s.unit % 4
    ((s.die s.dsel).lnkstat.getLsbD (2 * n + 1) = true → exec .lorellePortRemoval s = .next s) ∧
    ((s.die s.dsel).lnkstat.getLsbD (2 * n + 1) = false → ∃ t, exec .lorellePortRemoval s = .next t ∧ t.mem = s.mem ∧ t.cores = s.cores ∧
      (t.die s.dsel).lnkstat = (s.die s.dsel).lnkstat ||| (1#64 <<< (2 * n + 1)) ∧
      (t.die s.dsel).intstat = (s.die s.dsel).intstat ||| 16) ∧
    ∀ up, ∃ t, exec (.lorellePortTraining up) s = .next t ∧ t.mem = s.mem ∧ t.cores = s.cores ∧
      (t.die s.dsel).lnkstat.getLsbD (2 * n) = up ∧
      (t.die s.dsel).lnkstat.getLsbD (2 * n + 1) = ((s.die s.dsel).lnkstat.getLsbD (2 * n + 1) && !up) ∧
      ((t.die s.dsel).lnkstat ≠ (s.die s.dsel).lnkstat → (t.die s.dsel).intstat = (s.die s.dsel).intstat ||| 16))

/-! ## The host's port, registers, monitors, power, boot -/

/-- The host (17 R417 to R421; 05 R124). A CXL.mem access outside the window, at a port that is not wired, or before firmware has
enabled CXL.mem, is unsupported, as is a PCIe atomic; a read answers the bytes of the interleaved alias once the earlier writes of
its port are done, a write stores them. A read of BAR0 over CXL.io answers the aligned 4 or 8 bytes of the register, and takes
the entry that FLPOP answers; which port and requests the action stands for is the model's choice (log 19). A host snoop of a CXL host line gets
the line with its owned copy recalled; a back-invalidate that is answered frees the line; an evicted line folds its timestamps
into its bank's register, and a line that a core owns stays listed with its owner (the model's choice, log 51). A message
goes out for the lowest source that is set, enabled and unreported, and only on a wired port that the die reaches (log 19). -/
def Obligations.HostAccesses : Prop :=
  (∀ (s : State) (x n : Nat) (bs : List Byte), let pa := 0x100_0000_0000 + x
    let on := Config.wiredPort s.dsel = true ∧ (s.die s.dsel).cxlMem = true
    (¬ on ∨ 0xC0_0000_0000 < x + n → exec (.hostCxlMemAccess (.read x n)) s = .next (s.emit .unsupported)) ∧
    (¬ on ∨ 0xC0_0000_0000 < x + bs.length → exec (.hostCxlMemAccess (.write x bs)) s = .next (s.emit .unsupported)) ∧
    (on → x + n ≤ 0xC0_0000_0000 → hostWaits s s.dsel = false → ∀ s1, homeRead s s.dsel pa n = .ok (s1, bs) →
      ∃ t, exec (.hostCxlMemAccess (.read x n)) s = .next t ∧ t.outbox = s1.outbox ++ [.data bs] ∧
        t = { s1 with outbox := t.outbox, hostHeld := t.hostHeld }) ∧
    (on → x + bs.length ≤ 0xC0_0000_0000 → ∀ s1 m,
      homeWrite (((cutLines pa bs.length).map fun y => resolvePa y.1 / 128).foldl
        (fun s l => { s with hostHeld := Sparse.set 0 s.hostHeld l 0 }) s) s.dsel pa bs = .ok (s1, m) →
      ∃ t, exec (.hostCxlMemAccess (.write x bs)) s = .next t ∧ t = { s1 with hostHeld := t.hostHeld })) ∧
  (∀ s : State, exec (.hostCxlMemAccess .atomic) s = .next (s.emit .unsupported)) ∧
  (∀ (s : State) (d : DieId) (o n : Nat) (bs : List Byte),
    ((n ≠ 4 ∧ n ≠ 8) ∨ o % n ≠ 0 ∨ 2 ^ 32 ≤ o ∨ Config.wiredPort s.dsel = false ∨ blockReached s s.dsel d = false →
      exec (.hostCxlMemAccess (.reg d o n)) s = .next (s.emit .unsupported)) ∧
    ((n = 4 ∨ n = 8) → o % n = 0 → o < 2 ^ 32 → Config.wiredPort s.dsel = true → blockReached s s.dsel d = true → hostWaits s s.dsel = false →
      mmioRead s d o n = .ok bs → (o - o % 8 ≠ 0x30_0028 → exec (.hostCxlMemAccess (.reg d o n)) s = .next (s.emit (.data bs))) ∧
        (o - o % 8 = 0x30_0028 → exec (.hostCxlMemAccess (.reg d o n)) s = .next ((flpopTake s d).emit (.data bs)))) ∧
    (progressAt (o - o % 8) = none → mmioRead s d o n = .ok (((bitsBytes 8 (mmioWord s d (o - o % 8))).drop (o % 8)).take n))) ∧
  (∀ s : State, target (s.item * 128) = .host → ∃ t, exec .hostSnoop s = .next t ∧
    t.outbox = s.outbox ++ [.data (rdBytes (recallOwner s s.item) (s.item * 128) 128)]) ∧
  (∀ s : State, exec .backInvalidateResponse s = .next { s with hostHeld := Sparse.set 0 s.hostHeld s.item 0 }) ∧
  (∀ s : State, (Sparse.get none s.lines s.item = none → exec .dieCacheEviction s = .next s) ∧
    (∀ x, Sparse.get none s.lines s.item = some x → let d := homeDie s 0 (s.item * 128)
      ∃ t, exec .dieCacheEviction s = .next t ∧ t.mem = s.mem ∧ t.cores = s.cores ∧
      (t.die d).evts.get (bankOf s.item) = max ((s.die d).evts.get (bankOf s.item)) (max x.wts x.rts) ∧
      t.lines = if x.owner.isSome then s.lines else Sparse.set none s.lines s.item none)) ∧
  (∀ (s : State), let x := s.die s.dsel
    let due := x.intstat &&& x.intmask &&& ~~~x.msiSent
    let port : DieId := Fin.ofNat 4 (x.intcfg.extractLsb' 0 2).toNat
    (due &&& 0x3F = 0 → exec .interruptMessage s = .next s) ∧
    (∀ i, i < 6 → due.getLsbD i = true → (∀ j, j < i → due.getLsbD j = false) →
      ∃ t, exec .interruptMessage s = .next t ∧ (t.die s.dsel).msiSent = x.msiSent ||| (1#64 <<< i) ∧
        (t.die s.dsel).intstat = x.intstat ∧ t.mem = s.mem ∧
        t.outbox = s.outbox ++ (if Config.wiredPort port && blockReached s s.dsel port then [.msi port (8 * s.dsel.val + i)] else [])))

/-- MMIO registers (17 R419, Tables 17.2, 17.3; 09 R203, R215; 05 R139; 18 R441): a misaligned write, or one to a die whose
island is not active or that its port's route does not reach, does nothing but answer a port; INTSTAT bits clear by writing one;
plain registers take their writable fields; writes of registers with a behaviour of their own act as that event. A host's write waits
for its earlier ones to the block (17 R420). FLPOP answers and removes the oldest fault-list entry, PROGRESS answers its queue's word,
saved or resident, both with no earlier write of the port still to come; at a port that is not wired or does not reach the die both
are unsupported. The port is the die that State.unit names, the model's choice (log 19). -/
def Obligations.RegisterWritesAndReads : Prop :=
  (∀ (s : State) (w : MmioWr),
    ((w.off % (if w.wide then 8 else 4) ≠ 0 ∨ (s.die w.die).isl ≠ .active ∨ reachable s w = false) →
      exec (.mmioRegisterWrite w) s = .next (if w.port.isSome then s.emit .unsupported else s)) ∧
    (∀ p, w.port = some p → w.off % (if w.wide then 8 else 4) = 0 → reachable s w = true → blockWaits s w.die = true →
      exec (.mmioRegisterWrite w) s = .next (s.deferDie s.dsel (.mmioRegisterWrite w) s.unit s.item)) ∧
    (w.wide = true → (s.die w.die).isl = .active → reachable s w = true → (w.port = none ∨ blockWaits s w.die = false) →
      let at_ := fun (unit item : Nat) => { s with dsel := w.die, unit := unit, item := item }
      let does := fun (i : Instr) (unit item : Nat) => ∀ t, exec i (at_ unit item) = .next t →
        exec (.mmioRegisterWrite w) s = .next { t with dsel := s.dsel, unit := s.unit, item := s.item }
      (w.off = 0x10_0000 → ∃ t, exec (.mmioRegisterWrite w) s = .next t ∧ t.mem = s.mem ∧ t.cores = s.cores ∧
        (t.die w.die).intstat = (s.die w.die).intstat &&& ~~~(w.val &&& 0x3F) ∧
        (t.die w.die).msiSent = (s.die w.die).msiSent &&& ~~~(w.val &&& 0x3F)) ∧
      (w.off = 0x10_0008 → ∃ t, exec (.mmioRegisterWrite w) s = .next t ∧
        (t.die w.die).intmask = ((s.die w.die).intmask &&& ~~~0x3F#64) ||| (w.val &&& 0x3F)) ∧
      (w.off = 0x5E_0000 → ∃ t, exec (.mmioRegisterWrite w) s = .next t ∧
        (t.die w.die).plim = if (s.die w.die).ctlkey.getLsbD 0 then w.val.setWidth 16 else (s.die w.die).plim) ∧
      (w.off = 0x30_0008 → does (.resume (w.val.setWidth 32)) 0 0) ∧ (w.off = 0x30_0010 → does (.prmpt (w.val.setWidth 36)) 0 0) ∧
      (w.off = 0x56_0000 → does (.pstate (w.val.setWidth 2)) 0 0) ∧
      (∀ n, n < 64 → w.off = 0x20_1000 + 64 * n + 24 → (w.val.extractLsb' 0 2 = 1 → does .pullRegister 0 n) ∧
        (w.val.extractLsb' 0 2 = 2 → does .pullStart 0 n) ∧ (w.val.extractLsb' 0 2 = 3 → does .pullCancel 0 n)) ∧
      (∀ q, q < 64 → w.off = 0x40_0000 + 0x1000 * q → does (.doorbell (w.val.setWidth 32)) (w.port.getD w.die).val q))) ∧
  (∀ s : State, (Config.wiredPort (portNo s) = false ∨ (s.die s.dsel).isl ≠ .active ∨ blockReached s (portNo s) s.dsel = false) →
    exec .flpop s = .next (s.emit .unsupported) ∧ exec .progress s = .next (s.emit .unsupported)) ∧
  (∀ s : State, Config.wiredPort (portNo s) = true → blockReached s (portNo s) s.dsel = true → hostWaits s (portNo s) = false → let x := s.die s.dsel
    (x.faultList = [] → exec .flpop s = .next (s.emit (.data (bitsBytes 8 (0 : Word))))) ∧
    (∀ u l, x.faultList = u :: l → ∃ t, exec .flpop s = .next t ∧
      t.outbox = s.outbox ++ [.data (bitsBytes 8 (BitVec.ofNat 64 (2 ^ 63 +
        (match findTask s u with | some k => k.ctx.asid.toNat | none => 0) * 2 ^ 32 + taskToken u)))] ∧
      (t.die s.dsel).faultList = l ++ x.flwait.take 1 ∧ (t.die s.dsel).flwait = x.flwait.drop 1)) ∧
  (∀ s : State, Config.wiredPort (portNo s) = true → blockReached s (portNo s) s.dsel = true → hostWaits s (portNo s) = false →
    (∀ d x, slotOfQueue s (s.item % 64) = some (d, x) → ∃ v : Word, exec .progress s = .next (s.emit (.data (bitsBytes 8 v))) ∧
      v.setWidth 32 = x.head ∧ v.getLsbD 62 = x.err ∧ v.getLsbD 61 = true ∧ v.getLsbD 63 = false) ∧
    (∀ t c, slotOfQueue s (s.item % 64) = none → readQCtx s s.dsel (s.item % 64) = .ok (t, c) →
      ∃ v : Word, exec .progress s = .next (s.emit (.data (bitsBytes 8 v))) ∧
      (v.setWidth 32).toNat = c.head ∧ v.getLsbD 62 = c.err ∧ v.getLsbD 61 = false ∧ v.getLsbD 63 = true))

/-- Monitors and errors (18 R434 to R440). A monitor that hears the source takes the value: its minimum, maximum, count and
one bin; the others stay. CLR clears the counts before a sample of the same cycle, and reads 0. An uncorrectable error of a device
line, or of a host line that a die cache holds, poisons it, of data on their way through a copy, in a buffer or a stream marks the
unit whose check then fails (log 50), of a line of host memory marks the line, whose next reads the host answers with an error (13
R318), of a core leaves a class 20 fault pending; that of a device line counts, is logged with the unit that log 56 names and
interrupts, as does a core's. A corrected error is counted alone. The patrol scrub goes on to the next line, and
not at all with SCRUB 0. -/
def Obligations.MonitorsAndErrors : Prop :=
  (∀ (s : State) (src : BitVec 8) (no : BitVec 16) (v : Nat), ∃ t, exec (.monitorSample src no v) s = .next t ∧ t.mem = s.mem ∧ t.cores = s.cores ∧
    ∀ n : Fin 64, let m := (s.die s.dsel).mons.get n
      let m' := (t.die s.dsel).mons.get n
      let on := m.cfg.getLsbD 63 && !m.cfg.getLsbD 62 && m.cfg.extractLsb' 0 8 == src && m.cfg.extractLsb' 16 16 == no
        && decide (no.toNat < monUnits src.toNat)
      let x := min (2 ^ 32 - 1) v
      (on = false → m' = m) ∧
      (on = true → m'.cfg = m.cfg ∧ m'.min.toNat = min m.min.toNat x ∧ m'.max.toNat = max m.max.toNat x ∧
        m'.cnt.toNat = min (2 ^ 64 - 1) (m.cnt.toNat + 1) ∧
        let b := if m.cfg.getLsbD 60 then (if x = 0 then 0 else min 31 (Nat.log2 x + 1))
          else min 31 (x / 2 ^ min 31 (m.cfg.extractLsb' 40 8).toNat)
        (m.bins.length = 32 → ∀ i, i < 32 → (m'.bins.getD i 0).toNat =
          if i = b then min (2 ^ 32 - 1) ((m.bins.getD i 0).toNat + 1) else (m.bins.getD i 0).toNat))) ∧
  (∀ (s : State) (v : Word), ∃ t, exec (.moncfgClr v) s = .next t ∧ t.mem = s.mem ∧ ∀ n : Fin 64,
    let m := (s.die s.dsel).mons.get n
    let m' := (t.die s.dsel).mons.get n
    (n.val ≠ s.unit → m' = m) ∧
    (n.val = s.unit → m'.cfg.getLsbD 61 = false ∧ m'.cfg.getLsbD 63 = v.getLsbD 63 ∧ m'.cfg.getLsbD 62 = v.getLsbD 62 ∧
      m'.cfg.extractLsb' 0 8 = v.extractLsb' 0 8 ∧ m'.cfg.extractLsb' 16 16 = v.extractLsb' 16 16 ∧
      (v.getLsbD 61 = true → ((s.die s.dsel).heardAt ≠ s.now ∨ (∀ y ∈ (s.die s.dsel).heardNow, m'.hears y.1 y.2.1.toNat = false)) →
        m'.cnt = 0 ∧ m'.max = 0 ∧ m'.min = BitVec.allOnes 32 ∧ ∀ b ∈ m'.bins, b = 0) ∧
      (∀ y, v.getLsbD 61 = true → (s.die s.dsel).heardAt = s.now → (s.die s.dsel).heardNow = [y] → m'.hears y.1 y.2.1.toNat = true →
        m'.cnt = 1 ∧ m'.min.toNat = min (2 ^ 32 - 1) y.2.2 ∧ m'.max.toNat = min (2 ^ 32 - 1) y.2.2) ∧
      (v.getLsbD 61 = false → m'.cnt = m.cnt ∧ m'.min = m.min ∧ m'.max = m.max ∧ m'.bins = m.bins))) ∧
  (∀ (s : State) (pa : Nat) (d : DieId), target pa = .dev d → ∃ t, exec (.uncorrectableError (.line pa)) s = .next t ∧
    t.poison = Sparse.set false s.poison (resolvePa pa / 128) true ∧ t.mem = s.mem ∧ t.cores = s.cores ∧
    (t.die d).intstat = (s.die d).intstat ||| 32 ∧ (t.die d).ue.toNat = min (2 ^ 32 - 1) ((s.die d).ue.toNat + 1) ∧
    (t.die d).logHead = ((s.die d).logHead + 1) % 16 ∧ ((s.die d).logHead < (s.die d).log.length →
      let e := (t.die d).log.getD (s.die d).logHead 0
      e.getLsbD 0 = false ∧ e.extractLsb' 64 12 = BitVec.ofNat 12 (lineUnit s (resolvePa pa / 128)) ∧
      e.extractLsb' 76 52 = BitVec.ofNat 52 (resolvePa pa / 128 * 128))) ∧
  (∀ (s : State) (pa : Nat), target pa = .host → Sparse.get none s.lines (resolvePa pa / 128) = none →
    exec (.uncorrectableError (.line pa)) s = .next s) ∧
  (∀ (s : State) (c : CoreId) (b : BitVec 2) (off : Nat), exec (.uncorrectableError (.buffer c b off)) s =
    .next { s with crc := Sparse.set false s.crc (bufUnit c b.toNat off) true }) ∧
  (∀ (s : State) (c : CoreId) (q : BitVec 4) (u : Nat), exec (.uncorrectableError (.stream c q u)) s =
    .next { s with crc := Sparse.set false s.crc (streamUnit c q u) true }) ∧
  (∀ (s : State) (d : DieId), ∃ t, exec (.uncorrectableError (.corrected d)) s = .next t ∧ t = { s with dies := t.dies } ∧
    t.die d = { s.die d with ce := (t.die d).ce } ∧ (∀ v, v ≠ d → t.die v = s.die v) ∧ (t.die d).ce.toNat = min (2 ^ 32 - 1) ((s.die d).ce.toNat + 1)) ∧
  (∀ (s : State) (pa : Nat), target pa = .host →
    exec (.uncorrectableError (.host pa)) s = .next { s with hostErr := Sparse.set false s.hostErr (pa / 128) true }) ∧
  (∀ (s : State) (pa : Nat), exec (.uncorrectableError (.transit pa)) s = .next { s with crc := Sparse.set false s.crc (resolvePa pa / 4096) true }) ∧
  (∀ (s : State) (c : CoreId), ∃ t, exec (.uncorrectableError (.core c)) s = .next t ∧ t.mem = s.mem ∧
    (t.core c).t.pend = (s.core c).t.pend ++ [⟨⟨20, 0, 0, 0⟩, false⟩] ∧
    (t.die (coreDie c)).intstat = (s.die (coreDie c)).intstat ||| 32) ∧
  (∀ s : State, (s.die s.dsel).scrub = 0 → exec .patrolScrub s = .next s) ∧
  (∀ s : State, ∃ t, exec .patrolScrub s = .next t ∧ t.mem = s.mem ∧
    (t.die s.dsel).scrubAt = if (s.die s.dsel).scrub = 0 then (s.die s.dsel).scrubAt else ((s.die s.dsel).scrubAt + 1) % 0x6000_0000)

/-- Power and heat (18 R441, R442; log 34): a step that is no faster takes effect at once, a faster one when the voltage has
settled; throttling begins above the die's share of PLIM or at 100 degrees and ends below both; at 105 degrees the lowest
step holds; above 110 degrees the core domain is reset, its cores keeping their transaction numbers (log 57). Boot and attestation (17 R431, R432; log 35): an image is run only
with its key, signature and version as fused; BOOTSTAT says so, and whether firmware then enables CXL.mem is a free value (log 19);
SPDM requests get their answers, an unsupported one the error, where their port reaches the die. -/
def Obligations.PowerBootAttestation : Prop :=
  (∀ (s : State) (req : BitVec 2), ∃ t, exec (.pstate req) s = .next t ∧ t.mem = s.mem ∧ t.cores = s.cores ∧
    (t.die s.dsel).pstateReq = req ∧
    (t.die s.dsel).pstateCur = if (s.die s.dsel).pstateCur.toNat ≤ req.toNat then req else (s.die s.dsel).pstateCur) ∧
  (∀ s : State, ∃ t, exec .voltageSettled s = .next t ∧ t.mem = s.mem ∧ t.cores = s.cores ∧
    (t.die s.dsel).pstateCur = if (s.die s.dsel).ramping && !(s.die s.dsel).thermal then (s.die s.dsel).pstateReq else (s.die s.dsel).pstateCur) ∧
  (∀ (s : State) (w c : Nat), let x := s.die s.dsel
    (∃ t, exec (.thermalPowerThrottle w c) s = .next t ∧ t.mem = s.mem ∧ t.cores = s.cores ∧
      (t.die s.dsel).throttle = (x.throttle || decide (x.plim.toNat < 4 * w) || decide (100 ≤ c))) ∧
    (∃ t, exec (.throttlingEnds w c) s = .next t ∧ t.mem = s.mem ∧ t.cores = s.cores ∧
      (t.die s.dsel).throttle = (x.throttle && (decide (x.plim.toNat < 4 * w) || decide (100 ≤ c)))) ∧
    (∃ t, exec (.thermalLowestStep c) s = .next t ∧ t.mem = s.mem ∧ t.cores = s.cores ∧
      (t.die s.dsel).pstateCur = if 105 ≤ c then 3 else x.pstateCur) ∧
    (c ≤ 110 → exec (.thermalReset c) s = .next s) ∧
    (110 < c → ∃ t, exec (.thermalReset c) s = .next t ∧ (t.die s.dsel).dom = .inReset ∧
      ((∀ g ∈ s.gv, coreDie g.core ≠ s.dsel) → t.mem = s.mem ∧
        ∀ m : CoreId, coreDie m = s.dsel → t.core m = { Core.reset with txn := (s.core m).txn }))) ∧
  (∀ (s : State) (image sig key : List Byte) (svn : BitVec 32) (r : Bool),
    let ok := r = true ∧ Config.shake256 key = Config.fusedKeyDigest s.dsel ∧
      Config.falconVerify key (Config.shake256 image) sig = true ∧ (Config.fusedMinSvn s.dsel).toNat ≤ svn.toNat
    ∃ t, exec (.dieBoot image sig key svn r) s = .next t ∧ t.mem = s.mem ∧ t.cores = s.cores ∧
      (ok → (t.die s.dsel).bootstat.extractLsb' 4 4 = 2 ∧ (t.die s.dsel).bootstat.extractLsb' 0 4 = 0 ∧
        (t.die s.dsel).bootstat.extractLsb' 32 32 = svn ∧ (t.die s.dsel).fwDigest = Config.shake256 image ∧
        (t.die s.dsel).cxlMem = Config.cxlMem s.dsel) ∧
      (¬ ok → (t.die s.dsel).cxlMem = (s.die s.dsel).cxlMem ∧ (t.die s.dsel).bootstat.extractLsb' 4 4 = 3 ∧ (t.die s.dsel).bootstat.extractLsb' 0 4 ≠ 0)) ∧
  (∀ (s : State) (i : Instr) (code : Byte) (body : List Byte),
    ((i = .getVersion ∧ code = 0x04 ∧ body = [0x13]) ∨ (i = .getCapabilities ∧ code = 0x61 ∧ body = [0x16]) ∨
     (i = .negotiateAlgorithms ∧ code = 0x63 ∧ body = Config.spdmAlgorithms) ∨
     (i = .getDigests ∧ code = 0x01 ∧ body = 1 :: bitsBytes 64 (Config.shake256 (Config.certChain s.dsel))) ∨
     (i = .getCertificate ∧ code = 0x02 ∧ body = Config.certChain s.dsel) ∨
     (∃ n, i = .challenge n ∧ code = 0x03 ∧
       body = Config.falconSign s.dsel ((s.die s.dsel).spdm ++ [0x13, 0x83] ++ n ++ [0x13, 0x03])) ∨
     (∃ n b, i = .getMeasurements n ∧ measurement s s.dsel n = some b ∧ code = 0x60 ∧
       body = b ++ Config.falconSign s.dsel ((s.die s.dsel).spdm ++ [0x13, 0xE0, BitVec.ofNat 8 n] ++ b)) ∨
     (∃ n, i = .getMeasurements n ∧ 3 < n ∧ code = 0x7F ∧ body = [0x07]) ∨
     (∃ c, i = .spdmUnsupportedRequest c ∧ code = 0x7F ∧ body = [0x07])) →
    let port : DieId := if Config.wiredPort s.dsel then s.dsel else Fin.ofNat 4 ((s.die s.dsel).intcfg.extractLsb' 0 2).toNat
    (blockReached s port s.dsel = false → exec i s = .next (s.emit .unsupported)) ∧
    (blockReached s port s.dsel = true → ∃ t, exec i s = .next t ∧ t.mem = s.mem ∧ t.cores = s.cores ∧
      t.outbox = s.outbox ++ [.spdm port s.dsel code body]))

/-! ## Pulls, islands, pseudo-channels -/

/-- Page pulls (05 R138 to R142). A busy entry ignores a registration; one that is refused becomes error with its cause and
interrupts; else it is registered with nothing pulled. Start makes a registered entry, or one in error for its source, run; cancel makes
a registered one idle. A line of a running entry, touched first or next in turn, is copied from the old frame to the
new one, once; with every line pulled the entry is done, the PTE's bit 61 clear, and interrupts; a line that cannot be read
makes it error with cause 3. That touches and turns copy a line once, and the PTE's write without a walk, are the model's reading (log
31). -/
def Obligations.PagePulls : Prop :=
  (∀ s : State, let n := pullNo s.item
    let p := (s.die s.dsel).pulls.get n
    let same := fun (t : State) => t.mem = s.mem ∧ t.cores = s.cores ∧ ∀ m, m ≠ n → (t.die s.dsel).pulls.get m = (s.die s.dsel).pulls.get m
    ((p.state = 1 ∨ p.state = 2) → exec .pullRegister s = .next s) ∧
    (p.state ≠ 1 → p.state ≠ 2 →
      (∀ c, pullRefused s s.dsel n = some c → ∃ t, exec .pullRegister s = .next t ∧ same t ∧
        (t.die s.dsel).pulls.get n = { p with state := 4, cause := BitVec.ofNat 9 c, pulled := 0, bitmap := [] } ∧
        (t.die s.dsel).intstat = (s.die s.dsel).intstat ||| 4) ∧
      (pullRefused s s.dsel n = none → ∃ t, exec .pullRegister s = .next t ∧ same t ∧
        (t.die s.dsel).pulls.get n = { p with state := 1, cause := 0, pulled := 0, bitmap := [] })) ∧
    (∃ t, exec .pullStart s = .next t ∧ same t ∧
      (t.die s.dsel).pulls.get n = if p.state = 1 ∨ (p.state = 4 ∧ p.cause = 3) then { p with state := 2, cause := 0 } else p) ∧
    (∃ t, exec .pullCancel s = .next t ∧ same t ∧
      (t.die s.dsel).pulls.get n = if p.state = 1 then { p with state := 0 } else p)) ∧
  (∀ (s : State) (d : DieId) (n : Fin 64) (j : Nat) (i : Instr), let p := (s.die d).pulls.get n
    ((i = .pullFirstTouch ∧ pullOf s s.item = some (d, n, j)) ∨
     (i = .pullBackgroundLine ∧ s.dsel = d ∧ pullTurn (s.die d) = some n ∧ nextUnpulled p = some j)) →
    p.state = 2 → j ∉ p.bitmap → j < pullLines p →
    (pullReadable s d (p.oldPa + 128 * j) = false → ∃ t, exec i s = .next t ∧ t.mem = s.mem ∧
      ((t.die d).pulls.get n).state = 4 ∧ ((t.die d).pulls.get n).cause = 3 ∧ (t.die d).intstat = (s.die d).intstat ||| 4) ∧
    (pullReadable s d (p.oldPa + 128 * j) = true → Sparse.get 0 s.hostHeld (resolvePa p.newPa / 128 + j) = 0 → Memory.wf s.mem = true →
      ∃ t, exec i s = .next t ∧ ((t.die d).pulls.get n).pulled = p.pulled + 1 ∧ ((t.die d).pulls.get n).bitmap = p.bitmap ++ [j] ∧
        let old := resolvePa (p.oldPa + 128 * j) / 128
        let new := resolvePa p.newPa / 128 + j
        (∀ b, b < 128 → rdByte t (new * 128 + b) = rdByte (recallOwner s old) (old * 128 + b)) ∧
        (∀ a, (a < new * 128 ∨ new * 128 + 128 ≤ a) → rdByte t a = rdByte (recallOwner s old) a))) ∧
  (∀ (s : State), let n := pullNo s.item
    let p := (s.die s.dsel).pulls.get n
    (p.state ≠ 2 ∨ p.pulled < pullLines p → exec .pullComplete s = .next s) ∧
    (∀ s1 s2 x, p.state = 2 → pullLines p ≤ p.pulled → physRead s s.dsel p.ptePa 8 = .ok (s1, x) →
      physWrite s1 s.dsel p.ptePa 8 (if x.testBit 61 then x - 2 ^ 61 else x) = .ok s2 →
      ∃ t, exec .pullComplete s = .next t ∧ t.mem = s2.mem ∧ (t.die s.dsel).intstat = (s2.die s.dsel).intstat ||| 4 ∧
        (t.die s.dsel).pulls.get n = { (s2.die s.dsel).pulls.get n with state := 3 }) ∧
    (∀ j, nextUnpulled p = some j → p.state = 2 → pullReadable s s.dsel (p.oldPa + 128 * j) = false →
      ∃ t, exec .pullSourceFailure s = .next t ∧ t.mem = s.mem ∧ ((t.die s.dsel).pulls.get n).state = 4 ∧
        ((t.die s.dsel).pulls.get n).cause = 3 ∧ (t.die s.dsel).intstat = (s.die s.dsel).intstat ||| 4))

/-- Islands, domains, edges (05 R127 to R130). A failed edge joins the failed ones. An island that is off or faulty loses the
bytes of its window, which then read 0, and its pulls (logs 2, 31); one that retains puts its pseudo-channels into self-refresh and keeps memory; an active
one that was off or faulty has its registers reset. A core domain put in reset or off resets its cores and engines; memory
stays, but for a GV update already sent (log 57). Pseudo-channels (05 R132 to R135; log 30), on an active island alone. An idle
count that reaches PDIDLE powers the channel down, one that reaches SRIDLE puts it into self-refresh, 0 disabling either. A
request reaching it makes it active again, ready after XPD, or twice XSR, cycles. A ready request's column command moves 32 of its 128 bytes; of two pseudo-channels the grant's holder
issues while its grant lasts, then the other. A due refresh waits for the row bus as a command of its pseudo-channel, before its
requests but for one that has waited 1,024 cycles (the model's choice, log 30), and holds its bank for a free time; no command goes to
a channel still leaving a power state. None of them touches memory or a core. -/
def Obligations.IslandsDomainsAndChannels : Prop :=
  ((∀ (s : State) (e : Edge), ∃ t, exec (.edgeFailure e) s = .next t ∧ t = { s with edges := t.edges } ∧
    ∀ x, x ∈ t.edges ↔ x = e ∨ x ∈ s.edges) ∧
  (∀ (s : State) (st : IslState), ∃ t, exec (.islandStateChange st) s = .next t ∧ (t.die s.dsel).isl = st ∧
    (∀ d, d ≠ s.dsel → t.die d = s.die d) ∧
    (st = .off ∨ st = .fault → Memory.wf s.mem = true → (t.die s.dsel).pulls = Vector.replicate 64 Pull.idle ∧
      ∀ a, rdByte t a = if a / 0x40_0000_0000 = s.dsel.val then 0 else rdByte s a) ∧
    (st = .retain ∨ st = .active → t.mem = s.mem ∧ t.tags = s.tags ∧ t.cores = s.cores) ∧
    (st = .active → ((s.die s.dsel).isl = .off ∨ (s.die s.dsel).isl = .fault) →
      (t.die s.dsel).pdidle = 0x100 ∧ (t.die s.dsel).sridle = 0x1_0000 ∧ ∀ x ∈ t.edges, x ∈ s.edges) ∧
    (st = .active → (s.die s.dsel).isl ≠ .off → (s.die s.dsel).isl ≠ .fault → t.edges = s.edges)) ∧
  (∀ (s : State) (st : DomState), ∃ t, exec (.coreDomainStateChange st) s = .next t ∧ (t.die s.dsel).dom = st ∧
    (∀ e, engineDie e ≠ s.dsel → t.engine e = s.engine e) ∧
    (let sent := fun e : Ready => e.die == s.dsel && e.uid.isNone
     st = .running → t = { s with dies := t.dies } ∧
      (t.die s.dsel = { s.die s.dsel with dom := st, ready := (t.die s.dsel).ready }) ∧
      (t.die s.dsel).ready = (s.die s.dsel).ready ++ (allDies.filter fun v => v != s.dsel).flatMap (fun v => (s.die v).ready.filter sent) ∧
      ∀ v, v ≠ s.dsel → t.die v = { s.die v with ready := (s.die v).ready.filter fun e => !sent e }) ∧
    ((∀ g ∈ s.gv, coreDie g.core ≠ s.dsel) → t.mem = s.mem ∧ (∀ c, coreDie c ≠ s.dsel → t.core c = s.core c) ∧
      (st ≠ .running → ∀ c, coreDie c = s.dsel → t.core c = { Core.reset with txn := (s.core c).txn })) ∧
    (st ≠ .running → (∀ e, engineDie e = s.dsel → t.engine e = []) ∧
      (t.die s.dsel).walkQ = [] ∧ (t.die s.dsel).qslots = [] ∧ (t.die s.dsel).ready = [] ∧
      ∀ e ∈ (s.die s.dsel).ready, e.uid = none → ∀ g, s.grids.find? (fun g => g.gid == e.gid && g.qdie != s.dsel) = some g →
        e ∈ (t.die g.qdie).ready))) ∧
  ((∀ (s : State), let x := getPc s s.dsel s.unit
    let idle := if x.reqs = [] ∧ x.exitFrom = none then s.now - x.idleFrom else 0
    let sr := (s.die s.dsel).sridle.toNat
    let pd := (s.die s.dsel).pdidle.toNat
    (∃ t, exec .pseudoChannelPowerDown s = .next t ∧ t = { s with pchans := t.pchans } ∧
      (pd ≠ 0 → pd ≤ idle → x.power = .active → (sr = 0 ∨ idle < sr) → (s.die s.dsel).isl = .active → t = setPc s s.dsel s.unit { x with power := .powerDown }) ∧
      ((pd = 0 ∨ idle < pd ∨ x.power ≠ .active ∨ (s.die s.dsel).isl ≠ .active) → t = s)) ∧
    (∃ t, exec .pseudoChannelSelfRefresh s = .next t ∧ t = { s with pchans := t.pchans } ∧
      (sr ≠ 0 → sr ≤ idle → x.power ≠ .selfRefresh → (s.die s.dsel).isl = .active → t = setPc s s.dsel s.unit { x with power := .selfRefresh, due := [] }) ∧
      ((sr = 0 ∨ idle < sr ∨ x.power = .selfRefresh ∨ (s.die s.dsel).isl ≠ .active) → t = s)) ∧
    (∀ (piece line : Nat) (write : Bool), (s.die s.dsel).isl ≠ .active → exec (.pseudoChannelExit piece line write) s = .next s) ∧
    (∀ (piece line : Nat) (write : Bool), (s.die s.dsel).isl = .active → ∃ y, exec (.pseudoChannelExit piece line write) s = .next (setPc s s.dsel s.unit y) ∧
      y.power = .active ∧ y.reqs = x.reqs ++ [⟨256 * piece + 128 * (line % 2), write, s.now, 4⟩] ∧ y.rows = x.rows ∧ y.idleFrom = s.now ∧
      y.exitAt = (match x.power with
        | .active => x.exitAt
        | .powerDown => s.now + (s.die s.dsel).xpd.toNat
        | .selfRefresh => s.now + 2 * (s.die s.dsel).xsr.toNat))) ∧
  (∀ (s : State) (d : DieId) (ch : Nat) (bus : HbmBus),
    let pc := fun (h : Bool) => 2 * ch + (if h then 1 else 0)
    let r := fun (h : Bool) => readyCmd s (getPc s d (pc h)) (bus == .col)
    let b := pickBus (Sparse.get HbmBusSt.reset s.buses (chKey d ch)) bus
    let granted := fun (h : Bool) => (h = b.holder ∧ b.left ≠ 0) ∨ r (!h) = none ∨ (h ≠ b.holder ∧ b.left = 0)
    exec (.hbmCommandIssue bus) s = .next (busCycle s s.dsel (s.unit % 96) bus) ∧
    ((s.die d).isl ≠ .active ∨ (r false = none ∧ r true = none) → busCycle s d ch bus = s) ∧
    (∀ h q, (s.die d).isl = .active → r h = some (.request q) → granted h → let t := busCycle s d ch bus
      t = { s with pchans := t.pchans, buses := t.buses, agenda := t.agenda } ∧
        t.pchans = (setPc s d (pc h) (issueReq s (getPc s d (pc h)) q (bus == .col))).pchans) ∧
    (∀ h k, (s.die d).isl = .active → r h = some (.refresh k) → granted h → let t := busCycle s d ch bus
      t = { s with pchans := t.pchans, buses := t.buses, fresh := s.fresh + 1 } ∧
        t.pchans = (setPc s d (pc h) (issueRefresh s (getPc s d (pc h)) k)).pchans)) ∧
  (∀ (s : State) (x : PChan) (col : Bool),
    (s.now < x.exitAt → readyCmd s x col = none) ∧
    (col = true ∨ x.due = [] → readyCmd s x col = (readyOn s x col).map .request) ∧
    (∀ b l, x.exitAt ≤ s.now → x.due = b :: l →
      ((∀ q, readyOn s x false = some q → s.now < q.since + 1024) → readyCmd s x false = some (.refresh b)) ∧
      (∀ q, readyOn s x false = some q → q.since + 1024 ≤ s.now → readyCmd s x false = some (.request q))) ∧
    ∀ k, ∃ n, s.now ≤ n ∧ issueRefresh s x k = { x with
      refs := x.refs.filter (fun y => y.1 != k) ++ [(k, n)], due := x.due.filter (fun b => b != k), idleFrom := x.idleFrom + 1 }) ∧
  (∀ s : State, let x := getPc s s.dsel s.unit
    ((s.die s.dsel).isl ≠ .active → exec .hbmRefresh s = .next s) ∧
    ((s.die s.dsel).isl = .active → exec .hbmRefresh s = .next (busCycle
      (setPc s s.dsel s.unit { x with due := if s.item ∈ x.due then x.due else x.due ++ [s.item] }) s.dsel (s.unit % 192 / 2) .row))))

/-! ## Issue, landing, time, the random-bits queue; the memory invariant -/

/-- BUNDLE_ISSUE on a core that can run (10 R231): a bundle in flight goes on unfrozen, but a re-entered one whose row is busy (04
R113, R115); with none, no boundary fault and nothing that stops it, the bundle at PC is fetched and issued, and a request that is to
be honoured before a pass holds it (16 R407). RESULT_LANDING lands the results whose countdown is over (10 R242).
PTS_TICK moves every core's PTS by one (07 R163). The generator adds the word of its counter while it has room and no pushed word waits,
and counts on (12 R313). RBQPUSH reads 128 aligned bytes through its capability and puts them last, after FLUSH dropped
the generator's words; the youngest of these makes room in a full queue; a misaligned address raises class 6, a full queue of pushed words
class 1 reason 5 (11 R287). -/
def Obligations.IssueLandingAndRandomBits : Prop :=
  (∀ (s : State) (k : Task), s.k.task = some k → canRun s s.cur = true →
    (∀ f, s.k.t.fl = some f →
      let busy := f.back = true ∧ ∃ x ∈ running f.todo, rowWaits s x.2 = true
      (busy → exec .bundleIssue s = .next (s.modK fun k => { k with frozen := true })) ∧
      (¬ busy → exec .bundleIssue s = .next (s.modK fun k => { k with frozen := false, t := { k.t with fl := some { f with back := false } } }))) ∧
    (s.k.t.fl = none → stopsHere s s.cur = false → deliver s = none →
      (∀ d, s.k.draining = some d → trapMode s.k = true ∨ (s.k.t.loops.get (loopNo d.1)).pre = true) →
      (preemptHere s k = true → passHere s.k ≠ none → exec .bundleIssue s = .next s) ∧
      (preemptHere s k = false ∨ passHere s.k = none → ∀ s1 next w,
        fetchBundle s k = .ok (s1, next, w) → exec .bundleIssue s = .next (issueBundle s1.tickFresh k next (Bundle.ofBits w))))) ∧
  (∀ s : State, s.k.t.fl = none → ∃ t, exec .resultLanding s = .next t ∧ onlyCore s t ∧ t.k.t.land = s.k.t.land.filter (fun e => e.left != 0) ∧
    ∀ d x y, d ≠ 0 → s.k.t.land.filter (fun e => e.left == 0) = [⟨0, .s d x y⟩] → t.sR d = x) ∧
  (∀ s : State, ∃ t, exec .ptsTick s = .next t ∧ t = { s with cores := t.cores } ∧
    ∀ c, t.core c = { s.core c with pts := (s.core c).pts + 1 }) ∧
  (∀ s : State, (s.k.task.isSome = true → s.k.loading = none → s.k.t.rbq.length < 8 → (∀ w ∈ s.k.t.rbq, w.pushed = false) →
      ∃ t, exec .rbqGenerate s = .next t ∧ onlyCore s t ∧
        t.k.t.rbq = s.k.t.rbq ++ [⟨philoxWord s.k.t.sys.rngkey s.k.t.sys.rngctr, false⟩] ∧ t.k.t.sys.rngctr = s.k.t.sys.rngctr + 1 ∧
        t.k.t.regs = s.k.t.regs) ∧
    ((8 ≤ s.k.t.rbq.length ∨ ∃ w ∈ s.k.t.rbq, w.pushed = true) → exec .rbqGenerate s = .next s)) ∧
  (∀ (s : State) (o : LPush) (va : Nat), s.guard o.g = true → capCheck s (s.cR o.m.cap) .rd (s.memOff o.m.idx o.m.imm 128) 128 = .ok va →
    (va % 128 ≠ 0 → exec (.rbqpush o) s = traps s ⟨6, 0, va, 0⟩) ∧
    (∀ s' ps xs s1 bs tg, va % 128 = 0 → loadPieces s (s.cR o.m.cap) va 128 = .ok (s', ps) → xlatePieces s' false false ps = .ok xs →
      lsQuiet s'.k = true → readTagged s' xs = .ok (s1, bs, tg) →
      let q := if o.flush then s1.k.t.rbq.filter RWord.pushed else s1.k.t.rbq
      let put := fun (q : List RWord) => exec (.rbqpush o) s =
        .next (commit (s1.modT fun t => { t with rbq := q ++ [⟨BitVec.ofNat 1024 (bytesToNat bs), true⟩] }))
      (q.length < 8 → put q) ∧
      (∀ a w b, 8 ≤ q.length → q = a ++ w :: b → w.pushed = false → (∀ x ∈ b, x.pushed = true) → put (a ++ b)) ∧
      (8 ≤ q.length → (∀ w ∈ q, w.pushed = true) → exec (.rbqpush o) s = traps s1 ⟨1, s.slotNo 1, 0, 5⟩)))

/-- Every step keeps memory in its canonical form: addresses strictly rising, no listed byte equal to what an unlisted one
reads as. -/
def Obligations.EveryStepKeepsMemoryCanonical : Prop :=
  ∀ s t : State, Memory.wf s.mem = true → step s = .next t → Memory.wf t.mem = true
end

