-- ==== Sys2Proof/Laws/Encoding.lean ====
section
/-!
SUPPORT. Fields of a concatenation, and reading back what the encoder lays out: raw slots and operand codes. A round trip
of one instruction is one simp over its decoder and encoder with these lemmas.
-/

namespace Sys2Proof

/-! ## Fields of a concatenation -/

@[simp] theorem SRaw.ofBits_toBits (r : SRaw) : SRaw.ofBits r.toBits = r := by
  obtain ⟨op, g, d, a, b, imm⟩ := r
  simp only [SRaw.ofBits, SRaw.toBits, SRaw.mk.injEq]
  refine ⟨?_, ?_, ?_, ?_, ?_, ?_⟩ <;>
    (apply BitVec.eq_of_getLsbD_eq; intro i hi; simp [BitVec.getLsbD_extractLsb'] <;> grind)
@[simp] theorem extract_append_low {m n : Nat} (x : BitVec m)
    (y : BitVec n) :
    @BitVec.extractLsb' (no_index (m + n)) 0 n (@HAppend.hAppend (BitVec m) (BitVec n) (no_index (BitVec (m + n))) _ x y) = y := by
  apply BitVec.eq_of_getLsbD_eq; intro i hi; simp [BitVec.getLsbD_append, hi]
theorem extract_append_right {m n : Nat} (x : BitVec m)
    (y : BitVec n) (s l : Nat) (h : s + l ≤ n) :
    @BitVec.extractLsb' (no_index (m + n)) s l (@HAppend.hAppend (BitVec m) (BitVec n) (no_index (BitVec (m + n))) _ x y) = y.extractLsb' s l := by
  apply BitVec.eq_of_getLsbD_eq; intro i hi; simp [BitVec.getLsbD_extractLsb', BitVec.getLsbD_append]; grind
theorem extract_append_left {m n : Nat} (x : BitVec m)
    (y : BitVec n) (s l : Nat) (h : n ≤ s) :
    @BitVec.extractLsb' (no_index (m + n)) s l (@HAppend.hAppend (BitVec m) (BitVec n) (no_index (BitVec (m + n))) _ x y) = x.extractLsb' (s - n) l := by
  apply BitVec.eq_of_getLsbD_eq; intro i hi; simp [BitVec.getLsbD_extractLsb', BitVec.getLsbD_append]; grind
theorem bit_append_left {m n : Nat} (x : BitVec m)
    (y : BitVec n) (s : Nat) (h : n ≤ s) :
    @BitVec.getLsbD (no_index (m + n)) (@HAppend.hAppend (BitVec m) (BitVec n) (no_index (BitVec (m + n))) _ x y) s = x.getLsbD (s - n) := by
  simp [BitVec.getLsbD_append]; grind
theorem bit_append_right {m n : Nat} (x : BitVec m)
    (y : BitVec n) (s : Nat) (h : s < n) :
    @BitVec.getLsbD (no_index (m + n)) (@HAppend.hAppend (BitVec m) (BitVec n) (no_index (BitVec (m + n))) _ x y) s = y.getLsbD s := by
  simp [BitVec.getLsbD_append]; grind
@[simp] theorem ofBool_bit (b : Bool) : (BitVec.ofBool b).getLsbD 0 = b := by cases b <;> rfl
@[simp] theorem extract_all {n : Nat} (x : BitVec n) : x.extractLsb' 0 n = x := by simp
@[simp] theorem Width.ofBits_toBits (w : Width) : Width.ofBits w.toBits = w := by cases w <;> rfl
@[simp] theorem RMode.ofBits_toBits (w : RMode) : RMode.ofBits w.toBits = some w := by cases w <;> rfl
@[simp] theorem Fmt.ofBits_toBits (w : Fmt) : Fmt.ofBits w.toBits = some w := by cases w <;> rfl
@[simp] theorem Cond.ofBits_toBits (w : Cond) : Cond.ofBits w.toBits = some w := by cases w <;> rfl
@[simp] theorem BCond.ofBits_toBits (w : BCond) : BCond.ofBits w.toBits = some w := by cases w <;> rfl

@[simp] theorem LRaw.ofBits_toBits (r : LRaw) : LRaw.ofBits r.toBits = r := by
  obtain ⟨op, g, d, cap, idx, off⟩ := r
  simp only [LRaw.ofBits, LRaw.toBits, LRaw.mk.injEq]
  refine ⟨?_, ?_, ?_, ?_, ?_, ?_⟩ <;>
    (apply BitVec.eq_of_getLsbD_eq; intro i hi; simp [BitVec.getLsbD_extractLsb'] <;> grind)
@[simp] theorem XRaw.ofBits_toBits (r : XRaw) : XRaw.ofBits r.toBits = r := by
  obtain ⟨op, s, v⟩ := r
  simp only [XRaw.ofBits, XRaw.toBits, XRaw.mk.injEq]
  refine ⟨?_, ?_, ?_⟩ <;>
    (apply BitVec.eq_of_getLsbD_eq; intro i hi; simp [BitVec.getLsbD_extractLsb'] <;> grind)
@[simp] theorem VRaw.ofBits_toBits (r : VRaw) : VRaw.ofBits r.toBits = r := by
  obtain ⟨op, mask, p, d, a, b, c, fmt, mod⟩ := r
  simp only [VRaw.ofBits, VRaw.toBits, VRaw.mk.injEq]
  refine ⟨?_, ?_, ?_, ?_, ?_, ?_, ?_, ?_, ?_⟩ <;>
    (apply BitVec.eq_of_getLsbD_eq; intro i hi; simp [BitVec.getLsbD_extractLsb'] <;> grind)
@[simp] theorem CRaw.ofBits_toBits (r : CRaw) : CRaw.ofBits r.toBits = r := by
  obtain ⟨op, sf, d, flags, imm⟩ := r
  simp only [CRaw.ofBits, CRaw.toBits, CRaw.mk.injEq]
  refine ⟨?_, ?_, ?_, ?_, ?_⟩ <;>
    (apply BitVec.eq_of_getLsbD_eq; intro i hi; simp [BitVec.getLsbD_extractLsb'] <;> grind)

@[simp] theorem MRaw.ofBits_toBits (r : MRaw) : MRaw.ofBits r.toBits = r := by
  obtain ⟨op, tile, a, b, ta, tb, ra, rb, mc, zf, smp, du, ch, zero⟩ := r
  simp [MRaw.ofBits, MRaw.toBits, extract_append_left, extract_append_right, bit_append_left, bit_append_right, -BitVec.getLsbD_eq_getElem, -BitVec.ofNat_eq_ofNat]
theorem reg_code (n : BitVec 5) : (n.setWidth 6).toNat = n.toNat := by simp; omega
theorem reg_code_field (n : BitVec 5) : (n.setWidth 6).extractLsb' 0 5 = n := by
  apply BitVec.eq_of_getLsbD_eq; intro i hi; simp [hi]; omega
theorem stream_code (q : BitVec 4) : (BitVec.ofNat 6 (40 + q.toNat)).toNat = 40 + q.toNat := by
  have := q.isLt; simp; omega
@[simp] theorem VSrc.ofBits_toBits (w : VSrc) : VSrc.ofBits w.toBits = some w := by
  cases w with
  | reg n => have := n.isLt; unfold VSrc.ofBits VSrc.toBits; simp only [reg_code, reg_code_field]; rw [if_pos (by omega)]
  | pop q => have := q.isLt; unfold VSrc.ofBits VSrc.toBits; simp only [stream_code]; rw [if_neg (by omega), if_neg (by omega), if_neg (by omega), if_neg (by omega), if_pos (by omega)]; simp
  | _ => rfl
@[simp] theorem VDst.ofBits_toBits (w : VDst) : VDst.ofBits w.toBits = some w := by
  cases w with
  | reg n => have := n.isLt; unfold VDst.ofBits VDst.toBits; simp only [reg_code, reg_code_field]; rw [if_pos (by omega)]
  | push q => have := q.isLt; unfold VDst.ofBits VDst.toBits; simp only [stream_code]; rw [if_neg (by omega), if_neg (by omega), if_pos (by omega)]; simp
  | _ => rfl
@[simp] theorem RowBase.ofBits_toBits (w : RowBase) : RowBase.ofBits w.toBits = some w := by
  cases w with
  | reg n => have := n.isLt; unfold RowBase.ofBits RowBase.toBits; simp only [reg_code, reg_code_field]; rw [if_pos (by omega)]
  | _ => rfl
@[simp] theorem Buf.ofBits_toBits (w : Buf) : Buf.ofBits w.toBits = some w := by cases w <;> rfl
@[simp] theorem CFmt.ofBits_toBits (w : CFmt) (h : w.wf) : CFmt.ofBits w.toBits = some w := by
  cases w with
  | viaRecord => rfl
  | fmt f => cases f <;> first | rfl | (simp [CFmt.wf, Fmt.copies] at h)

end Sys2Proof
end

