-- ==== Sys2Proof/Laws/State.lean ====
section
/-!
SUPPORT. One lemma per field of State per update, and reading a core, a die or an engine back after a write.
-/

namespace Sys2Proof.Machine

variable (s : State)

/-! ## Reading back -/

theorem get_set_self {α : Type} {n : Nat} (v : Vector α n) (i : Fin n) (x : α) : (v.set i x).get i = x := by
  show (v.set i x)[i.val] = x
  simp
theorem get_set_ne {α : Type} {n : Nat} (v : Vector α n) (i j : Fin n) (x : α) (h : j ≠ i) : (v.set i x).get j = v.get j := by
  show (v.set i x)[j.val] = v[j.val]
  have h' : i.val ≠ j.val := fun e => h (Fin.ext e.symm)
  simp [h']
@[simp] theorem core_setCore_self (c : CoreId) (k : Core) : (s.setCore c k).core c = k := get_set_self _ _ _
theorem core_setCore_ne (c e : CoreId) (k : Core) (h : e ≠ c) : (s.setCore c k).core e = s.core e := get_set_ne _ _ _ _ h
theorem core_setCore (c e : CoreId) (k : Core) : (s.setCore c k).core e = if e = c then k else s.core e := by
  split
  · next h => subst h; simp
  · next h => exact core_setCore_ne s c e k h
@[simp] theorem die_modDie_self (d : DieId) (f : Die → Die) : (s.modDie d f).die d = f (s.die d) := get_set_self _ _ _
theorem die_modDie_ne (d e : DieId) (f : Die → Die) (h : e ≠ d) : (s.modDie d f).die e = s.die e := get_set_ne _ _ _ _ h
@[simp] theorem engine_modEngine_self (e : EngineId) (f : List CopyOp → List CopyOp) :
    (s.modEngine e f).engine e = f (s.engine e) := get_set_self _ _ _

/-! ## The narrower updates are writes of a core -/

@[simp] theorem modCore_eq (c : CoreId) (f : Core → Core) : s.modCore c f = s.setCore c (f (s.core c)) := rfl
@[simp] theorem modK_eq (f : Core → Core) : s.modK f = s.setCore s.cur (f s.k) := rfl
@[simp] theorem modT_eq (f : TState → TState) : s.modT f = s.setCore s.cur { s.k with t := f s.k.t } := rfl
@[simp] theorem modRegs_eq (f : Regs → Regs) :
    s.modRegs f = s.setCore s.cur { s.k with t := { s.k.t with regs := f s.k.t.regs } } := rfl
@[simp] theorem modSys_eq (f : Sys → Sys) :
    s.modSys f = s.setCore s.cur { s.k with t := { s.k.t with sys := f s.k.t.sys } } := rfl
@[simp] theorem k_setCore_cur (k : Core) : (s.setCore s.cur k).k = k := by
  have h := core_setCore_self s s.cur k
  exact h
@[simp] theorem setCore_setCore (c : CoreId) (k k' : Core) : (s.setCore c k).setCore c k' = s.setCore c k' := by
  simp [State.setCore]
theorem k_eq : s.k = s.core s.cur := rfl

/-! ## Fields an update leaves -/

@[simp] theorem setCore_agenda (c : CoreId) (k : Core) : (s.setCore c k).agenda = s.agenda := rfl
@[simp] theorem setCore_deferred (c : CoreId) (k : Core) : (s.setCore c k).deferred = s.deferred := rfl
@[simp] theorem setCore_now (c : CoreId) (k : Core) : (s.setCore c k).now = s.now := rfl
@[simp] theorem setCore_fresh (c : CoreId) (k : Core) : (s.setCore c k).fresh = s.fresh := rfl
@[simp] theorem setCore_cur (c : CoreId) (k : Core) : (s.setCore c k).cur = s.cur := rfl
@[simp] theorem setCore_dsel (c : CoreId) (k : Core) : (s.setCore c k).dsel = s.dsel := rfl
@[simp] theorem setCore_unit (c : CoreId) (k : Core) : (s.setCore c k).unit = s.unit := rfl
@[simp] theorem setCore_item (c : CoreId) (k : Core) : (s.setCore c k).item = s.item := rfl
@[simp] theorem setCore_turn (c : CoreId) (k : Core) : (s.setCore c k).turn = s.turn := rfl
@[simp] theorem setCore_uids (c : CoreId) (k : Core) : (s.setCore c k).uids = s.uids := rfl
@[simp] theorem setCore_dies (c : CoreId) (k : Core) : (s.setCore c k).dies = s.dies := rfl
@[simp] theorem setCore_mem (c : CoreId) (k : Core) : (s.setCore c k).mem = s.mem := rfl
@[simp] theorem setCore_tags (c : CoreId) (k : Core) : (s.setCore c k).tags = s.tags := rfl
@[simp] theorem setCore_lines (c : CoreId) (k : Core) : (s.setCore c k).lines = s.lines := rfl
@[simp] theorem setCore_poison (c : CoreId) (k : Core) : (s.setCore c k).poison = s.poison := rfl
@[simp] theorem setCore_crc (c : CoreId) (k : Core) : (s.setCore c k).crc = s.crc := rfl
@[simp] theorem setCore_edges (c : CoreId) (k : Core) : (s.setCore c k).edges = s.edges := rfl
@[simp] theorem setCore_edgeRst (c : CoreId) (k : Core) : (s.setCore c k).edgeRst = s.edgeRst := rfl
@[simp] theorem setCore_engines (c : CoreId) (k : Core) : (s.setCore c k).engines = s.engines := rfl
@[simp] theorem setCore_engTlb (c : CoreId) (k : Core) : (s.setCore c k).engTlb = s.engTlb := rfl
@[simp] theorem setCore_pchans (c : CoreId) (k : Core) : (s.setCore c k).pchans = s.pchans := rfl
@[simp] theorem setCore_buses (c : CoreId) (k : Core) : (s.setCore c k).buses = s.buses := rfl
@[simp] theorem setCore_invs (c : CoreId) (k : Core) : (s.setCore c k).invs = s.invs := rfl
@[simp] theorem setCore_homeTab (c : CoreId) (k : Core) : (s.setCore c k).homeTab = s.homeTab := rfl
@[simp] theorem setCore_grids (c : CoreId) (k : Core) : (s.setCore c k).grids = s.grids := rfl
@[simp] theorem setCore_saved (c : CoreId) (k : Core) : (s.setCore c k).saved = s.saved := rfl
@[simp] theorem setCore_ticks (c : CoreId) (k : Core) : (s.setCore c k).ticks = s.ticks := rfl
@[simp] theorem setCore_gv (c : CoreId) (k : Core) : (s.setCore c k).gv = s.gv := rfl
@[simp] theorem setCore_steps (c : CoreId) (k : Core) : (s.setCore c k).steps = s.steps := rfl
@[simp] theorem setCore_outbox (c : CoreId) (k : Core) : (s.setCore c k).outbox = s.outbox := rfl
@[simp] theorem setCore_pln (c : CoreId) (k : Core) : (s.setCore c k).pln = s.pln := rfl
@[simp] theorem setCore_launched (c : CoreId) (k : Core) : (s.setCore c k).launched = s.launched := rfl
@[simp] theorem setCore_hostHeld (c : CoreId) (k : Core) : (s.setCore c k).hostHeld = s.hostHeld := rfl
@[simp] theorem setCore_dsets (c : CoreId) (k : Core) : (s.setCore c k).dsets = s.dsets := rfl
@[simp] theorem setCore_hostErr (c : CoreId) (k : Core) : (s.setCore c k).hostErr = s.hostErr := rfl
@[simp] theorem setCore_rtSeen (c : CoreId) (k : Core) : (s.setCore c k).rtSeen = s.rtSeen := rfl
@[simp] theorem setCore_hts (c : CoreId) (k : Core) : (s.setCore c k).hts = s.hts := rfl
@[simp] theorem setCore_qlast (c : CoreId) (k : Core) : (s.setCore c k).qlast = s.qlast := rfl
@[simp] theorem setCore_dones (c : CoreId) (k : Core) : (s.setCore c k).dones = s.dones := rfl
@[simp] theorem setCore_doneTs (c : CoreId) (k : Core) : (s.setCore c k).doneTs = s.doneTs := rfl
@[simp] theorem modDie_agenda (d : DieId) (f : Die → Die) : (s.modDie d f).agenda = s.agenda := rfl
@[simp] theorem modDie_deferred (d : DieId) (f : Die → Die) : (s.modDie d f).deferred = s.deferred := rfl
@[simp] theorem modDie_now (d : DieId) (f : Die → Die) : (s.modDie d f).now = s.now := rfl
@[simp] theorem modDie_fresh (d : DieId) (f : Die → Die) : (s.modDie d f).fresh = s.fresh := rfl
@[simp] theorem modDie_cur (d : DieId) (f : Die → Die) : (s.modDie d f).cur = s.cur := rfl
@[simp] theorem modDie_dsel (d : DieId) (f : Die → Die) : (s.modDie d f).dsel = s.dsel := rfl
@[simp] theorem modDie_unit (d : DieId) (f : Die → Die) : (s.modDie d f).unit = s.unit := rfl
@[simp] theorem modDie_item (d : DieId) (f : Die → Die) : (s.modDie d f).item = s.item := rfl
@[simp] theorem modDie_turn (d : DieId) (f : Die → Die) : (s.modDie d f).turn = s.turn := rfl
@[simp] theorem modDie_uids (d : DieId) (f : Die → Die) : (s.modDie d f).uids = s.uids := rfl
@[simp] theorem modDie_cores (d : DieId) (f : Die → Die) : (s.modDie d f).cores = s.cores := rfl
@[simp] theorem modDie_mem (d : DieId) (f : Die → Die) : (s.modDie d f).mem = s.mem := rfl
@[simp] theorem modDie_tags (d : DieId) (f : Die → Die) : (s.modDie d f).tags = s.tags := rfl
@[simp] theorem modDie_lines (d : DieId) (f : Die → Die) : (s.modDie d f).lines = s.lines := rfl
@[simp] theorem modDie_poison (d : DieId) (f : Die → Die) : (s.modDie d f).poison = s.poison := rfl
@[simp] theorem modDie_crc (d : DieId) (f : Die → Die) : (s.modDie d f).crc = s.crc := rfl
@[simp] theorem modDie_edges (d : DieId) (f : Die → Die) : (s.modDie d f).edges = s.edges := rfl
@[simp] theorem modDie_edgeRst (d : DieId) (f : Die → Die) : (s.modDie d f).edgeRst = s.edgeRst := rfl
@[simp] theorem modDie_engines (d : DieId) (f : Die → Die) : (s.modDie d f).engines = s.engines := rfl
@[simp] theorem modDie_engTlb (d : DieId) (f : Die → Die) : (s.modDie d f).engTlb = s.engTlb := rfl
@[simp] theorem modDie_pchans (d : DieId) (f : Die → Die) : (s.modDie d f).pchans = s.pchans := rfl
@[simp] theorem modDie_buses (d : DieId) (f : Die → Die) : (s.modDie d f).buses = s.buses := rfl
@[simp] theorem modDie_invs (d : DieId) (f : Die → Die) : (s.modDie d f).invs = s.invs := rfl
@[simp] theorem modDie_homeTab (d : DieId) (f : Die → Die) : (s.modDie d f).homeTab = s.homeTab := rfl
@[simp] theorem modDie_grids (d : DieId) (f : Die → Die) : (s.modDie d f).grids = s.grids := rfl
@[simp] theorem modDie_saved (d : DieId) (f : Die → Die) : (s.modDie d f).saved = s.saved := rfl
@[simp] theorem modDie_ticks (d : DieId) (f : Die → Die) : (s.modDie d f).ticks = s.ticks := rfl
@[simp] theorem modDie_gv (d : DieId) (f : Die → Die) : (s.modDie d f).gv = s.gv := rfl
@[simp] theorem modDie_steps (d : DieId) (f : Die → Die) : (s.modDie d f).steps = s.steps := rfl
@[simp] theorem modDie_outbox (d : DieId) (f : Die → Die) : (s.modDie d f).outbox = s.outbox := rfl
@[simp] theorem modDie_pln (d : DieId) (f : Die → Die) : (s.modDie d f).pln = s.pln := rfl
@[simp] theorem modDie_launched (d : DieId) (f : Die → Die) : (s.modDie d f).launched = s.launched := rfl
@[simp] theorem modDie_hostHeld (d : DieId) (f : Die → Die) : (s.modDie d f).hostHeld = s.hostHeld := rfl
@[simp] theorem modDie_dsets (d : DieId) (f : Die → Die) : (s.modDie d f).dsets = s.dsets := rfl
@[simp] theorem modDie_hostErr (d : DieId) (f : Die → Die) : (s.modDie d f).hostErr = s.hostErr := rfl
@[simp] theorem modDie_rtSeen (d : DieId) (f : Die → Die) : (s.modDie d f).rtSeen = s.rtSeen := rfl
@[simp] theorem modDie_hts (d : DieId) (f : Die → Die) : (s.modDie d f).hts = s.hts := rfl
@[simp] theorem modDie_qlast (d : DieId) (f : Die → Die) : (s.modDie d f).qlast = s.qlast := rfl
@[simp] theorem modDie_dones (d : DieId) (f : Die → Die) : (s.modDie d f).dones = s.dones := rfl
@[simp] theorem modDie_doneTs (d : DieId) (f : Die → Die) : (s.modDie d f).doneTs = s.doneTs := rfl
@[simp] theorem modEngine_agenda (e : EngineId) (f : List CopyOp → List CopyOp) : (s.modEngine e f).agenda = s.agenda := rfl
@[simp] theorem modEngine_deferred (e : EngineId) (f : List CopyOp → List CopyOp) : (s.modEngine e f).deferred = s.deferred := rfl
@[simp] theorem modEngine_now (e : EngineId) (f : List CopyOp → List CopyOp) : (s.modEngine e f).now = s.now := rfl
@[simp] theorem modEngine_fresh (e : EngineId) (f : List CopyOp → List CopyOp) : (s.modEngine e f).fresh = s.fresh := rfl
@[simp] theorem modEngine_cur (e : EngineId) (f : List CopyOp → List CopyOp) : (s.modEngine e f).cur = s.cur := rfl
@[simp] theorem modEngine_dsel (e : EngineId) (f : List CopyOp → List CopyOp) : (s.modEngine e f).dsel = s.dsel := rfl
@[simp] theorem modEngine_unit (e : EngineId) (f : List CopyOp → List CopyOp) : (s.modEngine e f).unit = s.unit := rfl
@[simp] theorem modEngine_item (e : EngineId) (f : List CopyOp → List CopyOp) : (s.modEngine e f).item = s.item := rfl
@[simp] theorem modEngine_turn (e : EngineId) (f : List CopyOp → List CopyOp) : (s.modEngine e f).turn = s.turn := rfl
@[simp] theorem modEngine_uids (e : EngineId) (f : List CopyOp → List CopyOp) : (s.modEngine e f).uids = s.uids := rfl
@[simp] theorem modEngine_cores (e : EngineId) (f : List CopyOp → List CopyOp) : (s.modEngine e f).cores = s.cores := rfl
@[simp] theorem modEngine_dies (e : EngineId) (f : List CopyOp → List CopyOp) : (s.modEngine e f).dies = s.dies := rfl
@[simp] theorem modEngine_mem (e : EngineId) (f : List CopyOp → List CopyOp) : (s.modEngine e f).mem = s.mem := rfl
@[simp] theorem modEngine_tags (e : EngineId) (f : List CopyOp → List CopyOp) : (s.modEngine e f).tags = s.tags := rfl
@[simp] theorem modEngine_lines (e : EngineId) (f : List CopyOp → List CopyOp) : (s.modEngine e f).lines = s.lines := rfl
@[simp] theorem modEngine_poison (e : EngineId) (f : List CopyOp → List CopyOp) : (s.modEngine e f).poison = s.poison := rfl
@[simp] theorem modEngine_crc (e : EngineId) (f : List CopyOp → List CopyOp) : (s.modEngine e f).crc = s.crc := rfl
@[simp] theorem modEngine_edges (e : EngineId) (f : List CopyOp → List CopyOp) : (s.modEngine e f).edges = s.edges := rfl
@[simp] theorem modEngine_edgeRst (e : EngineId) (f : List CopyOp → List CopyOp) : (s.modEngine e f).edgeRst = s.edgeRst := rfl
@[simp] theorem modEngine_engTlb (e : EngineId) (f : List CopyOp → List CopyOp) : (s.modEngine e f).engTlb = s.engTlb := rfl
@[simp] theorem modEngine_pchans (e : EngineId) (f : List CopyOp → List CopyOp) : (s.modEngine e f).pchans = s.pchans := rfl
@[simp] theorem modEngine_buses (e : EngineId) (f : List CopyOp → List CopyOp) : (s.modEngine e f).buses = s.buses := rfl
@[simp] theorem modEngine_invs (e : EngineId) (f : List CopyOp → List CopyOp) : (s.modEngine e f).invs = s.invs := rfl
@[simp] theorem modEngine_homeTab (e : EngineId) (f : List CopyOp → List CopyOp) : (s.modEngine e f).homeTab = s.homeTab := rfl
@[simp] theorem modEngine_grids (e : EngineId) (f : List CopyOp → List CopyOp) : (s.modEngine e f).grids = s.grids := rfl
@[simp] theorem modEngine_saved (e : EngineId) (f : List CopyOp → List CopyOp) : (s.modEngine e f).saved = s.saved := rfl
@[simp] theorem modEngine_ticks (e : EngineId) (f : List CopyOp → List CopyOp) : (s.modEngine e f).ticks = s.ticks := rfl
@[simp] theorem modEngine_gv (e : EngineId) (f : List CopyOp → List CopyOp) : (s.modEngine e f).gv = s.gv := rfl
@[simp] theorem modEngine_steps (e : EngineId) (f : List CopyOp → List CopyOp) : (s.modEngine e f).steps = s.steps := rfl
@[simp] theorem modEngine_outbox (e : EngineId) (f : List CopyOp → List CopyOp) : (s.modEngine e f).outbox = s.outbox := rfl
@[simp] theorem modEngine_pln (e : EngineId) (f : List CopyOp → List CopyOp) : (s.modEngine e f).pln = s.pln := rfl
@[simp] theorem modEngine_launched (e : EngineId) (f : List CopyOp → List CopyOp) : (s.modEngine e f).launched = s.launched := rfl
@[simp] theorem modEngine_hostHeld (e : EngineId) (f : List CopyOp → List CopyOp) : (s.modEngine e f).hostHeld = s.hostHeld := rfl
@[simp] theorem modEngine_dsets (e : EngineId) (f : List CopyOp → List CopyOp) : (s.modEngine e f).dsets = s.dsets := rfl
@[simp] theorem modEngine_hostErr (e : EngineId) (f : List CopyOp → List CopyOp) : (s.modEngine e f).hostErr = s.hostErr := rfl
@[simp] theorem modEngine_rtSeen (e : EngineId) (f : List CopyOp → List CopyOp) : (s.modEngine e f).rtSeen = s.rtSeen := rfl
@[simp] theorem modEngine_hts (e : EngineId) (f : List CopyOp → List CopyOp) : (s.modEngine e f).hts = s.hts := rfl
@[simp] theorem modEngine_qlast (e : EngineId) (f : List CopyOp → List CopyOp) : (s.modEngine e f).qlast = s.qlast := rfl
@[simp] theorem modEngine_dones (e : EngineId) (f : List CopyOp → List CopyOp) : (s.modEngine e f).dones = s.dones := rfl
@[simp] theorem modEngine_doneTs (e : EngineId) (f : List CopyOp → List CopyOp) : (s.modEngine e f).doneTs = s.doneTs := rfl
@[simp] theorem post_deferred (a : Act) : (s.post a).deferred = s.deferred := rfl
@[simp] theorem post_now (a : Act) : (s.post a).now = s.now := rfl
@[simp] theorem post_fresh (a : Act) : (s.post a).fresh = s.fresh := rfl
@[simp] theorem post_cur (a : Act) : (s.post a).cur = s.cur := rfl
@[simp] theorem post_dsel (a : Act) : (s.post a).dsel = s.dsel := rfl
@[simp] theorem post_unit (a : Act) : (s.post a).unit = s.unit := rfl
@[simp] theorem post_item (a : Act) : (s.post a).item = s.item := rfl
@[simp] theorem post_turn (a : Act) : (s.post a).turn = s.turn := rfl
@[simp] theorem post_uids (a : Act) : (s.post a).uids = s.uids := rfl
@[simp] theorem post_cores (a : Act) : (s.post a).cores = s.cores := rfl
@[simp] theorem post_dies (a : Act) : (s.post a).dies = s.dies := rfl
@[simp] theorem post_mem (a : Act) : (s.post a).mem = s.mem := rfl
@[simp] theorem post_tags (a : Act) : (s.post a).tags = s.tags := rfl
@[simp] theorem post_lines (a : Act) : (s.post a).lines = s.lines := rfl
@[simp] theorem post_poison (a : Act) : (s.post a).poison = s.poison := rfl
@[simp] theorem post_crc (a : Act) : (s.post a).crc = s.crc := rfl
@[simp] theorem post_edges (a : Act) : (s.post a).edges = s.edges := rfl
@[simp] theorem post_edgeRst (a : Act) : (s.post a).edgeRst = s.edgeRst := rfl
@[simp] theorem post_engines (a : Act) : (s.post a).engines = s.engines := rfl
@[simp] theorem post_engTlb (a : Act) : (s.post a).engTlb = s.engTlb := rfl
@[simp] theorem post_pchans (a : Act) : (s.post a).pchans = s.pchans := rfl
@[simp] theorem post_buses (a : Act) : (s.post a).buses = s.buses := rfl
@[simp] theorem post_invs (a : Act) : (s.post a).invs = s.invs := rfl
@[simp] theorem post_homeTab (a : Act) : (s.post a).homeTab = s.homeTab := rfl
@[simp] theorem post_grids (a : Act) : (s.post a).grids = s.grids := rfl
@[simp] theorem post_saved (a : Act) : (s.post a).saved = s.saved := rfl
@[simp] theorem post_ticks (a : Act) : (s.post a).ticks = s.ticks := rfl
@[simp] theorem post_gv (a : Act) : (s.post a).gv = s.gv := rfl
@[simp] theorem post_steps (a : Act) : (s.post a).steps = s.steps := rfl
@[simp] theorem post_outbox (a : Act) : (s.post a).outbox = s.outbox := rfl
@[simp] theorem post_pln (a : Act) : (s.post a).pln = s.pln := rfl
@[simp] theorem post_launched (a : Act) : (s.post a).launched = s.launched := rfl
@[simp] theorem post_hostHeld (a : Act) : (s.post a).hostHeld = s.hostHeld := rfl
@[simp] theorem post_dsets (a : Act) : (s.post a).dsets = s.dsets := rfl
@[simp] theorem post_hostErr (a : Act) : (s.post a).hostErr = s.hostErr := rfl
@[simp] theorem post_rtSeen (a : Act) : (s.post a).rtSeen = s.rtSeen := rfl
@[simp] theorem post_hts (a : Act) : (s.post a).hts = s.hts := rfl
@[simp] theorem post_qlast (a : Act) : (s.post a).qlast = s.qlast := rfl
@[simp] theorem post_dones (a : Act) : (s.post a).dones = s.dones := rfl
@[simp] theorem post_doneTs (a : Act) : (s.post a).doneTs = s.doneTs := rfl
@[simp] theorem deferDie_agenda (d : DieId) (i : Instr) (u n : Nat) : (s.deferDie d i u n).agenda = s.agenda := rfl
@[simp] theorem deferDie_now (d : DieId) (i : Instr) (u n : Nat) : (s.deferDie d i u n).now = s.now := rfl
@[simp] theorem deferDie_fresh (d : DieId) (i : Instr) (u n : Nat) : (s.deferDie d i u n).fresh = s.fresh := rfl
@[simp] theorem deferDie_cur (d : DieId) (i : Instr) (u n : Nat) : (s.deferDie d i u n).cur = s.cur := rfl
@[simp] theorem deferDie_dsel (d : DieId) (i : Instr) (u n : Nat) : (s.deferDie d i u n).dsel = s.dsel := rfl
@[simp] theorem deferDie_unit (d : DieId) (i : Instr) (u n : Nat) : (s.deferDie d i u n).unit = s.unit := rfl
@[simp] theorem deferDie_item (d : DieId) (i : Instr) (u n : Nat) : (s.deferDie d i u n).item = s.item := rfl
@[simp] theorem deferDie_turn (d : DieId) (i : Instr) (u n : Nat) : (s.deferDie d i u n).turn = s.turn := rfl
@[simp] theorem deferDie_uids (d : DieId) (i : Instr) (u n : Nat) : (s.deferDie d i u n).uids = s.uids := rfl
@[simp] theorem deferDie_cores (d : DieId) (i : Instr) (u n : Nat) : (s.deferDie d i u n).cores = s.cores := rfl
@[simp] theorem deferDie_dies (d : DieId) (i : Instr) (u n : Nat) : (s.deferDie d i u n).dies = s.dies := rfl
@[simp] theorem deferDie_mem (d : DieId) (i : Instr) (u n : Nat) : (s.deferDie d i u n).mem = s.mem := rfl
@[simp] theorem deferDie_tags (d : DieId) (i : Instr) (u n : Nat) : (s.deferDie d i u n).tags = s.tags := rfl
@[simp] theorem deferDie_lines (d : DieId) (i : Instr) (u n : Nat) : (s.deferDie d i u n).lines = s.lines := rfl
@[simp] theorem deferDie_poison (d : DieId) (i : Instr) (u n : Nat) : (s.deferDie d i u n).poison = s.poison := rfl
@[simp] theorem deferDie_crc (d : DieId) (i : Instr) (u n : Nat) : (s.deferDie d i u n).crc = s.crc := rfl
@[simp] theorem deferDie_edges (d : DieId) (i : Instr) (u n : Nat) : (s.deferDie d i u n).edges = s.edges := rfl
@[simp] theorem deferDie_edgeRst (d : DieId) (i : Instr) (u n : Nat) : (s.deferDie d i u n).edgeRst = s.edgeRst := rfl
@[simp] theorem deferDie_engines (d : DieId) (i : Instr) (u n : Nat) : (s.deferDie d i u n).engines = s.engines := rfl
@[simp] theorem deferDie_engTlb (d : DieId) (i : Instr) (u n : Nat) : (s.deferDie d i u n).engTlb = s.engTlb := rfl
@[simp] theorem deferDie_pchans (d : DieId) (i : Instr) (u n : Nat) : (s.deferDie d i u n).pchans = s.pchans := rfl
@[simp] theorem deferDie_buses (d : DieId) (i : Instr) (u n : Nat) : (s.deferDie d i u n).buses = s.buses := rfl
@[simp] theorem deferDie_invs (d : DieId) (i : Instr) (u n : Nat) : (s.deferDie d i u n).invs = s.invs := rfl
@[simp] theorem deferDie_homeTab (d : DieId) (i : Instr) (u n : Nat) : (s.deferDie d i u n).homeTab = s.homeTab := rfl
@[simp] theorem deferDie_grids (d : DieId) (i : Instr) (u n : Nat) : (s.deferDie d i u n).grids = s.grids := rfl
@[simp] theorem deferDie_saved (d : DieId) (i : Instr) (u n : Nat) : (s.deferDie d i u n).saved = s.saved := rfl
@[simp] theorem deferDie_ticks (d : DieId) (i : Instr) (u n : Nat) : (s.deferDie d i u n).ticks = s.ticks := rfl
@[simp] theorem deferDie_gv (d : DieId) (i : Instr) (u n : Nat) : (s.deferDie d i u n).gv = s.gv := rfl
@[simp] theorem deferDie_steps (d : DieId) (i : Instr) (u n : Nat) : (s.deferDie d i u n).steps = s.steps := rfl
@[simp] theorem deferDie_outbox (d : DieId) (i : Instr) (u n : Nat) : (s.deferDie d i u n).outbox = s.outbox := rfl
@[simp] theorem deferDie_pln (d : DieId) (i : Instr) (u n : Nat) : (s.deferDie d i u n).pln = s.pln := rfl
@[simp] theorem deferDie_launched (d : DieId) (i : Instr) (u n : Nat) : (s.deferDie d i u n).launched = s.launched := rfl
@[simp] theorem deferDie_hostHeld (d : DieId) (i : Instr) (u n : Nat) : (s.deferDie d i u n).hostHeld = s.hostHeld := rfl
@[simp] theorem deferDie_dsets (d : DieId) (i : Instr) (u n : Nat) : (s.deferDie d i u n).dsets = s.dsets := rfl
@[simp] theorem deferDie_hostErr (d : DieId) (i : Instr) (u n : Nat) : (s.deferDie d i u n).hostErr = s.hostErr := rfl
@[simp] theorem deferDie_rtSeen (d : DieId) (i : Instr) (u n : Nat) : (s.deferDie d i u n).rtSeen = s.rtSeen := rfl
@[simp] theorem deferDie_hts (d : DieId) (i : Instr) (u n : Nat) : (s.deferDie d i u n).hts = s.hts := rfl
@[simp] theorem deferDie_qlast (d : DieId) (i : Instr) (u n : Nat) : (s.deferDie d i u n).qlast = s.qlast := rfl
@[simp] theorem deferDie_dones (d : DieId) (i : Instr) (u n : Nat) : (s.deferDie d i u n).dones = s.dones := rfl
@[simp] theorem deferDie_doneTs (d : DieId) (i : Instr) (u n : Nat) : (s.deferDie d i u n).doneTs = s.doneTs := rfl
@[simp] theorem onCore_agenda (c : CoreId) : (s.onCore c).agenda = s.agenda := rfl
@[simp] theorem onCore_deferred (c : CoreId) : (s.onCore c).deferred = s.deferred := rfl
@[simp] theorem onCore_now (c : CoreId) : (s.onCore c).now = s.now := rfl
@[simp] theorem onCore_fresh (c : CoreId) : (s.onCore c).fresh = s.fresh := rfl
@[simp] theorem onCore_dsel (c : CoreId) : (s.onCore c).dsel = s.dsel := rfl
@[simp] theorem onCore_unit (c : CoreId) : (s.onCore c).unit = s.unit := rfl
@[simp] theorem onCore_item (c : CoreId) : (s.onCore c).item = s.item := rfl
@[simp] theorem onCore_turn (c : CoreId) : (s.onCore c).turn = s.turn := rfl
@[simp] theorem onCore_uids (c : CoreId) : (s.onCore c).uids = s.uids := rfl
@[simp] theorem onCore_cores (c : CoreId) : (s.onCore c).cores = s.cores := rfl
@[simp] theorem onCore_dies (c : CoreId) : (s.onCore c).dies = s.dies := rfl
@[simp] theorem onCore_mem (c : CoreId) : (s.onCore c).mem = s.mem := rfl
@[simp] theorem onCore_tags (c : CoreId) : (s.onCore c).tags = s.tags := rfl
@[simp] theorem onCore_lines (c : CoreId) : (s.onCore c).lines = s.lines := rfl
@[simp] theorem onCore_poison (c : CoreId) : (s.onCore c).poison = s.poison := rfl
@[simp] theorem onCore_crc (c : CoreId) : (s.onCore c).crc = s.crc := rfl
@[simp] theorem onCore_edges (c : CoreId) : (s.onCore c).edges = s.edges := rfl
@[simp] theorem onCore_edgeRst (c : CoreId) : (s.onCore c).edgeRst = s.edgeRst := rfl
@[simp] theorem onCore_engines (c : CoreId) : (s.onCore c).engines = s.engines := rfl
@[simp] theorem onCore_engTlb (c : CoreId) : (s.onCore c).engTlb = s.engTlb := rfl
@[simp] theorem onCore_pchans (c : CoreId) : (s.onCore c).pchans = s.pchans := rfl
@[simp] theorem onCore_buses (c : CoreId) : (s.onCore c).buses = s.buses := rfl
@[simp] theorem onCore_invs (c : CoreId) : (s.onCore c).invs = s.invs := rfl
@[simp] theorem onCore_homeTab (c : CoreId) : (s.onCore c).homeTab = s.homeTab := rfl
@[simp] theorem onCore_grids (c : CoreId) : (s.onCore c).grids = s.grids := rfl
@[simp] theorem onCore_saved (c : CoreId) : (s.onCore c).saved = s.saved := rfl
@[simp] theorem onCore_ticks (c : CoreId) : (s.onCore c).ticks = s.ticks := rfl
@[simp] theorem onCore_gv (c : CoreId) : (s.onCore c).gv = s.gv := rfl
@[simp] theorem onCore_steps (c : CoreId) : (s.onCore c).steps = s.steps := rfl
@[simp] theorem onCore_outbox (c : CoreId) : (s.onCore c).outbox = s.outbox := rfl
@[simp] theorem onCore_pln (c : CoreId) : (s.onCore c).pln = s.pln := rfl
@[simp] theorem onCore_launched (c : CoreId) : (s.onCore c).launched = s.launched := rfl
@[simp] theorem onCore_hostHeld (c : CoreId) : (s.onCore c).hostHeld = s.hostHeld := rfl
@[simp] theorem onCore_dsets (c : CoreId) : (s.onCore c).dsets = s.dsets := rfl
@[simp] theorem onCore_hostErr (c : CoreId) : (s.onCore c).hostErr = s.hostErr := rfl
@[simp] theorem onCore_rtSeen (c : CoreId) : (s.onCore c).rtSeen = s.rtSeen := rfl
@[simp] theorem onCore_hts (c : CoreId) : (s.onCore c).hts = s.hts := rfl
@[simp] theorem onCore_qlast (c : CoreId) : (s.onCore c).qlast = s.qlast := rfl
@[simp] theorem onCore_dones (c : CoreId) : (s.onCore c).dones = s.dones := rfl
@[simp] theorem onCore_doneTs (c : CoreId) : (s.onCore c).doneTs = s.doneTs := rfl
@[simp] theorem emit_agenda (o : Out) : (s.emit o).agenda = s.agenda := rfl
@[simp] theorem emit_deferred (o : Out) : (s.emit o).deferred = s.deferred := rfl
@[simp] theorem emit_now (o : Out) : (s.emit o).now = s.now := rfl
@[simp] theorem emit_fresh (o : Out) : (s.emit o).fresh = s.fresh := rfl
@[simp] theorem emit_cur (o : Out) : (s.emit o).cur = s.cur := rfl
@[simp] theorem emit_dsel (o : Out) : (s.emit o).dsel = s.dsel := rfl
@[simp] theorem emit_unit (o : Out) : (s.emit o).unit = s.unit := rfl
@[simp] theorem emit_item (o : Out) : (s.emit o).item = s.item := rfl
@[simp] theorem emit_turn (o : Out) : (s.emit o).turn = s.turn := rfl
@[simp] theorem emit_uids (o : Out) : (s.emit o).uids = s.uids := rfl
@[simp] theorem emit_cores (o : Out) : (s.emit o).cores = s.cores := rfl
@[simp] theorem emit_dies (o : Out) : (s.emit o).dies = s.dies := rfl
@[simp] theorem emit_mem (o : Out) : (s.emit o).mem = s.mem := rfl
@[simp] theorem emit_tags (o : Out) : (s.emit o).tags = s.tags := rfl
@[simp] theorem emit_lines (o : Out) : (s.emit o).lines = s.lines := rfl
@[simp] theorem emit_poison (o : Out) : (s.emit o).poison = s.poison := rfl
@[simp] theorem emit_crc (o : Out) : (s.emit o).crc = s.crc := rfl
@[simp] theorem emit_edges (o : Out) : (s.emit o).edges = s.edges := rfl
@[simp] theorem emit_edgeRst (o : Out) : (s.emit o).edgeRst = s.edgeRst := rfl
@[simp] theorem emit_engines (o : Out) : (s.emit o).engines = s.engines := rfl
@[simp] theorem emit_engTlb (o : Out) : (s.emit o).engTlb = s.engTlb := rfl
@[simp] theorem emit_pchans (o : Out) : (s.emit o).pchans = s.pchans := rfl
@[simp] theorem emit_buses (o : Out) : (s.emit o).buses = s.buses := rfl
@[simp] theorem emit_invs (o : Out) : (s.emit o).invs = s.invs := rfl
@[simp] theorem emit_homeTab (o : Out) : (s.emit o).homeTab = s.homeTab := rfl
@[simp] theorem emit_grids (o : Out) : (s.emit o).grids = s.grids := rfl
@[simp] theorem emit_saved (o : Out) : (s.emit o).saved = s.saved := rfl
@[simp] theorem emit_ticks (o : Out) : (s.emit o).ticks = s.ticks := rfl
@[simp] theorem emit_gv (o : Out) : (s.emit o).gv = s.gv := rfl
@[simp] theorem emit_steps (o : Out) : (s.emit o).steps = s.steps := rfl
@[simp] theorem emit_pln (o : Out) : (s.emit o).pln = s.pln := rfl
@[simp] theorem emit_launched (o : Out) : (s.emit o).launched = s.launched := rfl
@[simp] theorem emit_hostHeld (o : Out) : (s.emit o).hostHeld = s.hostHeld := rfl
@[simp] theorem emit_dsets (o : Out) : (s.emit o).dsets = s.dsets := rfl
@[simp] theorem emit_hostErr (o : Out) : (s.emit o).hostErr = s.hostErr := rfl
@[simp] theorem emit_rtSeen (o : Out) : (s.emit o).rtSeen = s.rtSeen := rfl
@[simp] theorem emit_hts (o : Out) : (s.emit o).hts = s.hts := rfl
@[simp] theorem emit_qlast (o : Out) : (s.emit o).qlast = s.qlast := rfl
@[simp] theorem emit_dones (o : Out) : (s.emit o).dones = s.dones := rfl
@[simp] theorem emit_doneTs (o : Out) : (s.emit o).doneTs = s.doneTs := rfl
@[simp] theorem tickFresh_agenda : (s.tickFresh).agenda = s.agenda := rfl
@[simp] theorem tickFresh_deferred : (s.tickFresh).deferred = s.deferred := rfl
@[simp] theorem tickFresh_now : (s.tickFresh).now = s.now := rfl
@[simp] theorem tickFresh_cur : (s.tickFresh).cur = s.cur := rfl
@[simp] theorem tickFresh_dsel : (s.tickFresh).dsel = s.dsel := rfl
@[simp] theorem tickFresh_unit : (s.tickFresh).unit = s.unit := rfl
@[simp] theorem tickFresh_item : (s.tickFresh).item = s.item := rfl
@[simp] theorem tickFresh_turn : (s.tickFresh).turn = s.turn := rfl
@[simp] theorem tickFresh_uids : (s.tickFresh).uids = s.uids := rfl
@[simp] theorem tickFresh_cores : (s.tickFresh).cores = s.cores := rfl
@[simp] theorem tickFresh_dies : (s.tickFresh).dies = s.dies := rfl
@[simp] theorem tickFresh_mem : (s.tickFresh).mem = s.mem := rfl
@[simp] theorem tickFresh_tags : (s.tickFresh).tags = s.tags := rfl
@[simp] theorem tickFresh_lines : (s.tickFresh).lines = s.lines := rfl
@[simp] theorem tickFresh_poison : (s.tickFresh).poison = s.poison := rfl
@[simp] theorem tickFresh_crc : (s.tickFresh).crc = s.crc := rfl
@[simp] theorem tickFresh_edges : (s.tickFresh).edges = s.edges := rfl
@[simp] theorem tickFresh_edgeRst : (s.tickFresh).edgeRst = s.edgeRst := rfl
@[simp] theorem tickFresh_engines : (s.tickFresh).engines = s.engines := rfl
@[simp] theorem tickFresh_engTlb : (s.tickFresh).engTlb = s.engTlb := rfl
@[simp] theorem tickFresh_pchans : (s.tickFresh).pchans = s.pchans := rfl
@[simp] theorem tickFresh_buses : (s.tickFresh).buses = s.buses := rfl
@[simp] theorem tickFresh_invs : (s.tickFresh).invs = s.invs := rfl
@[simp] theorem tickFresh_homeTab : (s.tickFresh).homeTab = s.homeTab := rfl
@[simp] theorem tickFresh_grids : (s.tickFresh).grids = s.grids := rfl
@[simp] theorem tickFresh_saved : (s.tickFresh).saved = s.saved := rfl
@[simp] theorem tickFresh_ticks : (s.tickFresh).ticks = s.ticks := rfl
@[simp] theorem tickFresh_gv : (s.tickFresh).gv = s.gv := rfl
@[simp] theorem tickFresh_steps : (s.tickFresh).steps = s.steps := rfl
@[simp] theorem tickFresh_outbox : (s.tickFresh).outbox = s.outbox := rfl
@[simp] theorem tickFresh_pln : (s.tickFresh).pln = s.pln := rfl
@[simp] theorem tickFresh_launched : (s.tickFresh).launched = s.launched := rfl
@[simp] theorem tickFresh_hostHeld : (s.tickFresh).hostHeld = s.hostHeld := rfl
@[simp] theorem tickFresh_dsets : (s.tickFresh).dsets = s.dsets := rfl
@[simp] theorem tickFresh_hostErr : (s.tickFresh).hostErr = s.hostErr := rfl
@[simp] theorem tickFresh_rtSeen : (s.tickFresh).rtSeen = s.rtSeen := rfl
@[simp] theorem tickFresh_hts : (s.tickFresh).hts = s.hts := rfl
@[simp] theorem tickFresh_qlast : (s.tickFresh).qlast = s.qlast := rfl
@[simp] theorem tickFresh_dones : (s.tickFresh).dones = s.dones := rfl
@[simp] theorem tickFresh_doneTs : (s.tickFresh).doneTs = s.doneTs := rfl
@[simp] theorem wrByte_agenda (a : Nat) (b : Byte) : (wrByte s a b).agenda = s.agenda := rfl
@[simp] theorem wrByte_deferred (a : Nat) (b : Byte) : (wrByte s a b).deferred = s.deferred := rfl
@[simp] theorem wrByte_now (a : Nat) (b : Byte) : (wrByte s a b).now = s.now := rfl
@[simp] theorem wrByte_fresh (a : Nat) (b : Byte) : (wrByte s a b).fresh = s.fresh := rfl
@[simp] theorem wrByte_cur (a : Nat) (b : Byte) : (wrByte s a b).cur = s.cur := rfl
@[simp] theorem wrByte_dsel (a : Nat) (b : Byte) : (wrByte s a b).dsel = s.dsel := rfl
@[simp] theorem wrByte_unit (a : Nat) (b : Byte) : (wrByte s a b).unit = s.unit := rfl
@[simp] theorem wrByte_item (a : Nat) (b : Byte) : (wrByte s a b).item = s.item := rfl
@[simp] theorem wrByte_turn (a : Nat) (b : Byte) : (wrByte s a b).turn = s.turn := rfl
@[simp] theorem wrByte_uids (a : Nat) (b : Byte) : (wrByte s a b).uids = s.uids := rfl
@[simp] theorem wrByte_cores (a : Nat) (b : Byte) : (wrByte s a b).cores = s.cores := rfl
@[simp] theorem wrByte_dies (a : Nat) (b : Byte) : (wrByte s a b).dies = s.dies := rfl
@[simp] theorem wrByte_tags (a : Nat) (b : Byte) : (wrByte s a b).tags = s.tags := rfl
@[simp] theorem wrByte_lines (a : Nat) (b : Byte) : (wrByte s a b).lines = s.lines := rfl
@[simp] theorem wrByte_poison (a : Nat) (b : Byte) : (wrByte s a b).poison = s.poison := rfl
@[simp] theorem wrByte_crc (a : Nat) (b : Byte) : (wrByte s a b).crc = s.crc := rfl
@[simp] theorem wrByte_edges (a : Nat) (b : Byte) : (wrByte s a b).edges = s.edges := rfl
@[simp] theorem wrByte_edgeRst (a : Nat) (b : Byte) : (wrByte s a b).edgeRst = s.edgeRst := rfl
@[simp] theorem wrByte_engines (a : Nat) (b : Byte) : (wrByte s a b).engines = s.engines := rfl
@[simp] theorem wrByte_engTlb (a : Nat) (b : Byte) : (wrByte s a b).engTlb = s.engTlb := rfl
@[simp] theorem wrByte_pchans (a : Nat) (b : Byte) : (wrByte s a b).pchans = s.pchans := rfl
@[simp] theorem wrByte_buses (a : Nat) (b : Byte) : (wrByte s a b).buses = s.buses := rfl
@[simp] theorem wrByte_invs (a : Nat) (b : Byte) : (wrByte s a b).invs = s.invs := rfl
@[simp] theorem wrByte_homeTab (a : Nat) (b : Byte) : (wrByte s a b).homeTab = s.homeTab := rfl
@[simp] theorem wrByte_grids (a : Nat) (b : Byte) : (wrByte s a b).grids = s.grids := rfl
@[simp] theorem wrByte_saved (a : Nat) (b : Byte) : (wrByte s a b).saved = s.saved := rfl
@[simp] theorem wrByte_ticks (a : Nat) (b : Byte) : (wrByte s a b).ticks = s.ticks := rfl
@[simp] theorem wrByte_gv (a : Nat) (b : Byte) : (wrByte s a b).gv = s.gv := rfl
@[simp] theorem wrByte_steps (a : Nat) (b : Byte) : (wrByte s a b).steps = s.steps := rfl
@[simp] theorem wrByte_outbox (a : Nat) (b : Byte) : (wrByte s a b).outbox = s.outbox := rfl
@[simp] theorem wrByte_pln (a : Nat) (b : Byte) : (wrByte s a b).pln = s.pln := rfl
@[simp] theorem wrByte_launched (a : Nat) (b : Byte) : (wrByte s a b).launched = s.launched := rfl
@[simp] theorem wrByte_hostHeld (a : Nat) (b : Byte) : (wrByte s a b).hostHeld = s.hostHeld := rfl
@[simp] theorem wrByte_dsets (a : Nat) (b : Byte) : (wrByte s a b).dsets = s.dsets := rfl
@[simp] theorem wrByte_hostErr (a : Nat) (b : Byte) : (wrByte s a b).hostErr = s.hostErr := rfl
@[simp] theorem wrByte_rtSeen (a : Nat) (b : Byte) : (wrByte s a b).rtSeen = s.rtSeen := rfl
@[simp] theorem wrByte_hts (a : Nat) (b : Byte) : (wrByte s a b).hts = s.hts := rfl
@[simp] theorem wrByte_qlast (a : Nat) (b : Byte) : (wrByte s a b).qlast = s.qlast := rfl
@[simp] theorem wrByte_dones (a : Nat) (b : Byte) : (wrByte s a b).dones = s.dones := rfl
@[simp] theorem wrByte_doneTs (a : Nat) (b : Byte) : (wrByte s a b).doneTs = s.doneTs := rfl
@[simp] theorem wrTag_agenda (a : Nat) (b : Bool) : (wrTag s a b).agenda = s.agenda := rfl
@[simp] theorem wrTag_deferred (a : Nat) (b : Bool) : (wrTag s a b).deferred = s.deferred := rfl
@[simp] theorem wrTag_now (a : Nat) (b : Bool) : (wrTag s a b).now = s.now := rfl
@[simp] theorem wrTag_fresh (a : Nat) (b : Bool) : (wrTag s a b).fresh = s.fresh := rfl
@[simp] theorem wrTag_cur (a : Nat) (b : Bool) : (wrTag s a b).cur = s.cur := rfl
@[simp] theorem wrTag_dsel (a : Nat) (b : Bool) : (wrTag s a b).dsel = s.dsel := rfl
@[simp] theorem wrTag_unit (a : Nat) (b : Bool) : (wrTag s a b).unit = s.unit := rfl
@[simp] theorem wrTag_item (a : Nat) (b : Bool) : (wrTag s a b).item = s.item := rfl
@[simp] theorem wrTag_turn (a : Nat) (b : Bool) : (wrTag s a b).turn = s.turn := rfl
@[simp] theorem wrTag_uids (a : Nat) (b : Bool) : (wrTag s a b).uids = s.uids := rfl
@[simp] theorem wrTag_cores (a : Nat) (b : Bool) : (wrTag s a b).cores = s.cores := rfl
@[simp] theorem wrTag_dies (a : Nat) (b : Bool) : (wrTag s a b).dies = s.dies := rfl
@[simp] theorem wrTag_mem (a : Nat) (b : Bool) : (wrTag s a b).mem = s.mem := rfl
@[simp] theorem wrTag_lines (a : Nat) (b : Bool) : (wrTag s a b).lines = s.lines := rfl
@[simp] theorem wrTag_poison (a : Nat) (b : Bool) : (wrTag s a b).poison = s.poison := rfl
@[simp] theorem wrTag_crc (a : Nat) (b : Bool) : (wrTag s a b).crc = s.crc := rfl
@[simp] theorem wrTag_edges (a : Nat) (b : Bool) : (wrTag s a b).edges = s.edges := rfl
@[simp] theorem wrTag_edgeRst (a : Nat) (b : Bool) : (wrTag s a b).edgeRst = s.edgeRst := rfl
@[simp] theorem wrTag_engines (a : Nat) (b : Bool) : (wrTag s a b).engines = s.engines := rfl
@[simp] theorem wrTag_engTlb (a : Nat) (b : Bool) : (wrTag s a b).engTlb = s.engTlb := rfl
@[simp] theorem wrTag_pchans (a : Nat) (b : Bool) : (wrTag s a b).pchans = s.pchans := rfl
@[simp] theorem wrTag_buses (a : Nat) (b : Bool) : (wrTag s a b).buses = s.buses := rfl
@[simp] theorem wrTag_invs (a : Nat) (b : Bool) : (wrTag s a b).invs = s.invs := rfl
@[simp] theorem wrTag_homeTab (a : Nat) (b : Bool) : (wrTag s a b).homeTab = s.homeTab := rfl
@[simp] theorem wrTag_grids (a : Nat) (b : Bool) : (wrTag s a b).grids = s.grids := rfl
@[simp] theorem wrTag_saved (a : Nat) (b : Bool) : (wrTag s a b).saved = s.saved := rfl
@[simp] theorem wrTag_ticks (a : Nat) (b : Bool) : (wrTag s a b).ticks = s.ticks := rfl
@[simp] theorem wrTag_gv (a : Nat) (b : Bool) : (wrTag s a b).gv = s.gv := rfl
@[simp] theorem wrTag_steps (a : Nat) (b : Bool) : (wrTag s a b).steps = s.steps := rfl
@[simp] theorem wrTag_outbox (a : Nat) (b : Bool) : (wrTag s a b).outbox = s.outbox := rfl
@[simp] theorem wrTag_pln (a : Nat) (b : Bool) : (wrTag s a b).pln = s.pln := rfl
@[simp] theorem wrTag_launched (a : Nat) (b : Bool) : (wrTag s a b).launched = s.launched := rfl
@[simp] theorem wrTag_hostHeld (a : Nat) (b : Bool) : (wrTag s a b).hostHeld = s.hostHeld := rfl
@[simp] theorem wrTag_dsets (a : Nat) (b : Bool) : (wrTag s a b).dsets = s.dsets := rfl
@[simp] theorem wrTag_hostErr (a : Nat) (b : Bool) : (wrTag s a b).hostErr = s.hostErr := rfl
@[simp] theorem wrTag_rtSeen (a : Nat) (b : Bool) : (wrTag s a b).rtSeen = s.rtSeen := rfl
@[simp] theorem wrTag_hts (a : Nat) (b : Bool) : (wrTag s a b).hts = s.hts := rfl
@[simp] theorem wrTag_qlast (a : Nat) (b : Bool) : (wrTag s a b).qlast = s.qlast := rfl
@[simp] theorem wrTag_dones (a : Nat) (b : Bool) : (wrTag s a b).dones = s.dones := rfl
@[simp] theorem wrTag_doneTs (a : Nat) (b : Bool) : (wrTag s a b).doneTs = s.doneTs := rfl

@[simp] theorem setCore_die (c : CoreId) (k : Core) (z : DieId) : (s.setCore c k).die z = s.die z := rfl
@[simp] theorem setCore_engine (c : CoreId) (k : Core) (z : EngineId) : (s.setCore c k).engine z = s.engine z := rfl
@[simp] theorem modDie_k (d : DieId) (f : Die → Die) : (s.modDie d f).k = s.k := rfl
@[simp] theorem modDie_core (d : DieId) (f : Die → Die) (z : CoreId) : (s.modDie d f).core z = s.core z := rfl
@[simp] theorem modDie_engine (d : DieId) (f : Die → Die) (z : EngineId) : (s.modDie d f).engine z = s.engine z := rfl
@[simp] theorem modEngine_k (e : EngineId) (f : List CopyOp → List CopyOp) : (s.modEngine e f).k = s.k := rfl
@[simp] theorem modEngine_core (e : EngineId) (f : List CopyOp → List CopyOp) (z : CoreId) : (s.modEngine e f).core z = s.core z := rfl
@[simp] theorem modEngine_die (e : EngineId) (f : List CopyOp → List CopyOp) (z : DieId) : (s.modEngine e f).die z = s.die z := rfl
@[simp] theorem post_k (a : Act) : (s.post a).k = s.k := rfl
@[simp] theorem post_core (a : Act) (z : CoreId) : (s.post a).core z = s.core z := rfl
@[simp] theorem post_die (a : Act) (z : DieId) : (s.post a).die z = s.die z := rfl
@[simp] theorem post_engine (a : Act) (z : EngineId) : (s.post a).engine z = s.engine z := rfl
@[simp] theorem deferDie_k (d : DieId) (i : Instr) (u n : Nat) : (s.deferDie d i u n).k = s.k := rfl
@[simp] theorem deferDie_core (d : DieId) (i : Instr) (u n : Nat) (z : CoreId) : (s.deferDie d i u n).core z = s.core z := rfl
@[simp] theorem deferDie_die (d : DieId) (i : Instr) (u n : Nat) (z : DieId) : (s.deferDie d i u n).die z = s.die z := rfl
@[simp] theorem deferDie_engine (d : DieId) (i : Instr) (u n : Nat) (z : EngineId) : (s.deferDie d i u n).engine z = s.engine z := rfl
@[simp] theorem onCore_core (c : CoreId) (z : CoreId) : (s.onCore c).core z = s.core z := rfl
@[simp] theorem onCore_die (c : CoreId) (z : DieId) : (s.onCore c).die z = s.die z := rfl
@[simp] theorem onCore_engine (c : CoreId) (z : EngineId) : (s.onCore c).engine z = s.engine z := rfl
@[simp] theorem emit_k (o : Out) : (s.emit o).k = s.k := rfl
@[simp] theorem emit_core (o : Out) (z : CoreId) : (s.emit o).core z = s.core z := rfl
@[simp] theorem emit_die (o : Out) (z : DieId) : (s.emit o).die z = s.die z := rfl
@[simp] theorem emit_engine (o : Out) (z : EngineId) : (s.emit o).engine z = s.engine z := rfl
@[simp] theorem tickFresh_k : (s.tickFresh).k = s.k := rfl
@[simp] theorem tickFresh_core (z : CoreId) : (s.tickFresh).core z = s.core z := rfl
@[simp] theorem tickFresh_die (z : DieId) : (s.tickFresh).die z = s.die z := rfl
@[simp] theorem tickFresh_engine (z : EngineId) : (s.tickFresh).engine z = s.engine z := rfl
@[simp] theorem wrByte_k (a : Nat) (b : Byte) : (wrByte s a b).k = s.k := rfl
@[simp] theorem wrByte_core (a : Nat) (b : Byte) (z : CoreId) : (wrByte s a b).core z = s.core z := rfl
@[simp] theorem wrByte_die (a : Nat) (b : Byte) (z : DieId) : (wrByte s a b).die z = s.die z := rfl
@[simp] theorem wrByte_engine (a : Nat) (b : Byte) (z : EngineId) : (wrByte s a b).engine z = s.engine z := rfl
@[simp] theorem wrTag_k (a : Nat) (b : Bool) : (wrTag s a b).k = s.k := rfl
@[simp] theorem wrTag_core (a : Nat) (b : Bool) (z : CoreId) : (wrTag s a b).core z = s.core z := rfl
@[simp] theorem wrTag_die (a : Nat) (b : Bool) (z : DieId) : (wrTag s a b).die z = s.die z := rfl
@[simp] theorem wrTag_engine (a : Nat) (b : Bool) (z : EngineId) : (wrTag s a b).engine z = s.engine z := rfl

/-! ## The die caches' bookkeeping: what a home may change when it keeps a line (05 R124) -/

/-- A request that reaches a controller changes pseudo-channels alone. -/
theorem hbmAccess_eq (line : Nat) (w : Bool) : ∃ p, hbmAccess s line w = { s with pchans := p } := by
  unfold hbmAccess
  split
  · split
    · exact ⟨_, rfl⟩
    · exact ⟨_, rfl⟩
  · exact ⟨_, rfl⟩
/-- A line that leaves a die cache changes lines, sets, evicted timestamps and pseudo-channels alone. -/
theorem evictLine_eq (line : Nat) :
    ∃ l ds di p, evictLine s line = { s with lines := l, dsets := ds, dies := di, pchans := p } := by
  unfold evictLine
  split
  · exact ⟨_, _, _, _, rfl⟩
  · dsimp only
    split
    · obtain ⟨p, h⟩ := hbmAccess_eq (s.modDie (homeDie s 0 (line * 128)) fun x =>
        { x with evts := x.evts.set (bankOf line) (max (x.evts.get (bankOf line)) (max (‹LineSt›).wts (‹LineSt›).rts)) }) line true
      rw [h]
      exact ⟨_, _, _, _, rfl⟩
    · exact ⟨_, _, _, _, rfl⟩
theorem evictWay_eq (x : DSet) (w : Nat) :
    ∃ l ds di p, evictWay s x w = { s with lines := l, dsets := ds, dies := di, pchans := p } := by
  unfold evictWay
  split
  · exact evictLine_eq s _
  · exact ⟨_, _, _, _, rfl⟩
/-- So does taking a way for a line. -/
theorem dsetPlace_eq (line : Nat) (w : Bool) :
    ∃ l ds di p, dsetPlace s line w = { s with lines := l, dsets := ds, dies := di, pchans := p } := by
  unfold dsetPlace
  obtain ⟨p, h⟩ := hbmAccess_eq s line false
  dsimp only
  split
  · exact ⟨_, _, _, _, rfl⟩
  · rw [h]
    split
    · exact ⟨_, _, _, _, rfl⟩
    · obtain ⟨l, ds, di, p', h'⟩ := evictWay_eq { s with pchans := p } (Sparse.get DSet.empty s.dsets (dsetKey s line))
        (plruVictim (Sparse.get DSet.empty s.dsets (dsetKey s line)).tree fun w => decide (w < 12))
      rw [h']
      exact ⟨_, _, _, _, rfl⟩
@[simp] theorem dsetPlace_mem (l : Nat) (w : Bool) : (dsetPlace s l w).mem = s.mem := by
  obtain ⟨_, _, _, _, h⟩ := dsetPlace_eq s l w
  rw [h]
/-- And keeping a line's timestamps and owner. -/
theorem setLineSt_eq (l : Nat) (x : LineSt) :
    ∃ a ds di p, setLineSt s l x = { s with lines := a, dsets := ds, dies := di, pchans := p } := by
  obtain ⟨a, ds, di, p, h⟩ := dsetPlace_eq s l ((lineSt s l).wts != x.wts)
  unfold setLineSt
  dsimp only
  rw [h]
  exact ⟨_, _, _, _, rfl⟩

/-- And a line's coming in. -/
theorem refill_eq (line : Nat) :
    ∃ a ds di p, refill s line = { s with lines := a, dsets := ds, dies := di, pchans := p } := by
  unfold refill
  dsimp only
  split
  · exact ⟨_, _, _, _, rfl⟩
  · obtain ⟨a, ds, di, p, h⟩ := dsetPlace_eq s line false
    rw [h]
    exact ⟨_, _, _, _, rfl⟩
@[simp] theorem refill_mem (l : Nat) : (refill s l).mem = s.mem := by
  obtain ⟨_, _, _, _, h⟩ := refill_eq s l
  rw [h]
@[simp] theorem setLineSt_agenda (l : Nat) (x : LineSt) : (setLineSt s l x).agenda = s.agenda := by
  obtain ⟨_, _, _, _, h⟩ := setLineSt_eq s l x
  rw [h]
@[simp] theorem setLineSt_deferred (l : Nat) (x : LineSt) : (setLineSt s l x).deferred = s.deferred := by
  obtain ⟨_, _, _, _, h⟩ := setLineSt_eq s l x
  rw [h]
@[simp] theorem setLineSt_now (l : Nat) (x : LineSt) : (setLineSt s l x).now = s.now := by
  obtain ⟨_, _, _, _, h⟩ := setLineSt_eq s l x
  rw [h]
@[simp] theorem setLineSt_fresh (l : Nat) (x : LineSt) : (setLineSt s l x).fresh = s.fresh := by
  obtain ⟨_, _, _, _, h⟩ := setLineSt_eq s l x
  rw [h]
@[simp] theorem setLineSt_cur (l : Nat) (x : LineSt) : (setLineSt s l x).cur = s.cur := by
  obtain ⟨_, _, _, _, h⟩ := setLineSt_eq s l x
  rw [h]
@[simp] theorem setLineSt_dsel (l : Nat) (x : LineSt) : (setLineSt s l x).dsel = s.dsel := by
  obtain ⟨_, _, _, _, h⟩ := setLineSt_eq s l x
  rw [h]
@[simp] theorem setLineSt_unit (l : Nat) (x : LineSt) : (setLineSt s l x).unit = s.unit := by
  obtain ⟨_, _, _, _, h⟩ := setLineSt_eq s l x
  rw [h]
@[simp] theorem setLineSt_item (l : Nat) (x : LineSt) : (setLineSt s l x).item = s.item := by
  obtain ⟨_, _, _, _, h⟩ := setLineSt_eq s l x
  rw [h]
@[simp] theorem setLineSt_turn (l : Nat) (x : LineSt) : (setLineSt s l x).turn = s.turn := by
  obtain ⟨_, _, _, _, h⟩ := setLineSt_eq s l x
  rw [h]
@[simp] theorem setLineSt_uids (l : Nat) (x : LineSt) : (setLineSt s l x).uids = s.uids := by
  obtain ⟨_, _, _, _, h⟩ := setLineSt_eq s l x
  rw [h]
@[simp] theorem setLineSt_cores (l : Nat) (x : LineSt) : (setLineSt s l x).cores = s.cores := by
  obtain ⟨_, _, _, _, h⟩ := setLineSt_eq s l x
  rw [h]
@[simp] theorem setLineSt_mem (l : Nat) (x : LineSt) : (setLineSt s l x).mem = s.mem := by
  obtain ⟨_, _, _, _, h⟩ := setLineSt_eq s l x
  rw [h]
@[simp] theorem setLineSt_tags (l : Nat) (x : LineSt) : (setLineSt s l x).tags = s.tags := by
  obtain ⟨_, _, _, _, h⟩ := setLineSt_eq s l x
  rw [h]
@[simp] theorem setLineSt_poison (l : Nat) (x : LineSt) : (setLineSt s l x).poison = s.poison := by
  obtain ⟨_, _, _, _, h⟩ := setLineSt_eq s l x
  rw [h]
@[simp] theorem setLineSt_crc (l : Nat) (x : LineSt) : (setLineSt s l x).crc = s.crc := by
  obtain ⟨_, _, _, _, h⟩ := setLineSt_eq s l x
  rw [h]
@[simp] theorem setLineSt_edges (l : Nat) (x : LineSt) : (setLineSt s l x).edges = s.edges := by
  obtain ⟨_, _, _, _, h⟩ := setLineSt_eq s l x
  rw [h]
@[simp] theorem setLineSt_edgeRst (l : Nat) (x : LineSt) : (setLineSt s l x).edgeRst = s.edgeRst := by
  obtain ⟨_, _, _, _, h⟩ := setLineSt_eq s l x
  rw [h]
@[simp] theorem setLineSt_engines (l : Nat) (x : LineSt) : (setLineSt s l x).engines = s.engines := by
  obtain ⟨_, _, _, _, h⟩ := setLineSt_eq s l x
  rw [h]
@[simp] theorem setLineSt_engTlb (l : Nat) (x : LineSt) : (setLineSt s l x).engTlb = s.engTlb := by
  obtain ⟨_, _, _, _, h⟩ := setLineSt_eq s l x
  rw [h]
@[simp] theorem setLineSt_buses (l : Nat) (x : LineSt) : (setLineSt s l x).buses = s.buses := by
  obtain ⟨_, _, _, _, h⟩ := setLineSt_eq s l x
  rw [h]
@[simp] theorem setLineSt_invs (l : Nat) (x : LineSt) : (setLineSt s l x).invs = s.invs := by
  obtain ⟨_, _, _, _, h⟩ := setLineSt_eq s l x
  rw [h]
@[simp] theorem setLineSt_homeTab (l : Nat) (x : LineSt) : (setLineSt s l x).homeTab = s.homeTab := by
  obtain ⟨_, _, _, _, h⟩ := setLineSt_eq s l x
  rw [h]
@[simp] theorem setLineSt_grids (l : Nat) (x : LineSt) : (setLineSt s l x).grids = s.grids := by
  obtain ⟨_, _, _, _, h⟩ := setLineSt_eq s l x
  rw [h]
@[simp] theorem setLineSt_saved (l : Nat) (x : LineSt) : (setLineSt s l x).saved = s.saved := by
  obtain ⟨_, _, _, _, h⟩ := setLineSt_eq s l x
  rw [h]
@[simp] theorem setLineSt_ticks (l : Nat) (x : LineSt) : (setLineSt s l x).ticks = s.ticks := by
  obtain ⟨_, _, _, _, h⟩ := setLineSt_eq s l x
  rw [h]
@[simp] theorem setLineSt_gv (l : Nat) (x : LineSt) : (setLineSt s l x).gv = s.gv := by
  obtain ⟨_, _, _, _, h⟩ := setLineSt_eq s l x
  rw [h]
@[simp] theorem setLineSt_steps (l : Nat) (x : LineSt) : (setLineSt s l x).steps = s.steps := by
  obtain ⟨_, _, _, _, h⟩ := setLineSt_eq s l x
  rw [h]
@[simp] theorem setLineSt_outbox (l : Nat) (x : LineSt) : (setLineSt s l x).outbox = s.outbox := by
  obtain ⟨_, _, _, _, h⟩ := setLineSt_eq s l x
  rw [h]
@[simp] theorem setLineSt_pln (l : Nat) (x : LineSt) : (setLineSt s l x).pln = s.pln := by
  obtain ⟨_, _, _, _, h⟩ := setLineSt_eq s l x
  rw [h]
@[simp] theorem setLineSt_launched (l : Nat) (x : LineSt) : (setLineSt s l x).launched = s.launched := by
  obtain ⟨_, _, _, _, h⟩ := setLineSt_eq s l x
  rw [h]
@[simp] theorem setLineSt_hostHeld (l : Nat) (x : LineSt) : (setLineSt s l x).hostHeld = s.hostHeld := by
  obtain ⟨_, _, _, _, h⟩ := setLineSt_eq s l x
  rw [h]
@[simp] theorem setLineSt_hostErr (l : Nat) (x : LineSt) : (setLineSt s l x).hostErr = s.hostErr := by
  obtain ⟨_, _, _, _, h⟩ := setLineSt_eq s l x
  rw [h]
@[simp] theorem setLineSt_rtSeen (l : Nat) (x : LineSt) : (setLineSt s l x).rtSeen = s.rtSeen := by
  obtain ⟨_, _, _, _, h⟩ := setLineSt_eq s l x
  rw [h]
@[simp] theorem setLineSt_hts (l : Nat) (x : LineSt) : (setLineSt s l x).hts = s.hts := by
  obtain ⟨_, _, _, _, h⟩ := setLineSt_eq s l x
  rw [h]
@[simp] theorem setLineSt_qlast (l : Nat) (x : LineSt) : (setLineSt s l x).qlast = s.qlast := by
  obtain ⟨_, _, _, _, h⟩ := setLineSt_eq s l x
  rw [h]
@[simp] theorem setLineSt_dones (l : Nat) (x : LineSt) : (setLineSt s l x).dones = s.dones := by
  obtain ⟨_, _, _, _, h⟩ := setLineSt_eq s l x
  rw [h]
@[simp] theorem setLineSt_doneTs (l : Nat) (x : LineSt) : (setLineSt s l x).doneTs = s.doneTs := by
  obtain ⟨_, _, _, _, h⟩ := setLineSt_eq s l x
  rw [h]
@[simp] theorem setLineSt_core (l : Nat) (x : LineSt) (z : CoreId) : (setLineSt s l x).core z = s.core z := by
  obtain ⟨_, _, _, _, h⟩ := setLineSt_eq s l x
  rw [h]
  rfl
@[simp] theorem setLineSt_k (l : Nat) (x : LineSt) : (setLineSt s l x).k = s.k := by
  obtain ⟨_, _, _, _, h⟩ := setLineSt_eq s l x
  rw [h]
  rfl
@[simp] theorem setLineSt_engine (l : Nat) (x : LineSt) (z : EngineId) : (setLineSt s l x).engine z = s.engine z := by
  obtain ⟨_, _, _, _, h⟩ := setLineSt_eq s l x
  rw [h]
  rfl

end Sys2Proof.Machine
end

