-- ==== Sys2Proof/Laws/Memory.lean ====
section
/-!
SUPPORT. The sparse maps keep their canonical form and read back what was written; so does memory under every operation
that writes it.
-/

namespace Sys2Proof

namespace Sparse

variable {α : Type} [DecidableEq α]

theorem wfFrom_mono (d : α) (m : Sparse α) (lo lo' : Option Nat)
    (h : ∀ k, above lo k = true → above lo' k = true)
    (w : wfFrom d lo m = true) : wfFrom d lo' m = true := by
  cases m with
  | nil => rfl
  | cons a m =>
    obtain ⟨k, v⟩ := a
    simp only [wfFrom, Bool.and_eq_true] at w ⊢
    exact ⟨⟨h k w.1.1, w.1.2⟩, w.2⟩

theorem wfFrom_set (d : α) (m : Sparse α) (i : Nat) (x : α) : ∀ lo : Option Nat,
    wfFrom d lo m = true → above lo i = true → wfFrom d lo (set d m i x) = true := by
  induction m with
  | nil => intro lo _ h; by_cases hx : x = d <;> simp [set, wfFrom, hx, h]
  | cons a m ih =>
    obtain ⟨k, v⟩ := a
    intro lo w h
    have w' := w
    simp only [wfFrom, Bool.and_eq_true] at w
    simp only [set]
    split
    · next hlt =>
      split
      · exact w'
      · next hx =>
        simp only [wfFrom, Bool.and_eq_true]
        exact ⟨⟨h, by simp [hx]⟩, ⟨by simp [above, hlt], w.1.2⟩, w.2⟩
    · next hge =>
      split
      · next he =>
        split
        · refine wfFrom_mono d m (some k) lo ?_ w.2
          intro j hj
          cases lo with
          | none => rfl
          | some b => simp [above] at hj h ⊢; omega
        · next hx =>
          simp only [wfFrom, Bool.and_eq_true]
          subst he
          exact ⟨⟨h, by simp [hx]⟩, w.2⟩
      · next hne =>
        simp only [wfFrom, Bool.and_eq_true]
        exact ⟨w.1, ih (some k) w.2 (by simp [above]; omega)⟩

/-- Writing a key keeps the canonical form. -/
theorem wf_set (d : α) (m : Sparse α) (i : Nat) (x : α) (h : wf d m = true) : wf d (set d m i x) = true :=
  wfFrom_set d m i x none h rfl

theorem get_of_lt (d : α) (m : Sparse α) (i b : Nat) (w : wfFrom d (some b) m = true) (h : i ≤ b) : get d m i = d := by
  induction m generalizing b with
  | nil => rfl
  | cons a m ih =>
    obtain ⟨k, v⟩ := a
    simp only [wfFrom, above, Bool.and_eq_true, decide_eq_true_eq] at w
    have : i ≠ k := by omega
    simp only [get, this, if_false]
    exact ih k w.2 (by omega)

/-- A key just written reads what was written. -/
theorem get_set_eq (d : α) (m : Sparse α) (i : Nat) (x : α) : ∀ lo : Option Nat,
    wfFrom d lo m = true → get d (set d m i x) i = x := by
  induction m with
  | nil => intro lo _; by_cases hx : x = d <;> simp [set, get, hx]
  | cons a m ih =>
    obtain ⟨k, v⟩ := a
    intro lo w
    have w' := w
    simp only [wfFrom, Bool.and_eq_true] at w
    simp only [set]
    split
    · next hlt =>
      split
      · next hx =>
        have hne : i ≠ k := by omega
        simp only [get, hne, if_false]
        rw [get_of_lt d m i k w.2 (by omega), hx]
      · simp [get]
    · split
      · next he =>
        split
        · next hx => subst he; rw [get_of_lt d m i i w.2 (by omega), hx]
        · simp [get]
      · next hge hne =>
        simp only [get, hne, if_false]
        exact ih _ w.2

/-- A key not written reads what it did. -/
theorem get_set_ne (d : α) (m : Sparse α) (i j : Nat) (x : α) (hj : j ≠ i) : ∀ lo : Option Nat,
    wfFrom d lo m = true → get d (set d m i x) j = get d m j := by
  induction m with
  | nil => intro lo _; by_cases hx : x = d <;> simp [set, get, hx, hj]
  | cons a m ih =>
    obtain ⟨k, v⟩ := a
    intro lo w
    simp only [wfFrom, Bool.and_eq_true] at w
    simp only [set]
    split
    · split
      · rfl
      · simp [get, hj]
    · split
      · next he =>
        split
        · have : j ≠ k := by omega
          simp [get, this]
        · simp [get, hj, ← he]
      · by_cases hk : j = k
        · simp [get, hk]
        · simp only [get, hk, if_false]; exact ih _ w.2

end Sparse

namespace Machine

theorem Memory.wf_nil : Memory.wf [] = true := rfl

/-- Writing a byte keeps memory canonical. -/
theorem wrByte_wf (s : State) (a : Nat) (b : Byte) (h : Memory.wf s.mem = true) : Memory.wf (wrByte s a b).mem = true :=
  Sparse.wf_set 0 s.mem a b h
theorem rdByte_wrByte_self (s : State) (a : Nat) (b : Byte) (h : Memory.wf s.mem = true) : rdByte (wrByte s a b) a = b :=
  Sparse.get_set_eq 0 s.mem a b none h
theorem rdByte_wrByte_ne (s : State) (a c : Nat) (b : Byte) (h : Memory.wf s.mem = true) (n : c ≠ a) :
    rdByte (wrByte s a b) c = rdByte s c :=
  Sparse.get_set_ne 0 s.mem a c b n none h
theorem wrBytes_wf (bs : List Byte) : ∀ (s : State) (a : Nat), Memory.wf s.mem = true → Memory.wf (wrBytes s a bs).mem = true := by
  induction bs with
  | nil => intro s a h; exact h
  | cons b t ih => intro s a h; exact ih _ _ (wrByte_wf s a b h)
/-- A byte outside those written reads what it did. -/
theorem rdByte_wrBytes_ne (bs : List Byte) : ∀ (s : State) (a c : Nat), Memory.wf s.mem = true →
    (c < a ∨ a + bs.length ≤ c) → rdByte (wrBytes s a bs) c = rdByte s c := by
  induction bs with
  | nil => intro s a c _ _; rfl
  | cons b t ih =>
    intro s a c h hc
    simp only [List.length_cons] at hc
    rw [show wrBytes s a (b :: t) = wrBytes (wrByte s a b) (a + 1) t from rfl,
      ih _ _ _ (wrByte_wf s a b h) (by omega), rdByte_wrByte_ne s a c b h (by omega)]
/-- A byte among those written reads its byte. -/
theorem rdByte_wrBytes (bs : List Byte) : ∀ (s : State) (a i : Nat) (hi : i < bs.length), Memory.wf s.mem = true →
    rdByte (wrBytes s a bs) (a + i) = bs[i] := by
  induction bs with
  | nil => intro s a i hi; simp at hi
  | cons b t ih =>
    intro s a i hi h
    rw [show wrBytes s a (b :: t) = wrBytes (wrByte s a b) (a + 1) t from rfl]
    cases i with
    | zero =>
      rw [rdByte_wrBytes_ne t _ _ _ (wrByte_wf s a b h) (Or.inl (by omega)), Nat.add_zero, rdByte_wrByte_self s a b h]
      rfl
    | succ i =>
      rw [show a + (i + 1) = a + 1 + i by omega, ih _ _ i (by simpa using hi) (wrByte_wf s a b h)]
      rfl

theorem foldl_mem {β : Type} (f : State → β → State) (hf : ∀ s b, (f s b).mem = s.mem) (l : List β) (s : State) :
    (l.foldl f s).mem = s.mem := by
  induction l generalizing s with
  | nil => rfl
  | cons b l ih => rw [List.foldl_cons, ih, hf]
@[simp] theorem clearTags_mem (s : State) (a n : Nat) : (clearTags s a n).mem = s.mem := by
  unfold clearTags
  split
  · rfl
  · rw [foldl_mem]; intros; rfl
@[simp] theorem putLine_mem (s : State) (l : Nat) (d : Line) (t : BitVec 8) :
    (putLine s l d t).mem = (wrBytes s (l * 128) (bitsBytes 128 d)).mem := by
  have key : ∀ (is : List Nat) (r : State),
      (is.foldl (fun r i => wrTag r (l * 128 + 16 * i) (t.getLsbD i)) r).mem = r.mem := 
    fun is r => foldl_mem (fun r i => wrTag r (l * 128 + 16 * i) (t.getLsbD i)) (fun _ _ => rfl) is r
  exact key _ _
theorem putLine_wf (s : State) (l : Nat) (d : Line) (t : BitVec 8) (h : Memory.wf s.mem = true) :
    Memory.wf (putLine s l d t).mem = true := by
  rw [putLine_mem]; exact wrBytes_wf _ _ _ h
/-- A recall brings a line back or leaves memory alone. -/
theorem recall_wf (s : State) (l : Nat) (h : Memory.wf s.mem = true) : Memory.wf (recallOwner s l).mem = true := by
  rw [← refill_mem s l] at h
  unfold recallOwner recallHere
  dsimp only
  split
  · rw [setLineSt_mem]; exact h
  · split
    · simp only [modCore_eq, setCore_mem, setLineSt_mem]
      split
      · exact putLine_wf _ _ _ _ h
      · exact h
    · rw [setLineSt_mem]; exact h
theorem pullLine_wf (s : State) (d : DieId) (n : Fin 64) (i : Nat) (h : Memory.wf s.mem = true) :
    Memory.wf (pullLine s d n i).mem = true := by
  unfold pullLine
  dsimp only
  rw [modPull, modDie_mem, setLineSt_mem, dsetPlace_mem]
  exact putLine_wf _ _ _ _ (recall_wf _ _ (recall_wf s _ h))

end Machine

end Sys2Proof
end

