-- ==== Sys2Proof/Laws/Home.lean ====
section
/-!
SUPPORT. What the operations at the homes and the page walks can do: of a core they change its L1 alone, memory keeps its
canonical form, and no action is placed.
-/

namespace Sys2Proof.Machine

/-- What an operation at the homes leaves: every core but for its L1 lines, the canonical form of memory, the actions placed,
the engines and the scheduler's tables. -/
structure HomeKeeps (s t : State) : Prop where
  core : ∀ c, ∃ l, t.core c = { s.core c with l1 := l }
  mem : Memory.wf s.mem = true → Memory.wf t.mem = true
  agenda : t.agenda = s.agenda
  cur : t.cur = s.cur
  fresh : t.fresh = s.fresh
  engines : t.engines = s.engines
  grids : t.grids = s.grids

theorem HomeKeeps.refl (s : State) : HomeKeeps s s := ⟨fun c => ⟨(s.core c).l1, rfl⟩, id, rfl, rfl, rfl, rfl, rfl⟩
theorem HomeKeeps.trans {s t u : State} (h : HomeKeeps s t) (h' : HomeKeeps t u) : HomeKeeps s u where
  core c := by
    obtain ⟨l, e⟩ := h.core c
    obtain ⟨l', e'⟩ := h'.core c
    exact ⟨l', by rw [e', e]⟩
  mem x := h'.mem (h.mem x)
  agenda := h'.agenda.trans h.agenda
  cur := h'.cur.trans h.cur
  fresh := h'.fresh.trans h.fresh
  engines := h'.engines.trans h.engines
  grids := h'.grids.trans h.grids

theorem HomeKeeps.modDie (s : State) (d : DieId) (f : Die → Die) : HomeKeeps s (s.modDie d f) :=
  ⟨fun c => ⟨(s.core c).l1, rfl⟩, id, rfl, rfl, rfl, rfl, rfl⟩
/-- What only changes a home's own books. -/
theorem HomeKeeps.books {s t : State} (h : ∃ l ds di p, t = { s with lines := l, dsets := ds, dies := di, pchans := p }) : HomeKeeps s t := by
  obtain ⟨_, _, _, _, rfl⟩ := h
  exact ⟨fun c => ⟨(s.core c).l1, rfl⟩, id, rfl, rfl, rfl, rfl, rfl⟩
theorem HomeKeeps.setLineSt (s : State) (l : Nat) (x : LineSt) : HomeKeeps s (setLineSt s l x) := .books (setLineSt_eq s l x)
theorem HomeKeeps.refill (s : State) (l : Nat) : HomeKeeps s (refill s l) := .books (refill_eq s l)
theorem HomeKeeps.dsetPlace (s : State) (l : Nat) (w : Bool) : HomeKeeps s (dsetPlace s l w) := .books (dsetPlace_eq s l w)
/-- The mark of a write's timestamp. -/
theorem HomeKeeps.hts (s : State) (n : Nat) : HomeKeeps s { s with hts := n } := ⟨fun c => ⟨(s.core c).l1, rfl⟩, id, rfl, rfl, rfl, rfl, rfl⟩
theorem HomeKeeps.wrTag (s : State) (a : Nat) (t : Bool) : HomeKeeps s (wrTag s a t) :=
  ⟨fun c => ⟨(s.core c).l1, rfl⟩, id, rfl, rfl, rfl, rfl, rfl⟩
theorem HomeKeeps.wrByte (s : State) (a : Nat) (b : Byte) : HomeKeeps s (wrByte s a b) :=
  ⟨fun c => ⟨(s.core c).l1, rfl⟩, wrByte_wf s a b, rfl, rfl, rfl, rfl, rfl⟩
theorem HomeKeeps.wrBytes (bs : List Byte) : ∀ (s : State) (a : Nat), HomeKeeps s (wrBytes s a bs) := by
  induction bs with
  | nil => intro s a; exact .refl s
  | cons b t ih => intro s a; exact (HomeKeeps.wrByte s a b).trans (ih _ _)
theorem HomeKeeps.foldl {β : Type} (f : State → β → State) (hf : ∀ s b, HomeKeeps s (f s b)) (l : List β) (s : State) :
    HomeKeeps s (l.foldl f s) := by
  induction l generalizing s with
  | nil => exact .refl s
  | cons b l ih => exact (hf s b).trans (ih _)
theorem HomeKeeps.clearTags (s : State) (a n : Nat) : HomeKeeps s (clearTags s a n) := by
  unfold Machine.clearTags
  split
  · exact .refl s
  · exact HomeKeeps.foldl _ (fun s i => HomeKeeps.wrTag s _ _) _ _
theorem HomeKeeps.putLine (s : State) (l : Nat) (d : Line) (t : BitVec 8) : HomeKeeps s (putLine s l d t) := by
  have key : ∀ (is : List Nat) (r : State), HomeKeeps r (is.foldl (fun r i => Machine.wrTag r (l * 128 + 16 * i) (t.getLsbD i)) r) :=
    fun is r => HomeKeeps.foldl _ (fun s i => HomeKeeps.wrTag s _ _) is r
  exact (HomeKeeps.wrBytes _ s _).trans (key _ _)
theorem HomeKeeps.dropL1 (s : State) (o : CoreId) (l : Nat) : HomeKeeps s (s.modCore o (dropL1 · l)) where
  core c := by
    rw [modCore_eq, core_setCore]
    split
    · next h => subst h; exact ⟨_, rfl⟩
    · exact ⟨(s.core c).l1, rfl⟩
  mem := id
  agenda := rfl
  cur := rfl
  fresh := rfl
  engines := rfl
  grids := rfl

/-- Every core's copy of a line goes. -/
theorem HomeKeeps.dropAll (s : State) (l : Nat) : HomeKeeps s { s with cores := s.cores.map (Machine.dropL1 · l) } where
  core c := by
    refine ⟨(s.core c).l1.filter fun x => x.line != l, ?_⟩
    show (s.cores.map (Machine.dropL1 · l))[c.val] = _
    rw [Vector.getElem_map]
    rfl
  mem := id
  agenda := rfl
  cur := rfl
  fresh := rfl
  engines := rfl
  grids := rfl

/-- A recall. -/
theorem recallHere_keeps (s : State) (l : Nat) : HomeKeeps s (recallHere s l) := by
  unfold recallHere
  dsimp only
  split
  · exact .setLineSt s l _
  · next o _ =>
    split
    · split
      · exact ((HomeKeeps.putLine s l _ _).trans (.setLineSt _ l _)).trans (.dropL1 _ o l)
      · exact (HomeKeeps.setLineSt s l _).trans (.dropL1 _ o l)
    · exact .setLineSt s l _
theorem recall_keeps (s : State) (l : Nat) : HomeKeeps s (recallOwner s l) := (HomeKeeps.refill s l).trans (recallHere_keeps _ l)
theorem pullLine_keeps (s : State) (d : DieId) (n : Fin 64) (i : Nat) : HomeKeeps s (pullLine s d n i) := by
  unfold pullLine
  dsimp only
  rw [modPull]
  exact (((((recall_keeps s _).trans (.dropAll _ _)).trans (recall_keeps _ _)).trans (.putLine _ _ _ _)).trans (.dsetPlace _ _ _)).trans
    ((HomeKeeps.setLineSt _ _ _).trans (.modDie _ d _))

/-- The state of an operation at a home, done or waiting or failed, is one the homes keep. -/
def HOpKeeps {α : Type} (s : State) (f : α → State) : HOp α → Prop
  | .ok a => HomeKeeps s (f a)
  | .error _ => True

theorem hostFree_keeps (s : State) (l : Nat) (t : State) (h : hostFree s l = .ok t) : HomeKeeps s t := by
  unfold hostFree at h
  split at h <;> cases h
  exact .refl s
theorem homePrep_keeps (s : State) (d : DieId) (pa : Nat) (t : State) (h : homePrep s d pa = .ok t) : HomeKeeps s t := by
  unfold homePrep at h
  split at h
  · cases h
  · split at h <;> cases h
    exact .refl s
  · split at h
    · cases h
    · split at h
      · cases h
      · split at h
        · cases h; exact .refl s
        · next d n i _ =>
          dsimp only at h
          split at h
          · cases h; exact .refl s
          · split at h
            · cases h
            · split at h
              · cases h
              · split at h
                · cases hf : hostFree s (resolvePa pa / 128) with
                  | error e => rw [hf] at h; cases h
                  | ok r =>
                    simp only [hf, bind, Except.bind, pure, Except.pure, Except.ok.injEq] at h
                    rw [← h]
                    exact (hostFree_keeps s _ r hf).trans (pullLine_keeps r _ _ _)
                · cases h

theorem foldlM_keeps {α β : Type} (g : α → State) (f : α → β → HOp α)
    (hf : ∀ a b a', f a b = .ok a' → HomeKeeps (g a) (g a')) (l : List β) (a a' : α) (h : l.foldlM f a = .ok a') :
    HomeKeeps (g a) (g a') := by
  induction l generalizing a with
  | nil => cases h; exact .refl _
  | cons b l ih =>
    rw [List.foldlM_cons] at h
    cases hb : f a b with
    | error e => rw [hb] at h; cases h
    | ok c => rw [hb] at h; exact (hf a b c hb).trans (ih c h)

/-- Reading bytes at their homes. -/
theorem homeRead_keeps (s : State) (d : DieId) (pa n : Nat) (t : State) (bs : List Byte) (h : homeRead s d pa n = .ok (t, bs)) :
    HomeKeeps s t := by
  refine foldlM_keeps (fun x : State × List Byte => x.1) _ ?_ _ _ _ h
  intro a b a' hb
  obtain ⟨s, acc⟩ := a
  obtain ⟨x, len⟩ := b
  dsimp only at hb
  cases hp : homePrep s d x with
  | error e => rw [hp] at hb; cases hb
  | ok r => rw [hp] at hb; cases hb; exact (homePrep_keeps s d x r hp).trans (recall_keeps r _)
/-- Writing bytes at their homes. -/
theorem homeWrite_keeps (s : State) (d : DieId) (pa : Nat) (bs : List Byte) (base : Nat) (t : State) (m : Nat)
    (h : homeWrite s d pa bs base = .ok (t, m)) : HomeKeeps s t := by
  refine foldlM_keeps (fun x : State × Nat => x.1) _ ?_ _ _ _ h
  intro a b a' hb
  obtain ⟨s, acc⟩ := a
  obtain ⟨x, len⟩ := b
  dsimp only at hb
  cases hp : homePrep s d x with
  | error e => rw [hp] at hb; cases hb
  | ok r =>
    rw [hp] at hb
    cases hf : hostFree r (resolvePa x / 128) with
    | error e => simp only [bind, Except.bind, hf] at hb; cases hb
    | ok u =>
      simp only [bind, Except.bind, hf] at hb
      cases hb
      exact (((homePrep_keeps s d x r hp).trans (hostFree_keeps r _ u hf)).trans (recall_keeps u _)).trans
        ((((HomeKeeps.setLineSt _ _ _).trans (.hts _ _)).trans (.wrBytes _ _ _)).trans (.clearTags _ _ _))

/-! ## Page walks -/

/-- A walker's access to a table succeeds as the home's operation does. -/
theorem atTable_ok {α : Type} (lvl : Nat) (h : HOp α) (a : α) : atTable lvl h = .ok a ↔ h = .ok a := by
  unfold atTable
  split <;> simp
theorem readPte_keeps (s : State) (d : DieId) (pa lvl : Nat) (t : State) (p : BitVec 64) (h : readPte s d pa lvl = .ok (t, p)) :
    HomeKeeps s t := by
  unfold readPte at h
  cases hr : atTable lvl (homeRead s d pa 8) with
  | error e => rw [hr] at h; cases h
  | ok x =>
    obtain ⟨r, bs⟩ := x
    rw [hr] at h
    cases h
    exact homeRead_keeps s d pa 8 _ _ ((atTable_ok lvl _ _).mp hr)
theorem setAD_keeps (s : State) (d : DieId) (pa lvl : Nat) (p : BitVec 64) (w : Bool) (t : State) (q : BitVec 64)
    (h : setAD s d pa lvl p w = .ok (t, q)) : HomeKeeps s t := by
  unfold setAD at h
  generalize (if w then 0x40#64 else 0#64) = m at h
  dsimp only at h
  split at h
  · cases h; exact .refl s
  · cases hr : atTable lvl (homeWrite s d pa (bitsBytes 8 (p ||| 0x20#64 ||| m))) with
    | error e => rw [hr] at h; cases h
    | ok x =>
      obtain ⟨r, m⟩ := x
      rw [hr] at h
      cases h
      exact (homeWrite_keeps s d pa _ 0 r m ((atTable_ok lvl _ _).mp hr)).trans (.hts _ _)
theorem chRun_keeps (s : State) (d : DieId) (ea lvl : Nat) (p : BitVec 64) (t : State) (q : BitVec 64)
    (h : chRun s d ea lvl p = .ok (t, q)) : HomeKeeps s t := by
  unfold chRun at h
  cases hr : atTable lvl (homeRead s d (ea / 128 * 128) 128) with
  | error e => rw [hr] at h; cases h
  | ok x =>
    obtain ⟨r, bs⟩ := x
    have hk := homeRead_keeps s d _ 128 _ _ ((atTable_ok lvl _ _).mp hr)
    rw [hr] at h
    simp only [bind, Except.bind] at h
    split at h <;> cases h <;> exact hk
/-- A walk down from a table. -/
theorem walkFrom_keeps (d : DieId) (asid va lvl : Nat) : ∀ (s : State) (tbl : Nat) (t : State) (x : Leaf),
    walkFrom d asid va lvl s tbl = .ok (t, x) → HomeKeeps s t := by
  induction lvl with
  | zero =>
    intro s tbl t x h
    unfold walkFrom at h
    simp only [bind, Except.bind] at h
    split at h
    · cases h
    · split at h
      · cases h
      · next v hr =>
        have hk : HomeKeeps s v.1 := by
          split at hr
          · cases hr; exact .refl s
          · exact readPte_keeps s d _ _ _ _ hr
        split at h
        · cases h
        · split at h
          · split at h
            · cases h
            · split at h
              · split at h
                · cases h
                · next u hu => cases h; exact hk.trans (chRun_keeps _ d _ _ _ _ _ hu)
              · cases h; exact hk
          · cases h
  | succ l ih =>
    intro s tbl t x h
    unfold walkFrom at h
    simp only [bind, Except.bind] at h
    split at h
    · cases h
    · split at h
      · cases h
      · next v hr =>
        have hk : HomeKeeps s v.1 := by
          split at hr
          · cases hr; exact .refl s
          · exact readPte_keeps s d _ _ _ _ hr
        split at h
        · cases h
        · split at h
          · split at h
            · cases h
            · split at h
              · split at h
                · cases h
                · next u hu => cases h; exact hk.trans (chRun_keeps _ d _ _ _ _ _ hu)
              · cases h; exact hk
          · split at h
            · cases h
            · exact hk.trans ((HomeKeeps.modDie _ d _).trans (ih _ _ _ _ h))
/-- A walk. -/
theorem walk_keeps (s : State) (d : DieId) (asid : Nat) (root : Word) (va : Nat) (t : State) (x : Leaf)
    (h : walk s d asid root va = .ok (t, x)) : HomeKeeps s t := by
  unfold walk at h
  split at h
  · exact walkFrom_keeps d 0 va 4 s _ t x h
  · exact walkFrom_keeps d asid va 4 s _ t x h
theorem useLeaf_keeps (s : State) (d : DieId) (x : Leaf) (priv : Bool) (n : Need) (t : State) (p : BitVec 64)
    (h : useLeaf s d x priv n = .ok (t, p)) : HomeKeeps s t := by
  unfold useLeaf at h
  split at h
  · cases h
  · simp only [bind, Except.bind] at h
    split at h
    · cases h
    · next u hu => cases h; exact setAD_keeps s d _ _ _ _ _ _ hu
/-- A translation by a die's walker. -/
theorem walkXlate_keeps (s : State) (d : DieId) (ctx : Ctx) (priv : Bool) (va : Nat) (n : Need) (t : State) (pa : Nat) (p : BitVec 64)
    (h : walkXlate s d ctx priv va n = .ok (t, pa, p)) : HomeKeeps s t := by
  unfold walkXlate at h
  simp only [bind, Except.bind] at h
  split at h
  · cases h
  · next u hu =>
    split at h
    · cases h
    · next w hw => cases h; exact (walk_keeps s d _ _ va _ _ hu).trans (useLeaf_keeps _ d _ priv n _ _ hw)

/-- The frame write at trap entry leaves the task's registers, system registers and all else of its state. -/
theorem writeFrame_t (s : State) (c : CoreId) (t : Task) (s2 : State) (h : writeFrame s c t = .queued s2) :
    (s2.core c).t = (s.core c).t := by
  have enq : ∀ k e, (enqueue k e).t = k.t := by
    intro k e; unfold enqueue; split
    · split <;> rfl
    · rfl
  have fold : ∀ l k, (List.foldl enqueue k l).t = k.t := by
    intro l; induction l with
    | nil => intro k; rfl
    | cons a l ih => intro k; rw [List.foldl_cons, ih, enq]
  unfold writeFrame privXlate at h
  split at h
  · cases h
  · cases h
  · next r pa pte hr =>
    have hk := walkXlate_keeps s _ _ _ _ _ _ _ _ hr
    split at h
    · cases h
    · split at h
      · cases h
      · split at h
        · cases h
        · cases h
          rw [tickFresh_core, modCore_eq, core_setCore_self, fold]
          obtain ⟨l, e⟩ := hk.core c
          rw [e]

end Sys2Proof.Machine
end

