-- ==== Sys2Proof/Tests/Slice0.lean ====
section
/-!
SUPPORT. Tests: terms that WellFormed refuses, words written out from the spec's encodings, single steps on small states with
results worked out from the spec, and for each statement a state and operands that meet its hypotheses.
-/

namespace Sys2Proof.Tests

open Sys2Proof Sys2Proof.Machine Sys2Proof.Safety

set_option maxRecDepth 100000
set_option Elab.async false

/-! ## Small states -/

/-- Core 0 runs a privileged task; its page 0 is cached. -/
def base : State := placeBundle State.reset 0
/-- A slot of the bundle at unit 5 is in flight. -/
def fl0 : Inflight :=
  { unit := 5, next := 6, todo := [], slot := 0, dual := false, stall := 0, rep := 0, se := 15, regs := Regs.reset
    sys := Sys.reset, pops := [], rbq := none, btgt := none, since := none, older := 0 }
def flying : State := base.modT fun t => { t with fl := some { fl0 with regs := t.regs, sys := t.sys } }
/-- Scalar register r holds x. -/
def withS (s : State) (r : SReg) (x : Word) : State := s.modRegs fun g => { g with s := g.s.set r.toFin x }
def withV (s : State) (r : BitVec 5) (x : Row) : State := s.modRegs fun g => { g with v := g.v.set r.toFin x }
/-- Capability register c0 spans the first 64 KiB with every permission. -/
def cap0 : Cap := Cap.mk' 0x7F 0 65536 0 true
def withC (s : State) (c : Cap) : State := s.modRegs fun g => { g with c := g.c.set 0 c }
def user : State := base.modSys fun y => { y with status := 0 }
/-- A 1 GiB leaf at address 0 that allows everything. -/
def wideLeaf : TlbEnt := { asid := 0, page := 0, bits := 30, pte := 0xC000_0000_0000_007F#64 }
/-- Tables of the first gigabyte: root at 0x1000, records at 0x10000, events at 0x20000, policies at 0x30000, lists at 0x40000. -/
def mappedTask : Task := { placedTask with ctx := { placedCtx with
  ptroot := 0x1000, rtbase := 0x10000, rtcnt := 16, etbase := 0x20000, etcnt := 16, ptbase := 0x30000, albase := 0x40000
  hmask := 0xFF_FFFF, hclen := 64, tfbase := 0x800, sapool := 0x100_0000, sacount := 16 } }
def mapped : State :=
  let s := wrBytes (wrBytes (wrBytes base 0x1000 [0x01, 0x20]) 0x2000 [0x01, 0x30]) 0x3000 [0x7F, 0, 0, 0, 0, 0, 0, 0xC0]
  (s.modDie 0 fun d => { d with kroot := 0x1000 }).modK fun k => { k with
    task := some mappedTask, tlb := [wideLeaf]
    t := { k.t with sys := { startSys mappedTask with etcnt := 16 }, regs := { k.t.regs with c := k.t.regs.c.set 0 (Cap.mk' 0x7F 0 65536 0 true) } } }
/-- Leaves the core's next state, if there is one. -/
def after (r : Res1) : State := match r with | .next t => t | _ => State.reset
def went (r : Res1) : Bool := match r with | .next _ => true | _ => false
def ok {α ε : Type} (r : Except ε α) : Bool := match r with | .ok _ => true | _ => false
theorem of_ok {α ε : Type} {r : Except ε α} (h : ok r = true) : ∃ x, r = .ok x := by
  cases r with
  | ok x => exact ⟨x, rfl⟩
  | error e => simp [ok] at h
/-- The results a slot put into the landing queue. -/
def landed (r : Res1) : List Land := (after r).k.t.land
/-- The class, detail and EINFO of the fault a slot took, in a machine whose task has no handler. -/
def fault (r : Res1) : Option FaultRec := (after r).k.t.fatal

theorem test_words_scalar_integers :
    decodeS 0x01B4CBA00000 = .ok (some (.add ⟨11, 9, 18, .reg 29⟩)) ∧
    decodeS 0x03B4CBA00000 = .ok (some (.sub ⟨11, 9, 18, .reg 29⟩)) ∧
    decodeS 0x0BB4CBA00000 = .ok (some (.and ⟨11, 9, 18, .reg 29⟩)) ∧
    decodeS 0x0CB4C8180003 = .ok (some (.or ⟨11, 9, 18, .imm 0x80003⟩)) ∧
    decodeS 0x0DB4CBA00000 = .ok (some (.xor ⟨11, 9, 18, .reg 29⟩)) ∧
    decodeS 0x0EB4C8180003 = .ok (some (.andn ⟨11, 9, 18, .imm 0x80003⟩)) ∧
    decodeS 0x0FB4CBA00000 = .ok (some (.shl ⟨11, 9, 18, .reg 29⟩)) ∧
    decodeS 0x10B4C8180003 = .ok (some (.shr ⟨11, 9, 18, .imm 0x80003⟩)) ∧
    decodeS 0x11B4CBA00000 = .ok (some (.shra ⟨11, 9, 18, .reg 29⟩)) ∧
    decodeS 0x12B4C8180003 = .ok (some (.rotl ⟨11, 9, 18, .imm 0x80003⟩)) ∧
    decodeS 0x18B4C8180003 = .ok (some (.min ⟨11, 9, 18, .imm 0x80003⟩)) ∧
    decodeS 0x19B4CBA00000 = .ok (some (.max ⟨11, 9, 18, .reg 29⟩)) ∧
    decodeS 0x1AB4C8180003 = .ok (some (.minn ⟨11, 9, 18, .imm 0x80003⟩)) ∧
    decodeS 0x1BB4CBA00000 = .ok (some (.maxn ⟨11, 9, 18, .reg 29⟩)) ∧
    decodeS 0x021FF81FFFFE = .ok (some (.addi ⟨1, 31, 30, 0x1FFFFE⟩)) ∧
    decodeS 0x042088600000 = .ok (some (.mul ⟨2, 1, 2, 3⟩)) ∧
    decodeS 0x052088600000 = .ok (some (.mulh ⟨2, 1, 2, 3⟩)) ∧
    decodeS 0x062088600000 = .ok (some (.mulhn ⟨2, 1, 2, 3⟩)) ∧
    decodeS 0x072088600000 = .ok (some (.div ⟨2, 1, 2, 3⟩)) ∧
    decodeS 0x082088600000 = .ok (some (.divn ⟨2, 1, 2, 3⟩)) ∧
    decodeS 0x092088600000 = .ok (some (.mod ⟨2, 1, 2, 3⟩)) ∧
    decodeS 0x0A2088600000 = .ok (some (.modn ⟨2, 1, 2, 3⟩)) ∧
    decodeS 0x13008860003F = .ok (some (.fshl ⟨0, 1, 2, 3, 63⟩)) ∧
    decodeS 0x140088600001 = .ok (some (.fshr ⟨0, 1, 2, 3, 1⟩)) ∧
    decodeS 0x150214000000 = .ok (some (.clz ⟨0, 4, 5, .w8⟩)) ∧
    decodeS 0x160214000001 = .ok (some (.ctz ⟨0, 4, 5, .w16⟩)) ∧
    decodeS 0x170214000002 = .ok (some (.popc ⟨0, 4, 5, .w32⟩)) ∧
    decodeS 0x1C0214000003 = .ok (some (.sext ⟨0, 4, 5, .w64⟩)) ∧
    decodeS 0x1D0214000002 = .ok (some (.zext ⟨0, 4, 5, .w32⟩)) :=
  ⟨rfl, rfl, rfl, rfl, rfl, rfl, rfl, rfl, rfl, rfl, rfl, rfl, rfl, rfl, rfl, rfl, rfl, rfl, rfl, rfl, rfl, rfl, rfl, rfl, rfl, rfl, rfl, rfl, rfl⟩

theorem test_words_scalar_moves_and_compares :
    decodeS 0x1E038010000F = .ok (some (.li ⟨0, 7, 0x10000F⟩)) ∧
    decodeS 0x1F03A003BEEF = .ok (some (.lih ⟨0, 7, 8, 0xBEEF, 3⟩)) ∧
    decodeS 0x2083A4000000 = .ok (some (.mov ⟨8, 7, 9⟩)) ∧
    decodeS 0x21008860000D = .ok (some (.sel ⟨0, 1, 2, 3, 13⟩)) ∧
    decodeS 0x220298E00000 = .ok (some (.cmpeq ⟨0, 5, 6, .reg 7⟩)) ∧
    decodeS 0x230298E00000 = .ok (some (.cmpne ⟨0, 5, 6, .reg 7⟩)) ∧
    decodeS 0x240298E00000 = .ok (some (.cmplt ⟨0, 5, 6, .reg 7⟩)) ∧
    decodeS 0x250298E00000 = .ok (some (.cmple ⟨0, 5, 6, .reg 7⟩)) ∧
    decodeS 0x260298E00000 = .ok (some (.cmpltn ⟨0, 5, 6, .reg 7⟩)) ∧
    decodeS 0x270298E00000 = .ok (some (.cmplen ⟨0, 5, 6, .reg 7⟩)) :=
  ⟨rfl, rfl, rfl, rfl, rfl, rfl, rfl, rfl, rfl, rfl⟩

theorem test_words_scalar_floats :
    decodeS 0x30008860101A = .ok (some (.sfadd ⟨0, 1, 2, 3, .bf16, .rup, true, true⟩)) ∧
    decodeS 0x310088600023 = .ok (some (.sfmul ⟨0, 1, 2, 3, .f16, .rdn, false, false⟩)) ∧
    decodeS 0x320088602005 = .ok (some (.sffma ⟨0, 1, 2, 3, .f32, .dyn, false, false, true⟩)) ∧
    decodeS 0x3300880004E9 = .ok (some (.sfcvt ⟨0, 1, 2, .n64, .e5m2, .rtz, true⟩)) ∧
    decodeS 0x340308600510 = .ok (some (.sfcmp ⟨0, 6, 2, 3, .bf16, .ord⟩)) :=
  ⟨rfl, rfl, rfl, rfl, rfl⟩

theorem test_words_control_flow :
    decodeS 0x4090001FFFFF = .ok (some (.br ⟨9, 0x1FFFFF⟩)) ∧
    decodeS 0x410044800005 = .ok (some (.brc ⟨0, 17, .gtz, 5⟩)) ∧
    decodeS 0x420F80100000 = .ok (some (.call ⟨0, 31, 0x100000⟩)) ∧
    decodeS 0x43007C000000 = .ok (some (.ret ⟨0, 31⟩)) ∧
    decodeS 0x440010000003 = .ok (some (.jmpi ⟨0, 4, 3⟩)) ∧
    decodeS 0x4501A9757915 = .ok (some (.loop ⟨0, 3, 10, 11, 0xABC, 2, 21⟩)) ∧
    decodeS 0x464000000000 = .ok (some (.lbreak ⟨4⟩)) ∧
    decodeS 0x464000000001 = .ok (some (.lbreakDrain ⟨4⟩)) :=
  ⟨rfl, rfl, rfl, rfl, rfl, rfl, rfl, rfl⟩

theorem test_words_capabilities_and_descriptors :
    decodeS 0x5007B9A0000C = .ok (some (.cnarrow ⟨0, 15, 14, 13, 12⟩)) ∧
    decodeS 0x510088000055 = .ok (some (.cperm ⟨0, 1, 2, 0x55⟩)) ∧
    decodeS 0x520A24000000 = .ok (some (.cgetb ⟨0, 20, 9⟩)) ∧
    decodeS 0x530A24000000 = .ok (some (.cgetl ⟨0, 20, 9⟩)) ∧
    decodeS 0x540A24000000 = .ok (some (.cgeth ⟨0, 20, 9⟩)) ∧
    decodeS 0x5501A4000040 = .ok (some (.ctest ⟨0, 3, 9, 0x40⟩)) ∧
    decodeS 0x5601A4000000 = .ok (some (.cmov ⟨0, 3, 9⟩)) ∧
    decodeS 0x5804D8000001 = .ok (some (.mdsetWord ⟨0, 9, 1, 22⟩)) ∧
    decodeS 0x5804B0100000 = .ok (some (.mdsetCap ⟨0, 9, 12⟩)) ∧
    decodeS 0x5904D8000003 = .ok (some (.cdsetWord ⟨0, 9, 3, 22⟩)) ∧
    decodeS 0x5904B0100001 = .ok (some (.cdsetCap ⟨0, 9, true, 12⟩)) :=
  ⟨rfl, rfl, rfl, rfl, rfl, rfl, rfl, rfl, rfl, rfl, rfl⟩

theorem test_words_system_slots :
    decodeS 0x600000000009 = .ok (some (.trap ⟨0, 9⟩)) ∧
    decodeS 0x615000000000 = .ok (some (.rett ⟨5⟩)) ∧
    decodeS 0x620200000067 = .ok (some (.mfsr ⟨0, 4, 0x67⟩)) ∧
    decodeS 0x630010000048 = .ok (some (.mtsr ⟨0, 4, 0x48⟩)) :=
  ⟨rfl, rfl, rfl, rfl⟩

theorem test_words_scalar_loads_and_stores :
    decodeL 0x022F6F600001 = .ok (some (.ldI8 ⟨1, 30, ⟨13, 29, 0x200001⟩⟩)) ∧
    decodeL 0x042F6F600001 = .ok (some (.ldN8 ⟨1, 30, ⟨13, 29, 0x200001⟩⟩)) ∧
    decodeL 0x062F6F600001 = .ok (some (.ldI16 ⟨1, 30, ⟨13, 29, 0x200001⟩⟩)) ∧
    decodeL 0x082F6F600001 = .ok (some (.ldN16 ⟨1, 30, ⟨13, 29, 0x200001⟩⟩)) ∧
    decodeL 0x0A2F6F600001 = .ok (some (.ldI32 ⟨1, 30, ⟨13, 29, 0x200001⟩⟩)) ∧
    decodeL 0x0C2F6F600001 = .ok (some (.ldN32 ⟨1, 30, ⟨13, 29, 0x200001⟩⟩)) ∧
    decodeL 0x0E2F6F600001 = .ok (some (.ldI64 ⟨1, 30, ⟨13, 29, 0x200001⟩⟩)) ∧
    decodeL 0x102F6F600001 = .ok (some (.stI8 ⟨1, 30, ⟨13, 29, 0x200001⟩⟩)) ∧
    decodeL 0x122F6F600001 = .ok (some (.stI16 ⟨1, 30, ⟨13, 29, 0x200001⟩⟩)) ∧
    decodeL 0x142F6F600001 = .ok (some (.stI32 ⟨1, 30, ⟨13, 29, 0x200001⟩⟩)) ∧
    decodeL 0x162F6F600001 = .ok (some (.stI64 ⟨1, 30, ⟨13, 29, 0x200001⟩⟩)) :=
  ⟨rfl, rfl, rfl, rfl, rfl, rfl, rfl, rfl, rfl, rfl, rfl⟩

theorem test_words_vector_and_capability_accesses :
    decodeL 0x1808B1410003 = .ok (some (.ldv ⟨0, 17, ⟨6, 5, 0x10003⟩⟩)) ∧
    decodeL 0x1808B16B0003 = .ok (some (.ldvCvt ⟨0, 17, ⟨6, 5, 0x10003⟩, .rup, true⟩)) ∧
    decodeL 0x1A10B1400003 = .ok (some (.stv ⟨0, .v1l, ⟨6, 5, 3⟩⟩)) ∧
    decodeL 0x1A0431700003 = .ok (some (.stvCvt ⟨0, .reg 8, ⟨6, 5, 3⟩, .sr, false⟩)) ∧
    decodeL 0x1C08B17FFFFF = .ok (some (.ldvu ⟨0, .reg 17, ⟨6, 5, 0x3FFFFF⟩⟩)) ∧
    decodeL 0x1E013167FFFF = .ok (some (.stvm ⟨0, .reg 2, ⟨6, 5, 0x1FFFF⟩, 19⟩)) ∧
    decodeL 0x200631400002 = .ok (some (.cld ⟨0, 12, ⟨6, 5, 2⟩⟩)) ∧
    decodeL 0x220631400002 = .ok (some (.cst ⟨0, 12, ⟨6, 5, 2⟩⟩)) :=
  ⟨rfl, rfl, rfl, rfl, rfl, rfl, rfl, rfl⟩

theorem test_words_blocks_and_probes :
    decodeL 0x2414B1605601 = .ok (some (.ldblk ⟨0, 9, 64, ⟨6, 5, 0x201⟩, some 21⟩)) ∧
    decodeL 0x266480000000 = .ok (some (.blkrel ⟨3, 9⟩)) ∧
    decodeL 0x286480000000 = .ok (some (.blkwait ⟨3, 9⟩)) ∧
    decodeL 0x2A00B1400002 = .ok (some (.pref ⟨0, ⟨6, 5, 2⟩, true⟩)) ∧
    decodeL 0x2C0BB14807FF = .ok (some (.probeLookup ⟨0, 23, ⟨6, 5, 0x3FF⟩, 0x201⟩)) ∧
    decodeL 0x2C0BB15807FF = .ok (some (.probePin ⟨0, 23, ⟨6, 5, 0x3FF⟩, 0x201⟩)) ∧
    decodeL 0x2C0BB16807FF = .ok (some (.probeUnpin ⟨0, 23, ⟨6, 5, 0x3FF⟩, 0x201⟩)) :=
  ⟨rfl, rfl, rfl, rfl, rfl, rfl, rfl⟩

theorem test_words_atomics :
    decodeL 0x3001B1640007 = .ok (some (.amoaddI32 ⟨0, 3, ⟨6, 5, 7⟩, 18⟩)) ∧
    decodeL 0x3201B1640007 = .ok (some (.amoaddI64 ⟨0, 3, ⟨6, 5, 7⟩, 18⟩)) ∧
    decodeL 0x3401B1640007 = .ok (some (.amominI32 ⟨0, 3, ⟨6, 5, 7⟩, 18⟩)) ∧
    decodeL 0x3601B1640007 = .ok (some (.amominI64 ⟨0, 3, ⟨6, 5, 7⟩, 18⟩)) ∧
    decodeL 0x3801B1640007 = .ok (some (.amomaxI32 ⟨0, 3, ⟨6, 5, 7⟩, 18⟩)) ∧
    decodeL 0x3A01B1640007 = .ok (some (.amomaxI64 ⟨0, 3, ⟨6, 5, 7⟩, 18⟩)) ∧
    decodeL 0x3C01B1640007 = .ok (some (.amominnI32 ⟨0, 3, ⟨6, 5, 7⟩, 18⟩)) ∧
    decodeL 0x3E01B1640007 = .ok (some (.amominnI64 ⟨0, 3, ⟨6, 5, 7⟩, 18⟩)) ∧
    decodeL 0x4001B1640007 = .ok (some (.amomaxnI32 ⟨0, 3, ⟨6, 5, 7⟩, 18⟩)) ∧
    decodeL 0x4201B1640007 = .ok (some (.amomaxnI64 ⟨0, 3, ⟨6, 5, 7⟩, 18⟩)) ∧
    decodeL 0x4401B1640007 = .ok (some (.amoandI32 ⟨0, 3, ⟨6, 5, 7⟩, 18⟩)) ∧
    decodeL 0x4601B1640007 = .ok (some (.amoandI64 ⟨0, 3, ⟨6, 5, 7⟩, 18⟩)) ∧
    decodeL 0x4801B1640007 = .ok (some (.amoorI32 ⟨0, 3, ⟨6, 5, 7⟩, 18⟩)) ∧
    decodeL 0x4A01B1640007 = .ok (some (.amoorI64 ⟨0, 3, ⟨6, 5, 7⟩, 18⟩)) ∧
    decodeL 0x4C01B1640007 = .ok (some (.amoxorI32 ⟨0, 3, ⟨6, 5, 7⟩, 18⟩)) ∧
    decodeL 0x4E01B1640007 = .ok (some (.amoxorI64 ⟨0, 3, ⟨6, 5, 7⟩, 18⟩)) ∧
    decodeL 0x5001B1640007 = .ok (some (.amoswpI32 ⟨0, 3, ⟨6, 5, 7⟩, 18⟩)) ∧
    decodeL 0x5201B1640007 = .ok (some (.amoswpI64 ⟨0, 3, ⟨6, 5, 7⟩, 18⟩)) ∧
    decodeL 0x5401B1640007 = .ok (some (.amocasI32 ⟨0, 3, ⟨6, 5, 7⟩, 18⟩)) ∧
    decodeL 0x5601B1640007 = .ok (some (.amocasI64 ⟨0, 3, ⟨6, 5, 7⟩, 18⟩)) ∧
    decodeL 0x5801B1640007 = .ok (some (.amofaddF32 ⟨0, 3, ⟨6, 5, 7⟩, 18⟩)) ∧
    decodeL 0x5C01B1640007 = .ok (some (.amobaddI32 ⟨0, 3, ⟨6, 5, 7⟩, 18⟩)) ∧
    decodeL 0x5E01B1640007 = .ok (some (.amobaddI64 ⟨0, 3, ⟨6, 5, 7⟩, 18⟩)) :=
  ⟨rfl, rfl, rfl, rfl, rfl, rfl, rfl, rfl, rfl, rfl, rfl, rfl, rfl, rfl, rfl, rfl, rfl, rfl, rfl, rfl, rfl, rfl, rfl⟩

theorem test_words_fences_lists_and_shootdown :
    decodeL 0x600000020403 = .ok (some (.pfence ⟨0, 2, 4, 3⟩)) ∧
    decodeL 0x620281A80001 = .ok (some (.actset ⟨0, 5, 6, 0x80001, .eight⟩)) ∧
    decodeL 0x640281880001 = .ok (some (.actclr ⟨0, 5, 6, 0x80001⟩)) ∧
    decodeL 0x660A05400016 = .ok (some (.tlbinvRng ⟨0, 20, 21, 22⟩)) ∧
    decodeL 0x660000100016 = .ok (some (.tlbinvAsid ⟨0, 22⟩)) ∧
    decodeL 0x66E000200000 = .ok (some (.tlbinvAll ⟨7⟩)) :=
  ⟨rfl, rfl, rfl, rfl, rfl, rfl⟩

theorem test_words_events_tasks_and_ticks :
    decodeL 0x700001000009 = .ok (some (.waitev ⟨0, ⟨4, 9⟩⟩)) ∧
    decodeL 0x720401000009 = .ok (some (.signal ⟨0, 8, ⟨4, 9⟩⟩)) ∧
    decodeL 0x740401000009 = .ok (some (.evinit ⟨0, 8, ⟨4, 9⟩⟩)) ∧
    decodeL 0x760401000009 = .ok (some (.evquery ⟨0, 8, ⟨4, 9⟩⟩)) ∧
    decodeL 0x780431000009 = .ok (some (.launch ⟨0, 8, ⟨6, 4, 9⟩⟩)) ∧
    decodeL 0x7A0419000009 = .ok (some (.taskend ⟨0, some ⟨4, 9⟩, some 8⟩)) ∧
    decodeL 0x7A0000000000 = .ok (some (.taskend ⟨0, none, none⟩)) ∧
    decodeL 0x800019000009 = .ok (some (.govtick ⟨0, some ⟨4, 9⟩, true⟩)) ∧
    decodeL 0x820031000009 = .ok (some (.rescale ⟨0, ⟨6, 4, 9⟩⟩)) ∧
    decodeL 0x840431000009 = .ok (some (.stepbegin ⟨0, 8, ⟨6, 4, 9⟩⟩)) ∧
    decodeL 0x860400000000 = .ok (some (.stepcommit ⟨0, 8⟩)) ∧
    decodeL 0x884000000000 = .ok (some (.stepabort ⟨2⟩)) ∧
    decodeL 0x8A00B1000009 = .ok (some (.rbqpush ⟨0, ⟨6, 4, 9⟩, true⟩)) :=
  ⟨rfl, rfl, rfl, rfl, rfl, rfl, rfl, rfl, rfl, rfl, rfl, rfl, rfl⟩

theorem test_words_transfer_halves :
    decodeXsv (.ofBits 0x535) = .ok (some (.xsv ⟨9, 21⟩)) ∧
    decodeXsv (.ofBits 0x935) = .ok (some (.xsvl ⟨9, 21⟩)) ∧
    decodeXsv (.ofBits 0xD2D) = .ok (some (.xsp ⟨9, true, 5⟩)) ∧
    decodeXvs (.ofBits 0x535) = .ok (some (.xvs ⟨9, 21⟩)) ∧
    decodeXvs (.ofBits 0x92D) = .ok (some (.xps ⟨9, true, 5⟩)) ∧
    decodeXvs (.ofBits 0x935) = .ok (some (.xpsAny ⟨9, 5⟩)) :=
  ⟨rfl, rfl, rfl, rfl, rfl, rfl⟩

theorem test_words_vector_floats :
    decodeV 0x00AD37A0BC0178 = .ok (some (.vadd ⟨⟨0x5A, 3⟩, .reg 30, .v0l, .pop 7, .bf16, .rdn, true, true⟩)) ∧
    decodeV 0x012D37A0BC0178 = .ok (some (.vsub ⟨⟨0x5A, 3⟩, .reg 30, .v0l, .pop 7, .bf16, .rdn, true, true⟩)) ∧
    decodeV 0x01AD37A0BC0178 = .ok (some (.vmul ⟨⟨0x5A, 3⟩, .reg 30, .v0l, .pop 7, .bf16, .rdn, true, true⟩)) ∧
    decodeV 0x022D3A81863280 = .ok (some (.vfma ⟨⟨0x5A, 3⟩, .push 2, .reg 1, .v1l, .zero, .f16, .sr, false, false⟩)) ∧
    decodeV 0x02AD3A81863280 = .ok (some (.vfms ⟨⟨0x5A, 3⟩, .push 2, .reg 1, .v1l, .zero, .f16, .sr, false, false⟩)) ∧
    decodeV 0x032D3A81863280 = .ok (some (.vfnma ⟨⟨0x5A, 3⟩, .push 2, .reg 1, .v1l, .zero, .f16, .sr, false, false⟩)) ∧
    decodeV 0x03AD3801080000 = .ok (some (.vmin ⟨⟨0x5A, 3⟩, .latch, .reg 1, .reg 2, .f32⟩)) ∧
    decodeV 0x042D3801080000 = .ok (some (.vmax ⟨⟨0x5A, 3⟩, .latch, .reg 1, .reg 2, .f32⟩)) ∧
    decodeV 0x04AD30C1000100 = .ok (some (.vabs ⟨⟨0x5A, 3⟩, .reg 3, .reg 1, .bf16⟩)) ∧
    decodeV 0x052D30C1000100 = .ok (some (.vneg ⟨⟨0x5A, 3⟩, .reg 3, .reg 1, .bf16⟩)) ∧
    decodeV 0x05AD30C10002B0 = .ok (some (.vrcp ⟨⟨0x5A, 3⟩, .reg 3, .reg 1, .f16, .dyn, true⟩)) ∧
    decodeV 0x062D30C10002B0 = .ok (some (.vrsqrt ⟨⟨0x5A, 3⟩, .reg 3, .reg 1, .f16, .dyn, true⟩)) ∧
    decodeV 0x06AD30C10002B0 = .ok (some (.vsqrt ⟨⟨0x5A, 3⟩, .reg 3, .reg 1, .f16, .dyn, true⟩)) ∧
    decodeV 0x072D30C10002B0 = .ok (some (.vexp2 ⟨⟨0x5A, 3⟩, .reg 3, .reg 1, .f16, .dyn, true⟩)) ∧
    decodeV 0x07AD30C10002B0 = .ok (some (.vlog2 ⟨⟨0x5A, 3⟩, .reg 3, .reg 1, .f16, .dyn, true⟩)) ∧
    decodeV 0x082D30C10002B0 = .ok (some (.vsin ⟨⟨0x5A, 3⟩, .reg 3, .reg 1, .f16, .dyn, true⟩)) ∧
    decodeV 0x08AD30C10002B0 = .ok (some (.vcos ⟨⟨0x5A, 3⟩, .reg 3, .reg 1, .f16, .dyn, true⟩)) :=
  ⟨rfl, rfl, rfl, rfl, rfl, rfl, rfl, rfl, rfl, rfl, rfl, rfl, rfl, rfl, rfl, rfl, rfl⟩

theorem test_words_vector_integers :
    decodeV 0x102D30C1080B10 = .ok (some (.viadd ⟨⟨0x5A, 3⟩, .reg 3, .reg 1, .reg 2, .n16, true⟩)) ∧
    decodeV 0x10AD30C1080B10 = .ok (some (.visub ⟨⟨0x5A, 3⟩, .reg 3, .reg 1, .reg 2, .n16, true⟩)) ∧
    decodeV 0x112D30C1080B10 = .ok (some (.vimul ⟨⟨0x5A, 3⟩, .reg 3, .reg 1, .reg 2, .n16, true⟩)) ∧
    decodeV 0x11AD30C1080700 = .ok (some (.vimulh ⟨⟨0x5A, 3⟩, .reg 3, .reg 1, .reg 2, .i8⟩)) ∧
    decodeV 0x122D30C1080700 = .ok (some (.vimin ⟨⟨0x5A, 3⟩, .reg 3, .reg 1, .reg 2, .i8⟩)) ∧
    decodeV 0x12AD30C1080700 = .ok (some (.vimax ⟨⟨0x5A, 3⟩, .reg 3, .reg 1, .reg 2, .i8⟩)) ∧
    decodeV 0x132D30C1080700 = .ok (some (.vand ⟨⟨0x5A, 3⟩, .reg 3, .reg 1, .reg 2, .i8⟩)) ∧
    decodeV 0x13AD30C1080700 = .ok (some (.vor ⟨⟨0x5A, 3⟩, .reg 3, .reg 1, .reg 2, .i8⟩)) ∧
    decodeV 0x142D30C1080700 = .ok (some (.vxor ⟨⟨0x5A, 3⟩, .reg 3, .reg 1, .reg 2, .i8⟩)) ∧
    decodeV 0x14AD30C1080700 = .ok (some (.vandn ⟨⟨0x5A, 3⟩, .reg 3, .reg 1, .reg 2, .i8⟩)) ∧
    decodeV 0x152D30C1080700 = .ok (some (.vshl ⟨⟨0x5A, 3⟩, .reg 3, .reg 1, .reg 2, .i8⟩)) ∧
    decodeV 0x15AD30C1080700 = .ok (some (.vshr ⟨⟨0x5A, 3⟩, .reg 3, .reg 1, .reg 2, .i8⟩)) ∧
    decodeV 0x162D30C1080700 = .ok (some (.vshra ⟨⟨0x5A, 3⟩, .reg 3, .reg 1, .reg 2, .i8⟩)) ∧
    decodeV 0x16AD30C109F900 = .ok (some (.vfshl ⟨⟨0x5A, 3⟩, .reg 3, .reg 1, .reg 2, .reg 31, .i32⟩)) ∧
    decodeV 0x172D30C109F900 = .ok (some (.vfshr ⟨⟨0x5A, 3⟩, .reg 3, .reg 1, .reg 2, .reg 31, .i32⟩)) ∧
    decodeV 0x17AD30C1000A00 = .ok (some (.vclz ⟨⟨0x5A, 3⟩, .reg 3, .reg 1, .n8⟩)) ∧
    decodeV 0x182D30C1000A00 = .ok (some (.vctz ⟨⟨0x5A, 3⟩, .reg 3, .reg 1, .n8⟩)) ∧
    decodeV 0x18AD30C1000A00 = .ok (some (.vpopc ⟨⟨0x5A, 3⟩, .reg 3, .reg 1, .n8⟩)) :=
  ⟨rfl, rfl, rfl, rfl, rfl, rfl, rfl, rfl, rfl, rfl, rfl, rfl, rfl, rfl, rfl, rfl, rfl, rfl⟩

theorem test_words_vector_lanes :
    decodeV 0x202D3181080C03 = .ok (some (.vcmp ⟨⟨0x5A, 3⟩, 6, .reg 1, .reg 2, .n32, .le⟩)) ∧
    decodeV 0x20AD30C1085000 = .ok (some (.vsel ⟨⟨0x5A, 3⟩, .reg 3, .reg 1, .reg 2, 5⟩)) ∧
    decodeV 0x212D30C1000803 = .ok (some (.vgmax ⟨⟨0x5A, 3⟩, .reg 3, .reg 1, .i16, 3, .rne, false⟩)) ∧
    decodeV 0x21AD30C1000803 = .ok (some (.vgmin ⟨⟨0x5A, 3⟩, .reg 3, .reg 1, .i16, 3, .rne, false⟩)) ∧
    decodeV 0x222D30C1000052 = .ok (some (.vgsum ⟨⟨0x5A, 3⟩, .reg 3, .reg 1, .f32, 2, .rup, true⟩)) ∧
    decodeV 0x222D30C1000811 = .ok (some (.vgsum ⟨⟨0x5A, 3⟩, .reg 3, .reg 1, .i16, 1, .rne, true⟩)) ∧
    decodeV 0x282D30C1080000 = .ok (some (.vperm ⟨⟨0x5A, 3⟩, .reg 3, .reg 1, .reg 2⟩)) ∧
    decodeV 0x28AD30C1005003 = .ok (some (.vbcastl ⟨⟨0x5A, 3⟩, .reg 3, .reg 1, 69, true⟩)) ∧
    decodeV 0x292D30C10BF001 = .ok (some (.vxsec ⟨⟨0x5A, 3⟩, .reg 3, .reg 1, .reg 2, 63, .down⟩)) ∧
    decodeV 0x292D30C1007002 = .ok (some (.vxsec ⟨⟨0x5A, 3⟩, .reg 3, .reg 1, .reg 0, 7, .rot⟩)) :=
  ⟨rfl, rfl, rfl, rfl, rfl, rfl, rfl, rfl, rfl, rfl⟩

theorem test_words_vector_buffers :
    decodeV 0x29AD30C402B1AA = .ok (some (.vldb ⟨⟨0x5A, 3⟩, .reg 3, .reg 4, .wbuf, 0x2AB, some .bf16⟩)) ∧
    decodeV 0x29AD30E302B0CA = .ok (some (.vldb ⟨⟨0x5A, 3⟩, .reg 3, .zero, .cbuf, 0x2AB, none⟩)) ∧
    decodeV 0x2A2D3A63001040 = .ok (some (.vstb ⟨⟨0x5A, 3⟩, .pop 1, .zero, .abuf, 1⟩)) ∧
    decodeV 0x2AAD3089440041 = .ok (some (.vstbm ⟨⟨0x5A, 3⟩, .reg 2, .reg 9, .abuf, 0x40, 17⟩)) :=
  ⟨rfl, rfl, rfl, rfl⟩

theorem test_words_vector_conversions :
    decodeV 0x302D30C1091133 = .ok (some (.vcvt ⟨⟨0x5A, 3⟩, .reg 3, .reg 1, .reg 2, 2, 1, .e4m3, .bf16, .rtz, true⟩)) ∧
    decodeV 0x30AD300100050F = .ok (some (.vmaxexp ⟨⟨0x5A, 3⟩, .reg 1, .mxf4, 0xF⟩)) ∧
    decodeV 0x312D30C1000670 = .ok (some (.vqps2 ⟨⟨0x5A, 3⟩, .reg 3, .reg 1, .rdn, true⟩)) ∧
    decodeV 0x31AD30C18C7500 = .ok (some (.vpack ⟨⟨0x5A, 3⟩, .reg 3, .reg 1, .zero, .mxf4, 7⟩)) ∧
    decodeV 0x322D30C1001200 = .ok (some (.vunpack ⟨⟨0x5A, 3⟩, .reg 3, .reg 1, .f16, 1⟩)) ∧
    decodeV 0x382D30C1004000 = .ok (some (.vtget ⟨⟨0x5A, 3⟩, 3, .reg 1, 4⟩)) ∧
    decodeV 0x38AD30E0001000 = .ok (some (.vtset ⟨⟨0x5A, 3⟩, 3, .v0l, 1⟩)) ∧
    decodeV 0x392D30C0000000 = .ok (some (.vtzero ⟨⟨0x5A, 3⟩, 3⟩)) :=
  ⟨rfl, rfl, rfl, rfl, rfl, rfl, rfl, rfl⟩

theorem test_words_matrix_slots :
    decodeM 0x07F2D52000 = .ok (some (.mma ⟨31, 9, 6, true, false, true, false, true, true, false⟩)) ∧
    decodeM 0x0BF2D52000 = .ok (some (.mmaz ⟨31, 9, 6, true, false, true, false, true, true, false⟩)) ∧
    decodeM 0x04000A1000 = .ok (some (.mma ⟨0, 0, 0, false, true, false, true, false, false, true⟩)) ∧
    decodeM 0x0FF2DFA000 = .ok (some (.mrs ⟨31, 9, 6, true, true, true, true, true, true, true⟩)) ∧
    decodeM 0x1012C04000 = .ok (some (.malias ⟨9, 6, true⟩)) ∧
    decodeM 0x1412D20000 = .ok (some (.mnorm ⟨9, 6, true, false, false, true, false⟩)) ∧
    decodeM 0x1A20000000 = .ok (some (.mfro ⟨17⟩)) ∧
    decodeM 0x1E20002000 = .ok (some (.mscale ⟨17, true⟩)) ∧
    decodeM 0x2220000000 = .ok (some (.mzero ⟨17, false⟩)) ∧
    decodeM 0x2620000000 = .ok (some (.mtwait ⟨some 17⟩)) ∧
    decodeM 0x2402000000 = .ok (some (.mtwait ⟨none⟩)) :=
  ⟨rfl, rfl, rfl, rfl, rfl, rfl, rfl, rfl, rfl, rfl, rfl⟩

theorem test_words_copy_slots :
    decodeC 0x052B000000 = .ok (some (.cpy ⟨5, some 9, true, none⟩)) ∧
    decodeC 0x060AA800F1 = .ok (some (.cpy ⟨5, none, false, some ⟨.fmt .bf16, .viaRecord, .rup, true, false⟩⟩)) ∧
    decodeC 0x092B000000 = .ok (some (.cpys ⟨5, some 9, true⟩)) ∧
    decodeC 0x0D60000000 = .ok (some (.qclose ⟨11⟩)) ∧
    decodeC 0x112171FFFF = .ok (some (.cpyw ⟨9, 5, true, true, 0x1FFFF⟩)) ∧
    decodeC 0x152A807F07 = .ok (some (.gather ⟨5, 7, some 9, false, some ⟨.viaRecord, .fmt .i8, .rne, false, false⟩⟩)) ∧
    decodeC 0x1A0B000007 = .ok (some (.scatter ⟨5, 7, none, true, none⟩)) ∧
    decodeC 0x1D2B000000 = .ok (some (.coll ⟨5, some 9, true⟩)) ∧
    decodeC 0x2120000000 = .ok (some (.collw ⟨9, 0, false, false, 0⟩)) :=
  ⟨rfl, rfl, rfl, rfl, rfl, rfl, rfl, rfl, rfl⟩

/-! ## Step, reset, encodings -/

/-- ADD s5, s6, s7 (10 Table 10.11's word) with s6 = 40 and s7 = 2, as one step from placement; a literal bundle takes 25
units. -/
theorem test_step_add :
    let s := withS (withS (State.reset.withFetchWord 384 (0x0102_98E0_0000 <<< 32)) 6 40) 7 2
    (after (step s)).k.t.land = [⟨0, .s 5 42 STan.zero⟩] ∧ (after (step s)).k.t.pc = 25 := by
  decide +kernel

theorem witness_words_read_back :
    (∃ i w, i.wf = true ∧ encode i = some (.s w)) ∧ (∃ i w, i.wf = true ∧ encode i = some (.l w)) ∧
    (∃ i w, i.wf = true ∧ encode i = some (.v w)) ∧ (∃ i w, i.wf = true ∧ encode i = some (.xsv w)) ∧
    (∃ i w, i.wf = true ∧ encode i = some (.xvs w)) ∧ (∃ i w, i.wf = true ∧ encode i = some (.m w)) ∧
    ∃ i w, i.wf = true ∧ encode i = some (.c w) :=
  ⟨⟨.mov ⟨0, 1, 2⟩, _, rfl, rfl⟩, ⟨.blkrel ⟨0, 1⟩, _, rfl, rfl⟩, ⟨.vtzero ⟨⟨255, 0⟩, 1⟩, _, rfl, rfl⟩, ⟨.xsv ⟨1, 2⟩, _, rfl, rfl⟩,
   ⟨.xvs ⟨1, 2⟩, _, rfl, rfl⟩, ⟨.mfro ⟨3⟩, _, rfl, rfl⟩, ⟨.qclose ⟨3⟩, _, rfl, rfl⟩⟩
theorem witness_refused_opcodes : (0x28_0000_000000#48).extractLsb' 40 8 = 0x28 ∧ (0x2E_0000_000000#48).extractLsb' 41 7 = 0x17 ∧
    (1#48).extractLsb' 40 8 = 0 ∧ (1#56).extractLsb' 47 9 = 0 ∧ (1#40).extractLsb' 34 6 = 0 := by decide
/-- The state before a step of the bundle issue, its bundle fetched. -/
theorem witness_step_issues : let s : State := { base with agenda := [⟨0, 0, 0, 0, .bundleIssue⟩] }
    let s0 : State := { s with agenda := [], cur := 0, dsel := 0, unit := 0, item := 0 }
    s0.k.task = some placedTask ∧ canRun s0 0 = true ∧ s0.k.t.fl = none ∧ stopsHere s0 0 = false ∧ deliver s0 = none ∧
    s0.k.draining = none ∧ ok (fetchBundle s0 placedTask) = true := by
  decide +kernel
def addBundle : Bundle := Bundle.ofBits (0x0102_98E0_0000 <<< 32)
theorem witness_step_runs : addBundle.h = Header.ofBits 0 ∧ addBundle.l = 0 ∧ addBundle.x = 0 ∧ addBundle.v0 = 0 ∧ addBundle.v1 = 0 ∧
    addBundle.m = 0 ∧ addBundle.c0 = 0 ∧ addBundle.c1 = 0 ∧ decodeS addBundle.s = .ok (some (.add ⟨0, 5, 6, .reg 7⟩)) ∧
    slotOn base (.add ⟨0, 5, 6, .reg 7⟩) = true ∧ (stageEnables base.k.t base.k.t.pc).getLsbD 0 = true ∧ base.k.t.land = [] ∧
    base.k.t.loads = [] ∧ base.k.t.rep = none ∧ base.k.frozen = false ∧ base.k.t.fatal = none ∧
    pairFault base [(0, .add ⟨0, 5, 6, .reg 7⟩)] = none ∧ slotWaits base 0 (.add ⟨0, 5, 6, .reg 7⟩) = false :=
  ⟨by decide +kernel, by decide +kernel, by decide +kernel, by decide +kernel, by decide +kernel, by decide +kernel, by decide +kernel,
   by decide +kernel, rfl, by decide +kernel, by decide +kernel, by decide +kernel, by decide +kernel, by decide +kernel,
   by decide +kernel, by decide +kernel, by decide +kernel, by decide +kernel⟩
theorem witness_bundle_leaves : flying.k.frozen = false ∧ flying.k.t.fatal = none ∧ (∃ f, flying.k.t.fl = some f ∧ f.todo = [] ∧ f.rep = 0 ∧
    f.stall = 0 ∧ kOf f.sys ≤ kOf flying.k.t.sys ∧ innermost flying.k.t f.unit = none) :=
  ⟨by decide +kernel, by decide +kernel, ⟨_, by rfl, by decide +kernel⟩⟩
theorem witness_memory_canonical : Memory.wf base.mem = true ∧ went (step base) = true := by
  decide +kernel

/-! ## Scalar slots -/

/-- Guard 0 names sp0, which is true; guard 8 its complement. -/
theorem witness_guards : base.guard 0 = true ∧ base.guard 8 = false ∧ sGuardOf (.mov ⟨8, 1, 2⟩) = some 8 ∧
    base.enabled ⟨255, 0⟩ ≠ 0 ∧ base.enabled ⟨0, 0⟩ = 0 ∧ vGuardOf (.vtzero ⟨⟨0, 0⟩, 1⟩) = some ⟨0, 0⟩ ∧
    base.usesSR .rne = false ∧ base.usesSR .sr = true ∧ Fmt.i32.isInt = true ∧ Fmt.f32.isInt = false := by
  decide +kernel
/-- 11 R256 and R257 on the values of the rules' own tables. -/
theorem test_scalar_integers : let s := withS (withS base 6 0x8000_0000_0000_0000) 7 (-1)
    landed (exec (.add ⟨0, 5, 6, .reg 7⟩) s) = [⟨1, .s 5 0x7FFF_FFFF_FFFF_FFFF STan.zero⟩] ∧
    landed (exec (.div ⟨0, 5, 6, 7⟩) s) = [⟨18, .s 5 0x8000_0000_0000_0000 STan.zero⟩] ∧
    landed (exec (.mod ⟨0, 5, 6, 7⟩) s) = [⟨18, .s 5 0 STan.zero⟩] ∧
    landed (exec (.div ⟨0, 5, 7, 0⟩) s) = [⟨18, .s 5 (-1) STan.zero⟩] ∧
    landed (exec (.mod ⟨0, 5, 6, 0⟩) s) = [⟨18, .s 5 0x8000_0000_0000_0000 STan.zero⟩] ∧
    landed (exec (.mulh ⟨0, 5, 6, 7⟩) s) = [⟨3, .s 5 0 STan.zero⟩] ∧
    landed (exec (.mulhn ⟨0, 5, 6, 7⟩) s) = [⟨3, .s 5 0x7FFF_FFFF_FFFF_FFFF STan.zero⟩] ∧
    landed (exec (.minn ⟨0, 5, 6, .imm 0xFFFFF⟩) s) = [⟨1, .s 5 0x8000_0000_0000_0000 STan.zero⟩] := by
  decide +kernel
/-- 11's worked example: constants and bit counts on zero. -/
theorem test_worked_bit_counts : let s := withS base 2 0x0000_00F0_0000_0000
    landed (exec (.lih ⟨0, 2, 0, 0x00F0, 2⟩) base) = [⟨1, .s 2 0x0000_00F0_0000_0000 STan.zero⟩] ∧
    landed (exec (.clz ⟨0, 3, 2, .w64⟩) s) = [⟨1, .s 3 24 STan.zero⟩] ∧ landed (exec (.clz ⟨0, 4, 2, .w32⟩) s) = [⟨1, .s 4 32 STan.zero⟩] ∧
    landed (exec (.popc ⟨0, 5, 2, .w64⟩) s) = [⟨1, .s 5 4 STan.zero⟩] ∧ landed (exec (.ctz ⟨0, 6, 2, .w32⟩) s) = [⟨1, .s 6 32 STan.zero⟩] ∧
    landed (exec (.cmpeq ⟨0, 1, 4, .imm 32⟩) (withS base 4 32)) = [⟨1, .p 1 true⟩] := by
  decide +kernel
/-- Funnel shifts by 0 and by 4 (11 Table 11.1). -/
theorem test_funnels : let s := withS (withS base 6 0x1234) 7 0xF000_0000_0000_000A
    landed (exec (.fshl ⟨0, 5, 6, 7, 4⟩) s) = [⟨1, .s 5 0x1234F STan.zero⟩] ∧ landed (exec (.fshl ⟨0, 5, 6, 7, 0⟩) s) = [⟨1, .s 5 0x1234 STan.zero⟩] ∧
    landed (exec (.fshr ⟨0, 5, 6, 7, 4⟩) s) = [⟨1, .s 5 0x4F00_0000_0000_0000 STan.zero⟩] ∧
    landed (exec (.fshr ⟨0, 5, 6, 7, 0⟩) s) = [⟨1, .s 5 0xF000_0000_0000_000A STan.zero⟩] := by
  decide +kernel
/-- 1.0 + 1.5 in FP32, and -3 from .i8 to FP32; an unordered compare. -/
theorem test_scalar_floats : let s := withS (withS base 6 0x3F80_0000) 7 0x3FC0_0000
    landed (exec (.sfadd ⟨0, 5, 6, 7, .f32, .rne, false, false⟩) s) = [⟨4, .s 5 0x4020_0000 STan.zero⟩] ∧
    landed (exec (.sfcvt ⟨0, 5, 6, .i8, .f32, .rne, false⟩) (withS base 6 0xFD)) = [⟨4, .s 5 0xC040_0000 STan.zero⟩] ∧
    landed (exec (.sfcmp ⟨0, 1, 6, 6, .f32, .ne⟩) (withS base 6 0x7FC0_0000)) = [⟨4, .p 1 true⟩] ∧
    fault (exec (.sfadd ⟨0, 5, 6, 7, .f32, .sr, false, false⟩) s) = some ⟨1, 0, 0, 3⟩ := by
  decide +kernel
theorem witness_scalar_frame : landsOnly (.mov ⟨0, 1, 2⟩) = true ∧ floatRm (.mov ⟨0, 1, 2⟩) = none ∧ went (exec (.mov ⟨0, 1, 2⟩) base) = true ∧
    floatRm (.sfmul ⟨0, 1, 2, 3, .f32, .rup, false, false⟩) = some .rup ∧ base.usesSR .rup = false := by
  decide +kernel
theorem witness_landing : ({ TState.reset with land := [⟨3, .s 1 2 STan.zero⟩] } : TState).land = [⟨3, .s 1 2 STan.zero⟩] ∧
    ({ TState.reset with land := [⟨0, .p 1 true⟩] } : TState).land = [⟨0, .p 1 true⟩] := ⟨rfl, rfl⟩
theorem test_s0_discards : (withS base 0 7).sR 0 = 0 ∧ (Res.s 0 9 STan.zero).apply Regs.reset = Regs.reset := by
  decide +kernel
/-! ## Control flow, capabilities, system registers, traps, transfer slot -/

/-- The worked branch of 11: two units ahead; a CALL links the next bundle. -/
theorem test_branches :
    ((after (exec (.br ⟨0, 2⟩) flying)).k.t.fl.map Inflight.btgt) = some (some 7) ∧
    ((after (exec (.brc ⟨0, 6, .ltz, 0x1FFFFF⟩) (withS flying 6 1))).k.t.fl.map Inflight.btgt) = some none ∧
    landed (exec (.call ⟨0, 31, 2⟩) flying) = [⟨1, .s 31 6 STan.zero⟩] := by
  decide +kernel
theorem witness_transfers : flying.k.t.fl.isSome = true ∧ flying.guard 0 = true ∧ inBody flying 7 = true ∧
    (let s := flying.modT fun t => { t with loops := t.loops.set 0 { Loop.unbound with act := true, n := 3, ns := 1, bstart := 5, blen := 2 } }
     inBody s 7 = false ∧ inBody s 5 = true ∧ innermost s.k.t 5 = some 0) := by
  decide +kernel
def looped : State := flying.modT fun t => { t with loops := t.loops.set 0 { Loop.unbound with act := true, n := 3, ns := 1, step := 1, bstart := 5, blen := 2 } }
theorem witness_loop_binds : flying.k.t.fl.isSome = true ∧ (flying.k.t.loops.get 1).act = false ∧ innermost flying.k.t 5 = none ∧
    6 + 2 ≤ codeLen flying.k ∧ (looped.k.t.loops.get 0).act = true ∧ codeLen flying.k < 6 + 4095 := by
  decide +kernel
theorem test_loop_of_zero_passes : ((after (exec (.loop ⟨0, 1, 6, 7, 2, 0, 9⟩) flying)).k.t.fl.map Inflight.btgt) = some (some 8) := by
  decide +kernel
theorem witness_loop_passes : (∀ j : Fin 4, j ≠ 0 → (looped.k.t.loops.get j).act = false) ∧ (let l := looped.k.t.loops.get 0
    l.act = true ∧ l.bstart ≤ 6 ∧ 6 < l.bstart + l.blen ∧ l.pre = false ∧ l.tlevel = false ∧ l.lim = none ∧ l.pass + 1 < l.n + l.ns - 1) ∧
    (let l := { looped.k.t.loops.get 0 with pass := 2 }
     l.n + l.ns - 1 ≤ l.pass + 1) := by
  decide +kernel
/-- CNARROW inside its source keeps the tag; with a negative offset it clears it (01 R32). -/
theorem test_cnarrow : let s := withS (withS (withC base cap0) 6 0x100) 7 0x40
    landed (exec (.cnarrow ⟨0, 1, 0, 6, 7⟩) s) = [⟨1, .c 1 (Cap.mk' 0x7F 0 0x40 0x100 true)⟩] ∧
    ((landed (exec (.cnarrow ⟨0, 1, 0, 6, 7⟩) (withS s 6 (-1)))).map fun e => match e.res with | .c _ c => c.tag | _ => true) = [false] := by
  decide +kernel
theorem witness_system_registers : privMode user.k = false ∧ privMode base.k = true ∧ userAcc 0x01 = .none ∧ userAcc 0x20 = .rw ∧
    userAcc 0x2A ≠ .rw ∧ userAcc 0x22 = .rw ∧ samplingBusy base.k.mat = false ∧ (base.k.t.frames.toList.all fun f => !f.f) = true := by
  decide +kernel
theorem test_system_registers : landed (exec (.mfsr ⟨0, 4, 0x020⟩) base) = [⟨1, .s 4 0x20 STan.zero⟩] ∧
    fault (exec (.mfsr ⟨0, 4, 1⟩) user) = some ⟨3, 1, 0, 0⟩ ∧ fault (exec (.mtsr ⟨0, 4, 0x2A⟩) user) = some ⟨3, 0, 0, 0⟩ ∧
    (after (exec (.mtsr ⟨0, 6, 0x20⟩) (withS base 6 0xFFE7))).k.t.sys.fpctl = 0xE0 := by
  decide +kernel
theorem test_trap_is_taken : fault (exec (.trap ⟨0, 5⟩) base) = some ⟨23, 5, 0, 0⟩ := by
  decide +kernel
theorem witness_trap_enters : base.k.task = some placedTask ∧ entersHandler base.k 23 = false ∧ entersHandler mapped.k 23 = true ∧
    (match writeFrame mapped 0 mappedTask with | .queued _ => true | _ => false) = true := by
  decide +kernel
theorem test_trap_entry : let t := after (exec (.trap ⟨0, 5⟩) mapped)
    t.k.t.pc = 0 ∧ t.k.t.sys.status = 7 ∧ t.k.t.sys.cause = 0x175 ∧ t.k.t.fatal = none := by
  decide +kernel
theorem witness_rett : privMode base.k = true ∧ base.k.t.loads = [] ∧ base.k.wq = [] ∧ base.k.task = some placedTask ∧
    (∀ i : Fin 4, (base.k.t.loops.get i).act = false) ∧ privMode user.k = false := by
  decide +kernel
theorem test_transfer_slot : let s := base.modSys fun y => { y with xlane := 0x8385 }
    ((after (exec (.xsvl ⟨6, 1⟩) s)).k.t.sys.xlane) = 0x8386 ∧ ((after (exec (.xvs ⟨6, 1⟩) s)).k.t.sys.xlane) = 0x8485 ∧
    landed (exec (.xpsAny ⟨6, 0⟩) base) = [⟨3, .s 6 1 STan.zero⟩] := by
  decide +kernel

/-! ## Accesses -/

def access : State := withC base cap0
theorem witness_capability_checks : cap0.tag = true ∧ permErr cap0.perms .rd = none ∧ Cap.null.tag = false ∧
    capErr cap0 .rd 65528 8 = none ∧ capErr cap0 .rd 65529 8 = some 9 ∧ capErr cap0 .rd (-1) 8 = some 8 ∧
    capErr (Cap.mk' 0 0 64 0 true) .rd 0 8 = some 1 ∧ capErr (Cap.mk' 0 0 64 0 true) .wr 0 8 = some 2 := by
  decide +kernel
theorem witness_translation : tlbFind base.k.tlb 0 0x10 = some placedLeaf ∧ leafErr placedLeaf.pte true ⟨true, false, false⟩ = none ∧
    pteD placedLeaf.pte = true ∧ tlbFind base.k.tlb 0 0x1000 = none ∧ base.k.walkAns = none ∧ (base.die 0).walkQ = [] := by
  decide +kernel
theorem test_walk_serves : let s := mapped.modDie 0 fun d => { d with walkQ := [⟨0, 0, 0x5000, 0x1000, true, ⟨false, false, false⟩⟩] }
    ok (walk s 0 0 0x1000 0x5000) = true ∧ ((after (exec .pageWalk s)).k.tlb.map fun e => (e.page, e.bits)) = [(0, 30)] ∧
    (match walk s 0 0 0x7000 0x5000 with | .error (.bad _ d _) => some d | _ => none) = some 0 := by
  and_intros <;> decide +kernel
theorem witness_walk : ∃ s : State, (s.die s.dsel).walkQ = [⟨0, 0, 0x1000, 0, true, ⟨false, false, false⟩⟩] :=
  ⟨base.modDie base.dsel fun d => { d with walkQ := [⟨0, 0, 0x1000, 0, true, ⟨false, false, false⟩⟩] }, by decide +kernel⟩
/-- A 32-bit load at 0x10 joins the pending loads; misaligned vector and capability accesses raise theirs. -/
theorem test_loads_and_stores : ((after (exec (.ldN32 ⟨0, 5, ⟨0, 0, 4⟩⟩) access)).k.t.loads.map PLoad.segs) = [[(16, 4)]] ∧
    fault (exec (.ldv ⟨0, 5, ⟨0, 0, 1⟩⟩) access) = some ⟨6, 0, 64, 0⟩ ∧ fault (exec (.cld ⟨0, 5, ⟨0, 6, 0⟩⟩) (withS access 6 8)) = some ⟨4, 12, 0, 0⟩ ∧
    ((after (exec (.stI16 ⟨0, 6, ⟨0, 0, 3⟩⟩) (withS access 6 0xBEEF))).k.wq.map fun e => (e.line, e.mask.toNat, e.data.extractLsb' 48 16))
      = [(0, 0xC0, 0xBEEF)] := by
  decide +kernel
theorem witness_loads_issue : capErr cap0 .rd 16 4 = none ∧ ok (loadPieces access cap0 16 4) = true ∧
    ok (xlatePieces access false (mmioFit 16 4) (plainPieces 16 4)) = true ∧ capErr cap0 .rd 512 512 = none ∧
    ok (xlatePieces access false false (plainPieces 512 512)) = true ∧ 16 % 4096 + 4 ≤ 4096 ∧ ok (lsTarget access 16 16 false true) = true ∧
    ok (lsStore access cap0 [(16, [1, 2])] false false (mmioFit 16 2)) = true ∧
    ok (lsStore access cap0 [(512, List.replicate 512 1)] true true) = true := by
  decide +kernel
def line0 : L1Line := { line := 0, way := 0, data := 0x1122_3344, tags := 0, owned := true, dirty := false, wts := 3, rts := 5, lend := 9 }
def entry0 : WEntry := { line := 0, data := 0xAABB, mask := 3, tags := 0, group := 0, va := 0 }
/-- A load of four bytes at 0 is pending and line 0 stands in the L1. -/
def loading : State := base.modK fun k => { k with l1 := [line0], t := { k.t with loads := [⟨.s 5 4 true, [(0, 4)], [], 0, none, 0, 0, false⟩] } }
theorem witness_loads_complete : loading.k.t.aside = none ∧ (loading.k.t.loads.map PLoad.segs) = [[(0, 4)]] ∧ target 0 = .dev 0 ∧
    Sparse.get false loading.poison 0 = false ∧ findL1 loading.k 0 = some line0 ∧ (after (exec .loadValueArrival loading)).sR 5 = 0x1122_3344 ∧
    (let s := loading.modK fun k => { k with wq := [{ entry0 with mask := 15 }], t := { k.t with loads := k.t.loads.map fun l => { l with older := 1 } } }
     (s.k.t.loads.head?.bind (forwardOf s.k)).isSome = true) := by
  decide +kernel
theorem witness_home_request : findL1 base.k 0 = none ∧ ok (homePrep base 0 0) = true ∧ Sparse.get 0 base.hostHeld 0 = 0 ∧
    (findL1 (after (exec (.lsHomeRequest 0 true) base)).k 0).isSome = true := by
  decide +kernel
def draining : State := base.modK fun k => { k with l1 := [line0], wq := [entry0] }
/-- A drained store merges its two bytes and takes a timestamp above the lease read (07 R165). -/
theorem test_drain : draining.k.wq = [entry0] ∧ findL1 draining.k 0 = some line0 ∧ (∀ x ∈ allLoads draining.k, x.older ≠ 0) ∧
    ((findL1 (after (exec .writeQueueDrain draining)).k 0).map fun l => (l.data, l.dirty, l.wts)) = some (0x1122_AABB, true, 6) := by
  decide +kernel

/-! ## Atomics, fences, shoot-down -/

def addAtom : Atomic :=
  { op := .add, wide := false, pa := 0x100, va := 0x100, v := 5, c := 0, ftz := false, tx := 0, phase := .sent }
def sent : State := access.modK fun k => { k with atom := some addAtom }
def answered : State := access.modK fun k => { k with atom := some { addAtom with phase := .answered 7 4 } }
theorem witness_atomics : access.k.atom = none ∧ capErr cap0 .atm 0x100 4 = none ∧ ok (lsXlate access access.lsAsid true 0x100 ⟨true, false, false⟩) = true ∧
    target 0x100 = .dev 0 ∧ lsQuiet access.k = true ∧ (after (exec (.amoaddI32 ⟨0, 3, ⟨0, 0, 64⟩, 6⟩) access)).k.atom.isSome = true ∧
    fault (exec (.amoaddI32 ⟨0, 3, ⟨0, 6, 0⟩, 6⟩) (withS access 6 2)) = some ⟨17, 0, 0, 0⟩ ∧ sent.k.atom = some addAtom ∧
    applied? sent 0 0 0 = none ∧ Sparse.get false sent.poison 2 = false ∧ ok (homeRead sent 0 0x100 4) = true ∧
    ok (homeWrite sent 0 0x100 [5, 0, 0, 0]) = true ∧ (applied? (after (exec .atomicAtHome sent)) 0 0 0).map (fun a => (a.old, a.ts)) = some (0, 1) ∧
    rdByte (after (exec .atomicAtHome sent)) 0x100 = 5 ∧ routeErr sent 0 0 false = none ∧
    (after (exec (.amoaddI32 ⟨0, 3, ⟨0, 0, 64⟩, 6⟩) answered)).sR 3 = 7 := by
  decide +kernel
/-- Event 1 stands at 3 with no waiter; core 0 names it. -/
def evented : State := wrBytes (withC mapped cap0) 0x20024 [3]
theorem witness_event_atomics : let s := after (exec (.signal ⟨0, 5, ⟨0, 1⟩⟩) (withS evented 5 1))
    s.k.atom.map (fun a => (a.op, a.c, a.v)) = some (.signal, 1, 1) ∧ (after (exec .atomicAtHome s)).homeTab = [⟨0, 0, 0, 0, 1⟩] ∧
    fault (exec (.amoaddI32 ⟨0, 3, ⟨0, 0, 64⟩, 6⟩) (access.modK fun k => { k with atom := some { addAtom with phase := .lost } }))
      = some ⟨17, 2, 256, 0⟩ := by and_intros <;> decide +kernel
theorem witness_fences : (LFence.mk 0 0 2 8).pred ≠ 0 ∧ fenceDone base 8 = true ∧ (base.die 0).coll = [] ∧
    fault (exec (.pfence ⟨0, 0, 0, 8⟩) base) = some ⟨18, 0, 0, 0⟩ ∧ fault (exec (.pfence ⟨0, 5, 2, 8⟩) base) = some ⟨18, 1, 0, 0⟩ := by
  decide +kernel
def shooting : State := { base with invs := [⟨0, .all, [.core 0], [.core 1], none⟩] }
theorem witness_shoot_down : base.k.tlbinv = none ∧ lsQuiet base.k = true ∧ base.invs = [] ∧ agentDie (.core 0) = coreDie shooting.cur ∧
    (shooting.invs.find? fun i => i.core == shooting.cur).isSome = true ∧ (after (exec (.tlbinvAgentRequest (.core 0)) shooting)).k.tlb = [] ∧
    agentQuiet base 0 (.core 1) = true ∧
    (let s := { shooting with invs := [⟨0, .all, [], [], none⟩], now := 400 }.modK fun k => { k with tlbinv := some 100 }
     (after (exec .tlbinvComplete s)).k.tlbinv = none) := by
  decide +kernel

/-! ## Vector slots -/

def ones : Row := BitVec.ofNat 4096 (elemsNat 32 (fun _ => 0x3F80_0000) 128 0)
/-- v1 holds 1.0 in every lane, v2 the lane numbers. -/
def vec : State := withV (withV flying 1 ones) 2 (BitVec.ofNat 4096 (elemsNat 32 id 128 0))
def vecF : State := vec.modT fun t => { t with fl := t.fl.map fun f => { f with regs := t.regs } }
def g0 : VG := ⟨0xFF, 0⟩
/-- One lane of the only vector result in the landing queue. -/
def vlane (r : Res1) (l : Nat) : Option (Nat × Nat) :=
  match landed r with
  | [⟨n, .v _ _ _ x _⟩] => some (n, lane x l)
  | _ => none
theorem witness_vector_slots : vecF.enabled g0 ≠ 0 ∧ ok (gather vecF [.reg 1] false) = true ∧ ok (gather vecF [.reg 1, .reg 2] false) = true ∧
    ok (gather vecF [.reg 1, .reg 2, .zero] false) = true ∧ ok (gather vecF [] false) = true ∧
    (vecParts vecF (.vadd ⟨g0, .reg 3, .reg 1, .reg 1, .f32, .rne, false, false⟩)).isSome = true ∧
    ok (gather (vecF.modT fun t => { t with rbq := [⟨1, false⟩], fl := t.fl.map fun f => { f with rbq := some ⟨1, false⟩ } }) [.reg 1] true) = true := by
  decide +kernel
theorem test_vector_floats : vlane (exec (.vadd ⟨g0, .reg 3, .reg 1, .reg 1, .f32, .rne, false, false⟩) vecF) 127 = some (4, 0x4000_0000) ∧
    vlane (exec (.vsub ⟨g0, .reg 3, .zero, .reg 1, .f32, .rne, false, false⟩) vecF) 0 = some (4, 0xBF80_0000) ∧
    vlane (exec (.vsqrt ⟨g0, .reg 3, .reg 1, .f32, .rne, false⟩) vecF) 5 = some (8, 0x3F80_0000) ∧
    vlane (exec (.vneg ⟨g0, .reg 3, .reg 1, .f32⟩) vecF) 9 = some (4, 0xBF80_0000) := by
  decide +kernel
theorem test_vector_integers : vlane (exec (.viadd ⟨g0, .reg 3, .reg 2, .reg 2, .i32, false⟩) vecF) 100 = some (2, 200) ∧
    vlane (exec (.vshl ⟨g0, .reg 3, .reg 2, .reg 2, .n32⟩) vecF) 33 = some (2, 66) ∧
    vlane (exec (.viadd ⟨g0, .reg 3, .reg 2, .reg 2, .i8, true⟩) vecF) 100 = some (2, 127) := by
  decide +kernel
/-- 12 R301, R302, R299. -/
theorem test_vector_lanes : vlane (exec (.vbcastl ⟨g0, .reg 3, .reg 2, 69, true⟩) vecF) 20 = some (6, 21) ∧
    vlane (exec (.vxsec ⟨g0, .reg 3, .reg 2, .reg 2, 1, .up⟩) vecF) 0 = some (6, 127) ∧
    vlane (exec (.vxsec ⟨g0, .reg 3, .reg 2, .reg 0, 7, .rot⟩) vecF) 17 = some (6, 1) ∧
    vlane (exec (.vgsum ⟨g0, .reg 3, .reg 2, .i32, 1, .rne, false⟩) vecF) 6 = some (4, 22) ∧
    vlane (exec (.vgmax ⟨g0, .reg 3, .reg 2, .i32, 3, .rne, false⟩) vecF) 17 = some (4, 31) ∧
    vlane (exec (.vsel ⟨g0, .reg 3, .reg 2, .zero, 0⟩) vecF) 3 = some (2, 3) := by
  decide +kernel
def withRow (s : State) (b : Buf) (r : Nat) (x : Row) : State := s.modK fun k => putRow k b r x
theorem witness_vector_buffers : vbReady vecF.k .wbuf 70 = some vecF.k ∧ vecF.rowOp .zero 70 = 70 ∧ bufRows .cbuf ≤ 4096 ∧
    vlane (exec (.vldb ⟨g0, .reg 3, .zero, .abuf, 5, none⟩) (withRow vecF .abuf 5 ones)) 8 = some (5, 0x3F80_0000) ∧
    lane (bufRow (after (exec (.vstb ⟨⟨1, 0⟩, .reg 1, .zero, .abuf, 9⟩) vecF)).k .abuf 9) 15 = 0x3F80_0000 ∧
    lane (bufRow (after (exec (.vstb ⟨⟨1, 0⟩, .reg 1, .zero, .abuf, 9⟩) vecF)).k .abuf 9) 16 = 0 := by
  decide +kernel
/-- 04 R114's example: in a one-byte square at rows 64 to 95 a transposed read of row 65 starts with byte 4 of row 64. -/
theorem test_transposed_row :
    rowByte (readRow (withRow vecF .wbuf 64 (BitVec.ofNat 4096 (0xCD * 2 ^ 32))).k .wbuf (some .i8) 65) 0 = 0xCD := by
  decide +kernel
/-- 12 R306, R311, R316: a conversion of 1.0, packing and unpacking, tangent operations outside a dual bundle. -/
theorem test_conversions : vlane (exec (.vcvt ⟨g0, .reg 3, .reg 1, .zero, 0, 0, .f32, .i32, .rne, false⟩) vecF) 7 = some (3, 1) ∧
    vlane (exec (.vunpack ⟨g0, .reg 3, .reg 2, .n8, 0⟩) vecF) 4 = some (3, 1) ∧
    vlane (exec (.vpack ⟨g0, .reg 3, .reg 2, .zero, .n8, 0⟩) vecF) 1 = some (3, 0x0706_0504) ∧
    (Instr.vpack ⟨g0, .reg 3, .reg 2, .zero, .n8, 0⟩).wf = true ∧ (Instr.vunpack ⟨g0, .reg 3, .reg 2, .n8, 0⟩).wf = true ∧
    fault (exec (.vtget ⟨g0, 3, .reg 1, 2⟩) vecF) = some ⟨13, 1, 0, 0⟩ ∧ went (exec (.vtzero ⟨g0, 3⟩) vecF) = true := by
  decide +kernel
theorem witness_vector_operands : (∃ f, flying.k.t.fl = some f ∧ f.pops = []) ∧ VSrc.pops (.reg 3) = [] ∧
    (getStream flying.k.t 2).bind = .unbound ∧
    (let s := flying.modT fun t => putStream t 2 ⟨.drain, [], 3, false, false⟩
     ok (outV s 2 (.push 2) 3 1 ones VTan4.zero) = true) ∧
    (let s := flying.modT fun t => { t with fl := t.fl.map fun f => { f with pops := [⟨2, none, ones⟩] } }
     ok (gather s [.pop 2] false) = true) := ⟨⟨_, by rfl, by decide +kernel⟩, by decide +kernel, by decide +kernel, by decide +kernel, by decide +kernel⟩

/-! ## Blocks, probes, events, activation lists -/

def blk (n : BitVec 7) : LBlk := ⟨0, 3, n, ⟨0, 0, 0⟩, none⟩
/-- A block of two lines under flag 3, one of them here. -/
def blocked : State := (after (exec (.ldblk (blk 2)) (access.modK fun k => { k with l1 := [line0] })))
theorem witness_load_blocks : base.guard 0 = true ∧ capErr cap0 .rd 0 256 = none ∧ claimable (getFlag access.k.t 3) = true ∧
    (match blockLines access 0 2 with | .ok x => x.2.filterMap Prod.snd | .error _ => []) = [0, 1] ∧ pinnedIn access.k [0, 1] 0 ≤ 12 ∧ blockHeld access.k = [] ∧
    fault (exec (.ldblk (blk 0)) access) = some ⟨9, 1, 0, 0⟩ ∧ fault (exec (.ldblk ⟨0, 3, 1, ⟨0, 6, 0⟩, none⟩) (withS access 6 8)) = some ⟨9, 2, 8, 0⟩ ∧
    (findBlock blocked.k 3).map (fun b => (b.filled, b.left, b.released)) = some ([0], [⟨0, some (0, 0)⟩, ⟨1, some (1, 0)⟩], false) ∧ (getFlag blocked.k.t 3).state = 1 ∧
    fault (exec (.ldblk (blk 1)) blocked) = some ⟨9, 0, 0, 0⟩ ∧ fault (exec (.ldblk ⟨0, 4, 1, ⟨0, 0, 0⟩, none⟩) blocked) = some ⟨9, 4, 0, 0⟩ := by
  and_intros <;> decide +kernel
def filledBlock : State := after (exec .ldblkFillDone { blocked with unit := 3 })
theorem witness_block_fills : (match fillLines { blocked with unit := 3 } 0 3 true [1] with | .done _ => true | _ => false) = true ∧ (getFlag filledBlock.k.t 3).state = 2 ∧
    (findL1 filledBlock.k 1).isSome = true ∧
    (let s := { after (exec (.ldblk ⟨0, 3, 2, ⟨0, 0, 31⟩, none⟩) access) with unit := 3 }
     (match fillLines s 0 3 true [31, 32] with | .fail _ c d a => some (c, d, a) | _ => none) = some (5, 1, 0x1000) ∧ (getFlag (after (exec .ldblkFillFail s)).k.t 3).cause = 0x51) ∧
    findBlock base.k 3 = none ∧ fault (exec (.blkrel ⟨0, 3⟩) base) = some ⟨9, 5, 0, 0⟩ ∧
    getFlag (after (exec (.blkrel ⟨0, 3⟩) filledBlock)).k.t 3 = FlagSt.idle ∧ went (exec (.blkwait ⟨0, 3⟩) blocked) = true := by
  and_intros <;> decide +kernel
theorem witness_prefetch : capErr cap0 .rd 0 1 = none ∧ ok (lsXlate access access.lsAsid (privMode access.k) 0 ⟨false, false, false⟩) = true ∧
    ok (lsTarget access 0 0 false true) = true ∧ findL1 access.k 0 = none ∧ ok (grantLease access 0 0) = true ∧
    (findL1 blocked.k 0).isSome = true ∧ capErr Cap.null .rd 0 1 = some 0 := by
  and_intros <;> decide +kernel
/-- A frame table of two frames, block 0 in frame 1; the bundle is in flight. -/
def framed : State := (withC base cap0).modT fun t => putFrame { t with
  sys := { t.sys with abft := 2 }, fl := some { fl0 with regs := t.regs, sys := { t.sys with abft := 2 } } } 1 ⟨true, false, false, false, false, 0, 0⟩
theorem witness_probes : framed.k.t.fl.isSome = true ∧ inBody framed 7 = true ∧ frameCount framed.k.t.sys = 2 ∧
    capErr cap0 .rd 0 16384 = none ∧ (victim framed.isys framed.k.t).2 = some 0 ∧ engineLoad (framed.engine (engineFor 0 0)) < 32 ∧
    landed (exec (.probePin ⟨0, 5, ⟨0, 0, 0⟩, 2⟩) framed) = [⟨1, plain 5 1⟩] ∧ landed (exec (.probeUnpin ⟨0, 5, ⟨0, 0, 1⟩, 2⟩) framed) = [⟨1, plain 5 (-1)⟩] ∧
    landed (exec (.probeLookup ⟨0, 5, ⟨0, 0, 1⟩, 2⟩) framed) = [⟨1, plain 5 0⟩] ∧ (after (exec (.probeLookup ⟨0, 5, ⟨0, 0, 1⟩, 2⟩) framed)).k.t.fl.map Inflight.btgt = some (some 7) ∧
    fault (exec (.probeLookup ⟨0, 5, ⟨0, 0, 0⟩, 2⟩) (access.modT fun t => { t with fl := some { fl0 with regs := t.regs } })) = some ⟨9, 7, 0, 0⟩ := by
  and_intros <;> decide +kernel
def evAt : EvAt := ⟨0, mapped.k.ctx, 0⟩
theorem witness_events : (match evAt.rd evented (evVa mapped.k.ctx 1) 32 with | .ok x => (EvEntry.ofNat x.2).count | .error _ => 0) = 3 ∧
    fault (exec (.evquery ⟨0, 5, ⟨0, 16⟩⟩) evented) = none ∧ (mapped.isys.etcnt.extractLsb' 0 17).toNat = 16 ∧
    ok (lsXlate evented 0 true (evVa evented.k.ctx 1) ⟨false, false, false⟩) = true ∧ ok (lsTarget evented 0x20020 0x20020 false true) = true ∧
    lsQuiet evented.k = true ∧ ok (lsReadHome evented 0 0x20020 8) = true := by decide +kernel
/-- Signalling 09's way: 3 - 3 releases the task that waits. -/
theorem test_signal_releases : let s := wrBytes evented 0x20020 [0, 0, 1, 0, 3, 0, 0, 0, 0, 0, 0, 0, 0, 0, 0, 0, 18]
    (match evAt.signal s 1 3 with | .ok x => bytesToNat (rdBytes x.1 0x20020 8) | .error _ => 1) = 0 ∧
    (match evAt.park s 1 20 with | .ok x => (x.2.isNone, bytesToNat (rdBytes x.1 0x20020 8)) | .error _ => (false, 1)) = (true, 0x3_0002_0000) := by
  decide +kernel
/-- Core 0's bundle waits at a WAITEV since cycle 0, beyond its spin limit. -/
def spinning : State := { evented with now := 5000 }.modT fun t => { t with
  fl := some { fl0 with regs := t.regs, sys := t.sys, todo := [(1, .run (.waitev ⟨0, ⟨0, 1⟩⟩))], slot := 1, since := some 0 } }
theorem witness_waitev : frozenWaitev spinning.k = some (⟨0, ⟨0, 1⟩⟩, 0) ∧ spinLimit spinning.k ≤ 5000 ∧ saveSlot spinning mappedTask = some 0 ∧
    spinning.k.task = some mappedTask ∧ spinning.k.parking = .no ∧ (after (exec .waitevSpinLimit spinning)).k.parking = .parked ∧
    quietFor { spinning with engines := spinning.engines } 0 = true := by decide +kernel
def savedTask : Saved :=
  { uid := 7, task := { placedTask with uid := 7 }, t := { spinning.k.t with sys := { Sys.reset with cause := 0xE2 } }, slot := 0, pts := 9, die := 0
    abuf := none, wbuf := none, cbuf := none, norms := none, table := none }
theorem witness_resume : taskToken 7 = (14 : BitVec 32).toNat ∧ savedTask.t.sys.cause = 0xE2 ∧ (savedTask.t.fl.map fun f => f.todo.length) = some 1 ∧
    (∀ d, ∀ e ∈ (base.die d).ready, e.uid ≠ some 7) ∧ (∀ c, (base.core c).loading ≠ some (some 7)) ∧
    ((after (exec (.resume 14) { base with saved := [savedTask] })).die 0).ready.length = 1 := by decide +kernel
/-- List 0 of core 0's context: 6 tiles in rows of 3. -/
def listed : State := wrBytes mapped 0x40000 ([6, 0, 0, 3, 0, 0, 0, 0x80] ++ natToBytes 8 0x41000 ++ natToBytes 8 0x42000 ++ natToBytes 8 0x43000)
def listPtr : Ptr := ⟨0, mapped.k.ctx⟩
/-- Tile 4 with its four neighbours, and the update the Pointer has accepted. -/
theorem witness_activation : (match listPtr.desc listed 0 with | .ok x => (x.2.v, x.2.err, x.2.size, x.2.w) | .error _ => (false, true, 0, 0)) = (true, false, 6, 3) ∧
    neighbours ⟨0, 0x8000_0000_0300_0006, 0, 0, 0, 0⟩ .four 4 = [1, 3, 5] ∧ neighbours ⟨0, 0x8000_0000_0300_0006, 0, 0, 0, 0⟩ .eight 0 = [1, 3, 4] ∧
    (let s := { listed with dsel := 0 }.modDie 0 fun x => { x with ptr := [⟨0, 0, listed.k.ctx, 0, 4, true, .none⟩] }
     let t := after (exec .activationUpdateApply s)
     (t.die 0).ptr = [] ∧ rdByte t 0x41000 = 16 ∧ rdByte t 0x43000 = 4 ∧ rdByte t 0x40020 = 1) := by decide +kernel

/-! ## Tasks, grids and queues -/

def level4 : Level := { extent := 4, start := 0, step := 1, kind := 1, list := false, listn := 0, ireg := 0, nstg := 0 }
/-- A grid of four tasks. -/
def grid4 : Grid :=
  { gid := 0, tag := 0, queue := 70, qdie := 0, pkt := ⟨0, 0⟩, ctx := placedCtx, img := { Img.none with levels := [level4] }, level := 3, depth := 0
    parent := none, total := 4, started := [0, 0, 0, 0], done := 0, cancelled := false, children := 0, launches := 0, cause := none, waiting := none
    dieOf := 0, draws := [], mwts := 0, prev := none, entered := true }
def entry4 : Ready := ⟨0, 0, none, 3, 0⟩
/-- The grid's entry is ready on die 0; core 0 is busy. -/
def gridded : State := { base with grids := [grid4] }.modDie 0 fun d => { d with ready := [entry4] }
theorem witness_dispatch : headEntry gridded 0 (fun _ => true) = some entry4 ∧ pickCore gridded 0 (pavhOf gridded 0) = some 1 ∧
    (gridded.die 0).dom = .running ∧ entrySize gridded entry4 = 4 ∧ levelOf gridded 0 = 3 ∧
    (let s := after (exec .dispatch gridded)
     ((s.core 1).task.map Task.idx) = some 0 ∧ (s.core 1).loading = some none ∧ (findGrid s 0).map Grid.started = some [1, 0, 0, 0]) := by decide +kernel
def migrating : State := { base with dsel := 1, grids := [{ grid4 with pkt := ⟨1#1024 <<< 55, 0⟩, total := 20, img := { Img.none with levels := [{ level4 with extent := 20 }] } }] }.modDie 0
  fun d => { d with ready := [entry4], rebal := 8 }
theorem witness_steal : (let s := migrating.modDie 1 fun d => { d with dom := .running }
    (s.die 1).dom = .running ∧ readyCount s 1 = 0 ∧ stealFrom s 1 = some 0 ∧ headEntry s 0 (migratable s) = some entry4 ∧
    pickCore s 1 (pavhOf s 0) = some 36) := by decide +kernel
theorem witness_ageing : entry4.level < 10 ∧ entry4.since + ageInterval (base.die 0) ≤ 2 ^ 40 ∧
    (((after (exec .ageingPromotion { gridded with now := 2 ^ 40 })).die 0).ready.map Ready.level) = [4] := by decide +kernel
/-- The task's descriptor lies at 0x8000: privileged, of context 0. -/
def placed : State := (wrBytes base 0x8000 (natToBytes 8 (2 ^ 17))).modK fun k => { k with
  loading := some none, dictKid := some 0, task := some { placedTask with ctx := { placedCtx with ctxpa := 0x8000 } } }
theorem witness_loading : placed.k.loading = some none ∧ ok (ctxNow placed 0 { placedTask with ctx := { placedCtx with ctxpa := 0x8000 } }) = true ∧
    (after (exec .taskLoading placed)).k.loading = none ∧ (after (exec .taskLoading placed)).k.t.sys.status = 1 := by decide +kernel
theorem witness_switch_in : (let s := { base with saved := [savedTask] }.modK fun k => { k with loading := some (some 7), dictKid := some 0, task := none }
    s.k.loading = some (some savedTask.uid) ∧ s.saved.find? (fun y => y.uid == 7) = some savedTask ∧ s.k.dictKid = some savedTask.task.img.kid ∧
    ok (readSlot s 0 savedTask.task 0 savedTask.t) = true ∧
    (match freshCtx s 0 savedTask.task savedTask.t with | .ok x => x.2.1.img.kid == 0 | .error _ => false) = true ∧
    (after (exec .switchIn s)).k.task.map Task.uid = some 7) := by decide +kernel
def pending : State := base.modT fun t => { t with pend := [⟨⟨20, 0, 0, 0⟩, false⟩] }
theorem witness_boundary : canRun pending 0 = true ∧ stopsHere pending 0 = false ∧ pending.k.t.fl = none ∧ topPend pending.k.t = some ⟨⟨20, 0, 0, 0⟩, false⟩ ∧
    (let s := (base.modSys fun y => { y with prebound := 5, wdog := 7 * 2 ^ 32 + 7 }).modK fun k => { k with preempt := true, t := { k.t with pbcnt := 6 } }
     trapMode s.k = false ∧ s.k.loading = none ∧ s.k.t.fatal = none ∧ (after (exec .preboundExceeded s)).k.t.pend = [⟨⟨16, 4, 0, 0⟩, false⟩] ∧
     fault (exec .watchdogExpiry s) = some ⟨21, 0, 0, 0⟩) := by decide +kernel
/-- Core 0 is asked to leave; the bundle at PC has its Q bit. -/
def asked : State := wrBytes (mapped.modK fun k => { k with preempt := true }) 0 (natToBytes 2 0xFFFF ++ [0x10, 0, 0, 0])
theorem witness_preempt : atBoundary asked = true ∧ saveSlot asked mappedTask = some 0 ∧ quietFor asked 0 = true ∧ asked.k.draining = none ∧
    asked.k.task = some mappedTask ∧ topPend asked.k.t = none ∧
    (let s := asked.modT fun t => { t with atPass := true, loops := t.loops.set 0 { Loop.unbound with act := true, n := 3, ns := 1, blen := 50 } }
     innermost s.k.t s.k.t.pc = some 0 ∧ (s.k.t.loops.get 0).pass < (s.k.t.loops.get 0).iters ∧
     (s.modK fun k => { k with draining := some (0, 1) }).k.draining = some ((0 : Fin 4).val, 1)) := by decide +kernel
theorem witness_q_bundle : atQBundle asked mappedTask = true := by decide +kernel
theorem witness_stops : (let s := base.modT fun t => { t with fatal := some ⟨23, 1, 0, 0⟩ }
    s.k.task = some placedTask ∧ (after (exec .gridFatalFault s)).k.task = none) ∧ base.pln = none ∧
    ((after (exec (.prmpt 1) base)).core 0).preempt = true ∧ ((after (exec (.dbghalt 5) base)).die 0).dbghalt = 5 := by decide +kernel
/-- Queue 64 of core 0's context is resident on die 0: 8 slots at 0x53000. -/
def queued : State := (wrBytes mapped 0x51000 (natToBytes 8 (2 ^ 63 + 3 * 2 ^ 54) ++ natToBytes 8 0x52000 ++ natToBytes 8 0x53000)).modDie 0
  fun d => { d with qtbase := 0x50000, qslots := [some ⟨64, 1, 0, false, false, 0⟩] }
def q64 : QCtx := ⟨2 ^ 63 + 3 * 2 ^ 54, 0x52000, 0x53000, 0, 0⟩
def slot64 : QSlot := ⟨64, 1, 0, false, false, 0⟩
theorem witness_launch : capErr cap0 .rd 0 128 = none ∧ ok (lsXlate queued queued.lsAsid true 0 ⟨false, false, false⟩) = true ∧
    pteTagc wideLeaf.pte = true ∧ ok (lsTarget queued 0 0 false true) = true ∧ queued.k.task = some mappedTask ∧ mappedTask.depth < 8 ∧ lsQuiet queued.k = true ∧
    ok (lsReadHome queued 0 0 128) = true ∧ slotOfQueue queued 64 = some (0, slot64) ∧ q64.v = true ∧ q64.host = false ∧ q64.asid = queued.lsAsid ∧
    (slot64.tail - slot64.head).toNat ≠ q64.size ∧ inDev 0x53080 = true := by decide +kernel
theorem witness_launch_accepted : (match launchInto queued mappedTask 64 q64 [1, 2] 0 with | .ok s => s.launched | .error _ => []) = [⟨64, 1, 0, 1⟩] := by
  decide +kernel
theorem witness_taskend : (0 : Nat) < (mapped.isys.etcnt.extractLsb' 0 17).toNat ∧
    (after (exec (.taskend ⟨0, some ⟨0, 1⟩, none⟩) mapped)).k.t.completing = some [1] ∧
    (let s := { base with grids := [grid4] }.modT fun t => { t with completing := some [] }
     s.k.t.fl = none ∧ ok (closeStreams s 0 0) = true ∧ taskQuiet s 0 0 = true ∧ (after (exec .taskCompletion s)).k.task = none ∧
     (findGrid (after (exec .taskCompletion s)) 0).map Grid.done = some 1) := by decide +kernel
theorem witness_queues : slotOfQueue queued 64 = some (queued.dsel, slot64) ∧ (match readQCtx queued 0 64 with | .ok x => some x.2 | .error _ => none) = some q64 ∧
    (slot64.tail != slot64.head) = true ∧ doorbellWaits queued 0 = false ∧ blockWaits queued 0 = false ∧ blockReached queued (portNo queued) 0 = true ∧
    (let s := { wrBytes queued 0x52008 (natToBytes 8 0x1000) with item := 64 }
     (slotOfQueue (after (exec .queuePacketRead s)) 64).map (fun x => x.2.head) = some 1) := by decide +kernel
/-- Host queue 5, valid, 8 slots, not resident. -/
def hostQueue : State := { (wrBytes base 0x50140 (natToBytes 8 (2 ^ 63 + 2 ^ 61 + 3 * 2 ^ 54))).modDie 0 fun d => { d with qtbase := 0x50000 } with item := 5 }
def slot5 : QSlot := ⟨5, 0, 0, false, false, 0⟩
theorem witness_doorbells : (let s := hostQueue.modDie 0 fun d => { d with qslots := [some slot5] }
    slotOfQueue s 5 = some (0, slot5) ∧ ((slotOfQueue (after (exec (.doorbell 8) s)) 5).map fun x => (x.2.tail, x.2.err)) = some (8, false) ∧
    ((slotOfQueue (after (exec (.doorbell 9) s)) 5).map fun x => (x.2.tail, x.2.err)) = some (0, true) ∧
    ((after (exec (.doorbell 9) s)).die 0).intstat.getLsbD 0 = true) := by decide +kernel
theorem witness_switches : (let s := (wrBytes hostQueue 0x50160 (natToBytes 8 (2 ^ 63))).modDie 0 fun d => { d with pendq := [5] }
    slotOfQueue s 5 = none ∧ slotFree (s.die 0) = true ∧ ((after (exec .queueSwitchIn s)).die 0).qslots = [some slot5]) ∧
    (let s := { hostQueue with item := 0 }.modDie 0 fun d => { d with qslots := [some slot5] }
     (victimOk s slot5).1 = true ∧ ((after (exec .queueSwitchOut s)).die 0).qslots = [none]) := by decide +kernel
theorem witness_grid_ends : (let g := { grid4 with started := [4, 0, 0, 0], done := 4 }
    let s := { base with grids := [g] }
    g.finished s = true ∧ ok (writeRecord s 0 g) = true ∧ (after (exec .gridComplete s)).grids = []) ∧
    packetBad ⟨0, 0⟩ false 0 = true := by decide +kernel

/-! ## The governor -/

/-- 03's worked example of a tick: an E4M3 record at scale -4 whose bins 9 to 15 hold 2, 4, 12, 30, 60, 40 and 10, MAXE 5. -/
def tickRecord : RecBits :=
  let w := (((((0 : RecBits).put 0 25 1 1).put 56 0 16 158).put 0 40 8 (256 - 10)).put 8 8 8 (256 - 4)).put 56 16 8 5
  [(9, 2), (10, 4), (11, 12), (12, 30), (13, 60), (14, 40), (15, 10)].foldl (fun w x => w.put (32 + x.1) 0 8 x.2) w
def tickPolicy : BitVec 128 := BitVec.ofNat 128
  (20 * 2 ^ 56 + (256 - 40) * 2 ^ 48 + 4 * 2 ^ 20 + 1 * 2 ^ 16 + 1 * 2 ^ 120 + 6 * 2 ^ 116 + 3 * 2 ^ 108 + 2 ^ 107 + 2 ^ 106 + 2 ^ 105)
theorem test_worked_tick : (match governRec tickRecord tickPolicy false true with
    | (w, floor) => w.live == 1 && w.sigma 1 == -2 && w.fmt == 0 && w.vnum == 1 && w.clean == 0 && w.binbase == -14 && !floor &&
        (List.range 24).map w.hist == [0, 0, 0, 0, 0, 0, 0, 0, 0, 0, 0, 0, 0, 1, 2, 6, 15, 30, 20, 5, 0, 0, 0, 0]) = true := by decide +kernel
def setOpen : State := { base with steps := [⟨0, [], false⟩] }
def tick0 : Tick :=
  { ctx := base.k.ctx, core := 0, uid := 0, kind := 1, ev := none, waits := true, governed := [], rewritten := [], members := [], committed := none
    fault := none, floor := none, done := false, mw := 0 }
def ticked (t : Tick) : State := { setOpen with ticks := [t] }
theorem witness_ticks : myTick base = none ∧ openSet base = none ∧ openSet setOpen = some ⟨0, [], false⟩ ∧
    myTick (ticked { tick0 with done := true, committed := some true }) = some { tick0 with done := true, committed := some true } ∧
    ((after (exec (.stepcommit ⟨0, 5⟩) (ticked { tick0 with done := true, committed := some true }))).sR 5) = 1 ∧
    fault (exec (.stepabort ⟨0⟩) base) = some ⟨11, 6, 0, 0⟩ ∧ (after (exec (.govtick ⟨0, none, false⟩) base)).ticks.length = 1 := by decide +kernel
theorem witness_tick_actions : activeTick (ticked tick0) 0 = true ∧ flushedAll (ticked tick0) 0 = true ∧
    ((after (exec .stepStateRewrite (ticked tick0))).ticks.map Tick.committed) = [some true] ∧
    ((after (exec .tickGovern (ticked { tick0 with rewritten := allDies, committed := some true }))).ticks.map Tick.governed) = [[0]] ∧
    ((after (exec .stepStateRewrite (ticked { tick0 with committed := some true }))).ticks.map Tick.rewritten) = [[0]] ∧
    (let s := ticked { tick0 with governed := allDies, rewritten := allDies, committed := some true }
     let t := after (exec .tickComplete s)
     t.steps = [] ∧ t.ticks.map Tick.done = [true]) := by decide +kernel
/-- Record 1 lies at 0x60000: E4M3, 8,192 bytes at 0x70000, and a capability names it. -/
def rec1 : State := withC (wrBytes (wrBytes (mapped.modSys fun y => { y with rtcnt := 16 }) 0x10008 (natToBytes 8 (2 ^ 63 + 0x60000)))
  0x60000 (natToBytes 64 (0x70000 * 2 ^ 128 + 8192 * 2 ^ 192))) (Cap.mk' 0x7F 1 0x10_0000 0x60000 true)
theorem witness_rescale : (rec1.cR 0).handle = 1 ∧ capErr (rec1.cR 0) .both 0x10000 4096 = none ∧ myGv rec1 = none ∧
    (match engage rec1 rec1.gvOf.d rec1.gvOf.ctx 1 with | .ok x => (x.2.w.dbase, x.2.w.len) | .error _ => (0, 0)) = (0x70000, 8192) := by
  decide +kernel
theorem witness_stepbegin : capErr cap0 .rd 0 4 = none ∧ lsQuiet access.k = true ∧ ok (lsReadHome access 0 0 4) = true ∧
    (xlatePieces access false false (plainPieces 0 4)).toOption.map List.length = some 1 ∧
    (let s := { setOpen with gv := [⟨0, .stepbegin [1], true, none, 0⟩] }
     (myGv s).isSome = true ∧ went (exec (.stepbegin ⟨0, 5, ⟨0, 0, 0⟩⟩) s) = true) := by decide +kernel
/-- A converting store of ones at the record's first elements, 0x38 in E4M3, and a converting load of them. -/
theorem witness_converting_accesses : ((after (exec (.stvCvt ⟨0, .reg 1, ⟨0, 0, 0x400⟩, .rne, false⟩) (withV rec1 1 ones))).k.wq.map fun e =>
      (e.line, e.data.extractLsb' 0 16)) = [(3584, 0x3838)] ∧
    ((after (exec (.ldvCvt ⟨0, 5, ⟨0, 0, 0x400⟩, .rne, false⟩) rec1)).k.t.loads.map fun l => l.cvt.map LdCvt.rpa) = [some 0x60000] := by
  and_intros <;> decide +kernel
theorem witness_granule_update : let s := after (exec (.rescale ⟨0, ⟨0, 0, 0x10⟩⟩) rec1)
    s.gv = [⟨0, .rescale 1 0x60000 0, false, none, 0⟩] ∧ ((after (exec .gvUpdateAtHome s)).gv.map GvReq.done) = [true] := by
  and_intros <;> decide +kernel
/-- Record 1 with a shadow copy, named by a list of one handle at 0x50000. -/
def shadowed : State := wrBytes (withS (withS (withC (wrBytes rec1 0x50000 [1, 0, 0, 0]) (Cap.mk' 0x7F 0 0x10_0000 0 true)) 6 1) 7 0x50000)
  0x60000 (natToBytes 64 (2 ^ 23 + 0x70000 * 2 ^ 128 + 8192 * 2 ^ 192))
def opened : State := after (exec .gvUpdateAtHome { shadowed with gv := [⟨0, .stepbegin [1], false, none, 0⟩] })
theorem witness_set_opens : (after (exec (.stepbegin ⟨0, 6, ⟨0, 7, 0⟩⟩) shadowed)).gv = [⟨0, .stepbegin [1], false, none, 0⟩] ∧
    opened.gv.map (fun g => (g.done, g.fault)) = [(true, none)] ∧ opened.steps = [⟨0, [1], false⟩] ∧
    (after (exec .gvUpdateAtHome { rec1 with gv := [⟨0, .stepbegin [1], false, none, 0⟩] })).gv.map GvReq.fault = [some ⟨11, 5, 0, 1⟩] := by
  and_intros <;> decide +kernel
theorem witness_set_commits : let s := after (exec .stepStateRewrite { opened with gv := [], ticks := [{ tick0 with ctx := mapped.k.ctx }] })
    s.ticks.map (fun t => (t.committed, t.members, t.fault)) = [(some true, [1], none)] ∧
    (after (exec .stepStateRewrite s)).ticks.map (fun t => (t.rewritten, t.fault)) = [([0], none)] := by
  and_intros <;> decide +kernel
/-- Two saturated stores wait in a clean buffer's only entry. -/
def stat1 : StatEnt :=
  { ctx := mapped.k.ctx, uid := 0, handle := 1, bins := List.replicate 24 3, samp := 5, sat := 2, und := 0, nan := 1, maxe := some 4, base := 0, above := false, recOver := false
    evict := false, clean := false, reply := none }
theorem witness_stats : (let s := rec1.modK fun k => { k with stats := [stat1] }
    nextFlush s.k = some stat1 ∧ (s.modK fun k => { k with stats := [{ stat1 with reply := some (9, true) }] }).k.stats.find? (fun x => x.reply.isSome)
      = some { stat1 with reply := some (9, true) }) ∧
    (after (exec .statsFlush (rec1.modK fun k => { k with stats := [stat1] }))).k.stats.map (fun e => (e.samp, e.reply.isSome)) = [(0, true)] ∧
    (let x := flushInto 0 stat1 1 0xFFFF
     x.1.satn = 2 ∧ x.1.hist 0 = 1 ∧ x.1.nann = 1 ∧ x.1.maxe = some 4 ∧ x.2.samp = 1) := by decide +kernel

/-! ## The matrix engine -/

/-- 14's worked descriptors md1 and md2. -/
def mdA : MDesc := ⟨0x4300_0000_0080_0000, 0x01F8_003F_4000_0000, Cap.null⟩
def mdB : MDesc := ⟨0x8300_0000_0080_0000, 0x01F8_0000_0000_0000, Cap.null⟩
def matrixed : State := base.modRegs fun g => { g with md := (g.md.set 1 mdA).set 2 mdB }
def mm : MMul := ⟨3, 1, 2, false, false, false, false, false, false, true⟩
theorem test_matrix_descriptor : mdA.buf = some .abuf ∧ mdB.buf = some .wbuf ∧ mdA.fmt = some .e4m3 ∧ mdA.base = 0 ∧ mdA.len = 256 ∧ mdA.rows = 64 ∧
    mdA.sig = -3 ∧ mdB.sig = 0 ∧ mdA.p = 4 := by decide +kernel
theorem witness_matrix_slots : ((matPair matrixed (.mmaz mm)).map fun x => (x.tile, x.a, x.b, x.pre)) = some (3, 1, 2, none) ∧
    (∀ x, matPair matrixed (.mmaz mm) = some x → (∀ det, det ∈ [0, 1, 2, 3, 4, 5, 6, 8] → x.bad mdA mdB det = false)) ∧
    ok (sigmaOf matrixed mdA false) = true ∧ ((after (exec (.mmaz mm) matrixed)).k.mat.queue.map MOp.sigA) = [-3] ∧
    (after (exec (.mmaz mm) matrixed)).k.mat.busy = 8 ∧ fault (exec (.mma ⟨3, 1, 0, false, false, false, false, false, false, false⟩) matrixed) = some ⟨10, 0, 0, 0⟩ ∧
    fault (exec (.mrs ⟨3, 1, 2, false, false, false, false, false, true, false⟩) matrixed) = some ⟨12, 0, 0, 0⟩ ∧
    ((matPair matrixed (.mrs ⟨3, 1, 2, false, false, false, false, false, true, true⟩)).bind MatPair.pre) = some 0 ∧
    fault (exec (.mscale ⟨3, false⟩) base) = some ⟨12, 6, 0, 0⟩ ∧ went (exec (.mzero ⟨3, false⟩) base) = true ∧
    tileBusy base.k 3 = false ∧ base.k.mat.queue = [] ∧ base.k.mat.run = none ∧ base.k.mat.resident = none ∧ base.k.mat.busy = 0 := by decide +kernel
def op0 : MOp := { kind := .zero, tile := 3, a := mdA, b := mdB, ta := false, tb := false, ra := false, rb := false, dual := false, k := 0
                   sigA := -3, sigB := 0, ftz := false }
def run0 : MRun := { op := op0, acc := [], t := 0, stopped := false, word := 0, fault := none, drawn := 0 }
theorem witness_matrix_engine : (let s := base.modK fun k => { k with mat := { k.mat with queue := [op0] } }
    s.k.mat.run = none ∧ s.k.mat.queue = [op0] ∧ s.k.mat.resident = none) ∧
    (let s := base.modK fun k => { k with mat := { k.mat with run := some run0 } }
     let x := op0.sideA s 0
     run0.fault = none ∧ peerBad s 0 false mdA = false ∧ x.filling 0 = false ∧ (op0.sideB s 0).filling 0 = false) ∧
    (let s := base.modK fun k => { k with mat := { k.mat with run := some { run0 with fault := some ⟨12, 5, 0, 0⟩ } } }
     (after (exec .matrixDeferredFault s)).k.t.pend = [⟨⟨12, 5, 0, 0⟩, false⟩]) := by decide +kernel
/-- A product that samples from a table of 256 equal entries, two words in the RBQ. -/
def mrsRun0 : MRun := { run0 with op := { op0 with kind := .mrs true 0x0001_0001_0000_0000 0 } }
def mrsTable : List AliasEnt := List.replicate 256 ⟨65536, 0, 0x3F80_0000⟩
def sampling : State := matrixed.modK fun k => { k with
  mat := { k.mat with table := some (256, mrsTable), run := some mrsRun0 }, t := { k.t with rbq := [⟨5, true⟩, ⟨7, true⟩] } }
theorem witness_sampling : (mrsRun sampling.k).isSome = true ∧ vectorTakes sampling = false ∧
    (let y := sampleRun (mrsRun0.op.sideA sampling 0) (mrsRun0.op.sideB sampling 0) mrsTable 64 (sampling.k.t.rbq.take 1) mrsRun0
     (y.1.length, y.2.t) = (0, 31)) ∧
    (let s := after (exec .samplingVarianceCheck sampling)
     s.k.t.rbq.length = 1 ∧ (s.k.mat.run.map fun r => (r.t, r.stopped)) = some (31, false) ∧
     (after (exec .samplingVarianceCheck s)).k.mat.run.map (fun r => (r.t, r.stopped)) = some (64, true)) := by
  and_intros <;> decide +kernel
/-- 14's worked alias table: norms 3 and 1 and thirty zeros. -/
theorem test_worked_alias_table : (match aliasTable false 32 ([0x4040_0000, 0x3F80_0000] ++ List.replicate 30 0) with
    | .ok (sum, t) => sum == 0x4080_0000 && t.length == 32 && t[0]? == some ⟨0, 1, 0x3FAA_AAAB⟩ && t[1]? == some ⟨65536, 1, 0x4080_0000⟩ &&
        (t[13]?.map fun e => (e.prob, e.other)) == some (0, 0) && (t[26]?.map fun e => (e.prob, e.other)) == some (0, 1)
    | .error _ => false) = true := by decide +kernel
/-- 14's worked stopping rule at 64 samples: F is 12.0, VAR 0.0625. -/
theorem test_worked_stop : stopOf 0x0100_0001_3E80_0000 64 0x4140_0000 0x3D80_0000 = some 1 ∧
    stopOf 0x0100_0001_3D80_0000 64 0x4140_0000 0x3D80_0000 = none := by decide +kernel

/-! ## Copies, streams, frames, collectives -/

def cdesc (w0 w1 w2 w3 : Word) : CDesc := ⟨#v[w0, w1, w2, w3], cap0, cap0⟩
/-- cd1 copies 512 bytes from address 0x200 to ABUF row 4, cd2 a CBUF row to ABUF row 4, cd3 fills stream 2 with two rows; cd4 is an index list. -/
def toAbuf : CDesc := cdesc 0x200 0x2000_0000_0000_0004 (2 ^ 40 + 512) 0
def inBufs : CDesc := cdesc 0x6000_0000_0000_0005 0x2000_0000_0000_0004 (2 ^ 40 + 512) 0
def toStream : CDesc := cdesc 0x200 0x8000_0000_0000_0002 (2 ^ 40 + 1024) 0
def copying : State := base.modRegs fun g => { g with cd := (((g.cd.set 1 toAbuf).set 2 inBufs).set 3 toStream).set 4 (cdesc 0x400 0 0 0) }
def withFlag (s : State) (f : Flag) (x : FlagSt) : State := s.modT fun t => putFlag t f x
theorem witness_copies_issue : engineLoad (copying.engine (copyUnit copying)) < 32 ∧
    (match descReason copying toAbuf none (srcSide toAbuf none false) (dstSide toAbuf none false) false with | .ok none => true | _ => false) = true ∧
    capErr cap0 .cps ((srcSide toAbuf none false).off 0) 512 = none ∧ claimable (getFlag copying.k.t 3) = true ∧
    ok (sideCheck copying (srcSide toAbuf none false) .cps false 1 512) = true ∧ ok (sideCheck copying (dstSide toAbuf none false) .cpd true 1 512) = true ∧
    capErr cap0 .cps 0x400 4 = none ∧ toAbuf.ssp = 0 ∧ (cdesc 0x400 0 0 0).f 0 60 57 = 0 ∧
    (getFlag (after (exec (.cpy ⟨1, some 3, false, none⟩) copying)).k.t 3).hold = 1 ∧
    fault (exec (.cpy ⟨5, none, false, none⟩) copying) = some ⟨7, 0, 0, 3⟩ ∧
    fault (exec (.gather ⟨1, 2, none, false, none⟩) copying) = some ⟨7, 0, 0, 0⟩ ∧ went (exec (.scatter ⟨1, 4, none, false, none⟩) copying) = true ∧
    fault (exec (.cpy ⟨1, some 3, false, none⟩) (withFlag copying 3 ⟨1, 1, 0, none, 0, 0, 0⟩)) = some ⟨7, 0, 0, 4⟩ := by decide +kernel
theorem witness_streams_issue : (match descReason copying toStream none (srcSide toStream none false) (dstSide toStream none false) true with | .ok none => true | _ => false) = true ∧
    (getStream copying.k.t 2).bind = .unbound ∧ (getStream copying.k.t 2).rows = [] ∧
    (let s := after (exec (.cpys ⟨3, none, false⟩) copying)
     getStream s.k.t 2 = ⟨.fill, [], 2, false, false⟩ ∧ fault (exec (.cpys ⟨3, none, false⟩) s) = some ⟨8, 2, 0, 4⟩ ∧
     getStream (after (exec (.qclose ⟨2⟩) s)).k.t 2 = Stream.unbound) ∧
    (let s := copying.modT fun t => putStream t 5 ⟨.drain, [], 1, false, false⟩
     (getStream (after (exec (.qclose ⟨5⟩) s)).k.t 5).closed = true) ∧ fault (exec (.qclose ⟨9⟩) copying) = some ⟨8, 9, 0, 0⟩ := by decide +kernel
theorem witness_flag_waits : fault (exec (.cpyw ⟨3, 1, true, false, 0⟩) base) = some ⟨1, 6, 0, 5⟩ ∧
    landed (exec (.cpyw ⟨3, 1, true, false, 0⟩) (withFlag base 3 ⟨2, 1, 0, none, 0, 0, 7⟩)) = [⟨1, .p 1 true⟩] ∧
    landed (exec (.cpyw ⟨3, 1, true, false, 0⟩) (withFlag base 3 ⟨3, 1, 0, none, 0x50, 0x200, 7⟩)) = [⟨1, .p 1 false⟩] ∧
    (after (exec (.collw ⟨3, 1, true, true, 0⟩) (withFlag base 3 ⟨3, 3, 6, none, 0x76, 0, 7⟩))).k.t.pend = [⟨⟨7, 6, 0, 0x7600F⟩, false⟩] ∧
    (let s := { withFlag base 3 ⟨1, 1, 0, none, 0, 0, 0⟩ with now := 64 }.modT fun t => { t with
       fl := some { fl0 with todo := [(6, .run (.cpyw ⟨3, 1, true, false, 1⟩))], since := some 0 } }
     landed (exec .cpywLimitExpiry s) = [⟨1, .p 1 false⟩]) := by decide +kernel
def copyOp (k : CopyKind) (d : CDesc) : CopyOp :=
  { kind := k, core := 0, uid := 0, desc := d, xdesc := nullDesc, cv := none, flag := some 3, ev := none, ctx := base.k.ctx, priv := true
    ftz := false, bjump := 0, pos := 0, va := 0, paused := false }
def moving (o : CopyOp) : State := (withRow base .cbuf 5 0xABCD).modEngine 0 fun _ => [o]
theorem witness_copy_completes : (let o := copyOp .cpy inBufs
    let s := moving o
    getOp s s.unit s.item = some (0, o) ∧ o.desc.ssp = 3 ∧ o.desc.dsp = 1 ∧ o.desc.nrow = 1 ∧ o.desc.rlen = 512 ∧ o.desc.saddr = 5 ∧ o.desc.daddr = 4 ∧
    tileBusy (s.core 0) 0 = false ∧ Sparse.wf 0 (getBuf (s.core 0) .abuf) = true ∧ ok (moveNext (o.by_ 0) o s) = true ∧ o.pos = 0 ∧ o.seen = [] ∧ o.put = []) ∧
    (∀ c k', (base.core c).task = some k' → k'.uid = 0 → c = 0) := by decide +kernel
theorem test_buffer_copy : bufRow ((after (exec .copyComplete (moving (copyOp .cpy inBufs)))).core 0) .abuf 4 = 0xABCD := by decide +kernel
/-- A drain with one row to write, a fill, a frame fill; every page reads and writes through the first gigabyte's leaf. -/
def streaming (o : CopyOp) (x : Stream) : State := (mapped.modT fun t => putStream t 2 x).modEngine 0 fun _ => [{ o with ctx := mapped.k.ctx }]
theorem witness_stream_ends : (let o := copyOp (.drain 2) toStream
    let s := streaming o ⟨.drain, [], 0, false, true⟩
    getOp s s.unit s.item = some (0, { o with ctx := mapped.k.ctx }) ∧ streamOf s o 2 = some ⟨.drain, [], 0, false, true⟩ ∧
    ((after (exec .streamRowTransfer s)).engine 0) = [] ∧ getStream (after (exec .streamRowTransfer s)).k.t 2 = Stream.unbound) ∧
    (let o := copyOp (.fill 2) toStream
     let s := moving o |>.modT fun t => putStream t 2 ⟨.fill, [], 2, false, false⟩
     o.total = 1024 ∧ streamOf s o 2 = some ⟨.fill, [], 2, false, false⟩ ∧
     (match fillBytes (o.by_ 0) o (Mv.start s) with | .error (.stop _ c d _) => (c, d) | _ => (0, 0)) = (5, 1)) := by decide +kernel
theorem witness_stream_moves : (let o := { copyOp (.fill 2) toStream with ctx := mapped.k.ctx }
    ok (fillBytes (o.by_ 0) o (Mv.start (streaming o ⟨.fill, [], 2, false, false⟩))) = true) := by decide +kernel
/-- A unit whose check fails stops what reads it, counts and is logged with KIND 1 (18 R438, Table 18.3). -/
theorem test_failed_check_stops : (let o := { copyOp (.fill 2) toStream with ctx := mapped.k.ctx }
    (match fillBytes (o.by_ 0) o (Mv.start (after (exec (.uncorrectableError (.transit 0x200)) (streaming o ⟨.fill, [], 2, false, false⟩)))) with
    | .error (.stop m c d a) => some (c, d, a, (m.s.die 0).ue.toNat, ((m.s.die 0).log.headD 0).getLsbD 0, m.s.crc.length)
    | _ => none) = some (20, 1, 0, 1, true, 0)) := by decide +kernel
theorem witness_drain_moves : (let o := { copyOp (.drain 2) (cdesc 0x8000_0000_0000_0002 0x200 (2 ^ 40 + 1024) 0) with ctx := mapped.k.ctx }
     ok (drainBytes (o.by_ 0) o (Mv.start (streaming o ⟨.drain, [], 2, false, false⟩)) (bitsBytes 512 (0 : Row))) = true) := by decide +kernel
theorem witness_frame_fills : (let o := frameOp framed 0 16384 cap0
    (match frameBytes (framed.modEngine 0 fun _ => [o]) 0 o with | .ok (_, _, e) => e | .error _ => none) = some (5, 1, 16384)) := by decide +kernel
/-- Group 1 of context 0 on die 0: two members, this one of rank 0, EPOCH 5; cd1 all-reduces eight bytes of FP32 sums. -/
def sum8 : CDesc := cdesc 0x200 0x300 (2 ^ 48 + 8) 0
def grouped : State := (wrBytes (base.modRegs fun g => { g with cd := g.cd.set 1 sum8 }) 0x2040
  (natToBytes 8 (2 ^ 63 + 2 * 2 ^ 16) ++ natToBytes 16 0x3_0000 ++ natToBytes 8 5)).modDie 0 fun d => { d with gtbase := 0x2000, gtcnt := 4 }
def group1 : GroupEnt := ⟨0x2040, 2 ^ 63 + 2 * 2 ^ 16, 0x3_0000, 0, 5⟩
def party (r : Nat) : Party := ⟨r, 0, 0, 0, false, 0, 8, bitsBytes 8 (0x4000_0000_3F80_0000 : Word), false⟩
def coll1 : CollOp :=
  { core := 0, uid := 0, desc := sum8, flag := some 3, ev := none, ctx := base.k.ctx, priv := true, ftz := false, bjump := 0, seq := 0
    mine := some (party 0), fault := none }
def frame1 : Sys2Proof.Frame := ⟨1, 5, 1, 0, party 1⟩
theorem witness_collectives : (match groupEnt grouped 0 sum8.group with | .ok (_, g) => g | .error _ => none) = some group1 ∧ group1.v = true ∧
    group1.fault = false ∧ group1.asid = 0 ∧ group1.p = 2 ∧ collBad sum8 2 = false ∧ capErr cap0 .cps 0x200 8 = none ∧ capErr cap0 .cpd 0x300 8 = none ∧
    ok (collDst grouped sum8 2 0) = true ∧ ((after (exec (.coll ⟨1, some 3, false⟩) grouped)).die 0).coll.length = 1 ∧
    fault (exec (.coll ⟨1, none, false⟩) base) = some ⟨7, 6, 0, 8⟩ := by decide +kernel
def reducing : State := (grouped.modT fun t => putFlag t 3 ⟨1, 3, 6, none, 0, 0, 0⟩).modDie 0 fun d => { d with coll := [coll1], groups := [⟨1, 5, 1, [frame1]⟩] }
theorem witness_collective_ends : (reducing.die reducing.dsel).coll[reducing.item]? = some coll1 ∧ partiesOf reducing 0 coll1 (party 0) 2 = some [party 0, party 1] ∧
    agree (party 1) (party 0) = true ∧ agree { party 1 with op := 1 } (party 0) = false ∧
    (getFlag (after (exec .collectiveComplete (reducing.modDie 0 fun d => { d with coll := [{ coll1 with fault := some ⟨7, 6, 0, 0⟩ }] }))).k.t 3).state = 3 := by
  decide +kernel
/-- 17's worked scale of a chunk: E is 6, eight parties, and 37.0 is sent as 18. -/
theorem test_worked_chunk : ceilLog2 8 = 3 ∧ NumFmt.cmp (wireVal .e4m3 6 (6 + 3 - emaxf .e4m3) (NumFmt.XV.ofInt 37)) (NumFmt.XV.ofInt 18) = some .eq ∧
    chunkExp [NumFmt.XV.ofInt 64, NumFmt.XV.zero false] = 6 := by decide +kernel
theorem witness_groups : frame1.epoch = group1.epoch ∧ frame1.rank < group1.p ∧ frame1.rank ≠ group1.rank ∧ ok (markFault grouped 0 group1) = true ∧
    ((after (exec (.lorelleFrameReceive frame1) grouped)).die 0).groups = [⟨1, 5, 0, [frame1]⟩] ∧
    ((after (exec (.lorelleFrameReceive { frame1 with epoch := 4 }) grouped)).die 0).groups = [] ∧
    (after (exec (.groupFaultDetect 1 .noRoute) grouped)).outbox = [] ∧
    (base.die 0).lnkstat.getLsbD 1 = false ∧ ((after (exec .lorellePortRemoval base)).die 0).lnkstat = 2 := by decide +kernel

/-! ## Host, registers, monitors, power, pulls, islands, channels, issue -/

/-- Firmware has enabled CXL.mem on die 0. -/
def enabled : State := base.modDie 0 fun d => { d with cxlMem := true }
theorem witness_host : ok (homeRead enabled 0 0x100_0000_0000 8) = true ∧ 0 + 8 ≤ 0xC0_0000_0000 ∧ hostWaits enabled enabled.dsel = false ∧
    (after (exec (.hostCxlMemAccess (.read (2 ^ 50) 8)) enabled)).outbox = [.unsupported] ∧
    (after (exec (.hostCxlMemAccess (.read 0 8)) base)).outbox = [.unsupported] ∧
    rdByte (after (exec (.hostCxlMemAccess (.write 0x1008 [7])) enabled)) 0x40_0000_0008 = 7 ∧
    (after (exec (.hostCxlMemAccess (.reg 0 0x20_000C 4)) (base.modDie 0 fun d => { d with isl := .active }))).outbox = [.data [0, 0, 0, 0]] ∧
    (after (exec (.hostCxlMemAccess (.reg 0 0x20_000A 4)) base)).outbox = [.unsupported] ∧
    (after (exec (.hostCxlMemAccess .atomic) base)).outbox = [.unsupported] ∧ target (2 ^ 51) = .host ∧
    (let s := { base with lines := [(9, some ⟨3, 4, none⟩)], item := 9 }
     Sparse.get none s.lines s.item = some ⟨3, 4, none⟩ ∧ (((after (exec .dieCacheEviction s)).die 0).evts.get (bankOf 9)) = 4) ∧
    (let s := base.modDie 0 fun d => { d with intstat := 6, intmask := 4 }
     (after (exec .interruptMessage s)).outbox = [.msi 0 2]) := by decide +kernel
theorem witness_registers : (base.die 0).isl = .active ∧ (after (exec (.mmioRegisterWrite ⟨some 0, 0, 0x10_0004, true, 0⟩) base)).outbox = [.unsupported] ∧
    ((after (exec (.mmioRegisterWrite ⟨none, 0, 0x10_0000, true, 2⟩) (base.modDie 0 fun d => { d with intstat := 6 }))).die 0).intstat = 4 ∧
    went (exec (.pstate 2) { base with dsel := 0 }) = true ∧ ((after (exec (.mmioRegisterWrite ⟨none, 0, 0x56_0000, true, 2⟩) base)).die 0).pstateReq = 2 ∧
    (let s := base.modDie 0 fun d => { d with faultList := [0, 4] }
     (after (exec .flpop s)).outbox = [.data (bitsBytes 8 (0x8000_0000_0000_0000 : Word))] ∧ ((after (exec .flpop s)).die 0).faultList = [4]) ∧
    hostWaits base 0 = false ∧ portNo base = 0 ∧ Config.wiredPort 0 = true ∧ blockReached base 0 0 = true ∧ blockWaits base 0 = false ∧ reachable base ⟨none, 0, 0x10_0000, true, 2⟩ = true ∧
    (after (exec .progress hostQueue)).outbox = [.data (bitsBytes 8 (0x8000_0000_0000_0000 : Word))] := by decide +kernel
theorem witness_monitors : (let s := base.modDie 0 fun d => { d with mons := d.mons.set 2 { Monitor.reset with cfg := 0x8000_0000_0000_0001 } }
    let m := ((after (exec (.monitorSample 1 0 5) s)).die 0).mons.get 2
    decide (0 < monUnits 1) = true ∧ m.cnt = 1 ∧ m.min = 5 ∧ m.max = 5 ∧ m.bins.getD 5 0 = 1) ∧
    (Monitor.reset.bins.length = 32) ∧ target 0x80 = .dev 0 ∧ Sparse.get false (after (exec (.uncorrectableError (.line 0x80)) base)).poison 1 = true := by
  decide +kernel
theorem witness_power : (base.die 0).pstateCur = 0 ∧ (base.die 0).plim.toNat < 4 * 700 ∧ ((after (exec (.thermalReset 111) base)).die 0).dom = .inReset ∧
    ((after (exec (.thermalPowerThrottle 700 20) base)).die 0).throttle = true ∧
    (after (exec .getVersion base)).outbox = [.spdm 0 0 0x04 [0x13]] := by decide +kernel
def pull0 : Pull := ⟨2, 0, 0x20_0000, 0x10_0000, 0x3000, 0, 0, []⟩
def pulling (p : Pull) : State := base.modDie 0 fun d => { d with pulls := d.pulls.set 0 p }
theorem witness_pulls : pullRefused (pulling { pull0 with state := 0 }) 0 0 = none ∧ pullRefused (pulling { pull0 with newPa := 0x20_0080 }) 0 0 = some 1 ∧
    pullOf (pulling pull0) (0x20_0080 / 128) = some (0, 0, 1) ∧ pullTurn ((pulling pull0).die 0) = some 0 ∧ nextUnpulled pull0 = some 0 ∧
    pullReadable (pulling pull0) 0 0x10_0000 = true ∧ Sparse.get 0 (pulling pull0).hostHeld (resolvePa 0x20_0000 / 128) = 0 ∧
    Memory.wf (pulling pull0).mem = true ∧ pullReadable { pulling pull0 with poison := [(0x10_0000 / 128, true)] } 0 0x10_0000 = false ∧
    ok (physRead base 0 0x3000 8) = true ∧ pullLines { pull0 with pulled := 32 } ≤ 32 ∧
    (((after (exec .pullBackgroundLine (pulling pull0))).die 0).pulls.get 0).pulled = 1 := by decide +kernel
theorem witness_islands : Memory.wf base.mem = true ∧ rdByte (after (exec (.islandStateChange .off) base)) 0 = 0 ∧ rdByte base 0 = 0xFF ∧
    ((after (exec (.coreDomainStateChange .off) base)).core 0).task = none := by decide +kernel
theorem witness_channels : (let s := { base with now := 300 }
    (getPc (after (exec .hbmRefresh base)) 0 0).refs.length = 1 ∧ (getPc s 0 0).power = .active ∧ 0x100 ≤ s.now - (getPc s 0 0).idleFrom ∧ (getPc (after (exec .pseudoChannelPowerDown s)) 0 0).power = .powerDown ∧
    (let t := after (exec (.pseudoChannelExit 9 0 false) s)
     (getPc t 0 0).reqs = [⟨2304, false, 300, 4⟩] ∧ (readyOn { t with now := 400 } (getPc t 0 0) false).isSome = true)) := by decide +kernel
theorem witness_issue : canRun base 0 = true ∧ stopsHere base 0 = false ∧ deliver base = none ∧ ok (fetchBundle base placedTask) = true ∧
    base.k.t.rbq.length < 8 ∧ (∀ w ∈ base.k.t.rbq, w.pushed = false) ∧ (after (exec .rbqGenerate base)).k.t.sys.rngctr = 1 ∧
    ok (capCheck access cap0 .rd 0x80 128) = true ∧ ok (lsXlate access access.lsAsid true 0x80 ⟨false, false, false⟩) = true ∧
    ok (lsReadHome access 0 0x80 128) = true := by decide +kernel

/-! ## Further cases of the statements -/

/-- Core 0 drains stream 2 with two rows to come; a row for it has arrived whole. -/
def pushing : State := base.modT fun t => { putStream t 2 ⟨.drain, [], 2, false, false⟩ with
  loads := [⟨.push 2, [], List.replicate 512 1, 0, none, 0, 0, false⟩] }
theorem witness_pushed_rows : ok (pushRow pushing 2 (bytesRow (List.replicate 512 1))) = true ∧
    (getStream (after (exec .loadValueArrival pushing)).k.t 2).rows.length = 1 ∧
    ((after (exec (.ldvu ⟨0, .push 2, ⟨0, 0, 512⟩⟩) (withC pushing cap0))).k.t.loads.map PLoad.dst) = [.push 2, .push 2] ∧
    allotted base.k 0 0 = false := by decide +kernel
theorem witness_masked_store : ok (gather vecF [.reg 1] false) = true ∧
    (after (exec (.stvm ⟨0, .reg 1, ⟨0, 0, 0⟩, 5⟩) (withC vecF cap0))).k.wq = [] ∧
    (let s := withC (withV vecF 5 1) cap0
     let s := s.modT fun t => { t with fl := t.fl.map fun f => { f with regs := t.regs } }
     (after (exec (.stvm ⟨0, .reg 1, ⟨0, 0, 0⟩, 5⟩) s)).k.wq.map (fun e => (e.line, e.mask.toNat))) = [(0, 1)] := by decide +kernel
theorem witness_atomics_again : let s := after (exec .atomicAtHome sent)
    (applied? s 0 0 0).isSome = true ∧ addAtom.gran = none ∧ amoNew .cas 32 0 5 7 false = none ∧
    (let c := access.modK fun k => { k with atom := some { addAtom with op := .cas, c := 7 } }
     (applied? (after (exec .atomicAtHome c)) 0 0 0).map (fun a => a.old) = some 0 ∧ rdByte (after (exec .atomicAtHome c)) 0x100 = 0) := by decide +kernel
/-- AMOBADD adds its BF16 halves alone: 1 + 1 and 2 + 1. -/
theorem test_packed_add : amoNew .badd 32 0x4000_3F80 0x3F80_3F80 0 false = some 0x4040_4000 ∧
    amoNew .fadd 32 0x3F80_0000 0x4000_0000 0 false = some 0x4040_0000 := by decide +kernel
theorem witness_fence_faults :
    fault (exec (.pfence ⟨0, 0, 2, 0x10⟩) (base.modT fun t => { t with collFault := true })) = some ⟨18, 3, 0, 0⟩ ∧
    base.k.t.collFault = false ∧ fenceDone base 0x10 = true ∧
    (let s := { shooting with invs := [⟨0, .all, [.core 36], [], none⟩], edges := [.e01] }
     routeErr s 0 1 false = some 2 ∧ agentDie (.core 36) = 1 ∧
     ((after (exec (.tlbinvAgentRequest (.core 36)) s)).invs.map fun i => (i.toReach.length, i.err)) = [(0, some 2)]) := by decide +kernel
theorem witness_special_values : NumFmt.cmp (NumFmt.XV.ofInt 1) (NumFmt.XV.ofInt 1) = some .eq ∧
    NumFmt.cmp (NumFmt.XV.ofInt 3) (NumFmt.XV.ofInt 2) = some .gt ∧ NumFmt.cmp (NumFmt.XV.ofInt 65537) (NumFmt.XV.ofInt 65536) = some .gt ∧
    NumFmt.cmp ((NumFmt.XV.ofInt 2).scale 1) (NumFmt.XV.ofInt 1) = some .gt ∧ NumFmt.XV.ofInt 2 ≠ NumFmt.XV.zero false := by decide +kernel
def nanV : VIn := ⟨BitVec.ofNat 4096 0x7FC0_0000, VTan4.zero⟩
theorem witness_group_picks : grpPick true .f32 ⟨ones, VTan4.zero⟩ 2 2 0 = some 2 ∧ grpPick true .f32 nanV 0 2 0 = none ∧
    Fmt.f32.isFlt = true := by decide +kernel
/-- A dual bundle with two tangents. -/
def vecD : State := (vecF.modT fun t => { t with fl := t.fl.map fun f => { f with dual := true, sys := { f.sys with dualctl := 2 } } })
theorem witness_tangents : vecD.dk = 2 ∧ vecD.dual = true ∧ went (exec (.vtget ⟨g0, 3, .reg 1, 2⟩) vecD) = true ∧
    (landed (exec (.vtset ⟨g0, 3, .reg 1, 2⟩) vecD)).length = 1 ∧ fault (exec (.vtget ⟨g0, 3, .reg 1, 3⟩) vecD) = some ⟨13, 1, 0, 0⟩ := by decide +kernel
/-- Frame 0 began to fill after the issue of the bundle in flight. -/
def fillingF : State := vecF.modT fun t => putFrame { t with sys := { t.sys with abft := 2 } } 0 ⟨true, true, false, true, false, 0, 0⟩
theorem witness_busy_rows : vbReady fillingF.k .abuf 5 = none ∧ fillingF.k.t.fl.isSome = true ∧
    vlane (exec (.vldb ⟨g0, .reg 3, .zero, .abuf, 5, none⟩) fillingF) 8 = some (5, 0) := by decide +kernel
theorem witness_block_lines :
    (match blockXlate access 0 true 0 with | .ok x => some x.2 | .error _ => none) = some 0 ∧ target 0 = .dev 0 ∧ findL1 access.k 0 = none ∧
    ok (grantLease access 0 0) = true ∧ privMode user.k = false ∧
    went (exec (.blkwait ⟨0, 3⟩) (flying.modT fun t => { t with fl := t.fl.map fun f => { f with since := some 0 } })) = true ∧
    (let s := access.modK fun k => { k with pts := 20, l1 := [{ line0 with owned := false }] }
     (findL1 s.k 0).map (fun x => decide (x.lend < s.k.pts)) = some true ∧ ok (grantLease s 0 0 true) = true) ∧
    (let s := framed.modT fun t => putFrame t 1 ⟨true, false, false, false, true, 0, 0x51⟩
     fault (exec (.probeLookup ⟨0, 5, ⟨0, 0, 0⟩, 2⟩) s) = some ⟨9, 8, 0, 0x51⟩) := by decide +kernel
theorem witness_upper_half_block : fault (exec (.ldblk (blk 1)) (withC user (Cap.mk' 0x7F 0 65536 (2 ^ 56) true))) = some ⟨3, 2, 0, 0⟩ := by
  decide +kernel
theorem witness_parking : (match evAt.park evented 2 20 with | .ok x => x.2.isSome | .error _ => false) = true ∧
    lsQuiet spinning.k = true ∧ saveSlot spinning { mappedTask with ctx := { mappedTask.ctx with sacount := 0 } } = none ∧
    ((lacksSlot base 0 0 1).die 0).noSlot = [(0, 1)] ∧
    ({ base with saved := [savedTask] }.saved.find? fun x => x.uid == 7) = some savedTask ∧
    (let s := spinning.modK fun k => { k with parking := .parked }
     s.saved.find? (fun x => x.uid == 0) = none ∧ ((release s 0 3).core 0).parking = .released) := by decide +kernel

theorem homeWrite_hole {s : State} {d : DieId} {pa : Nat} {bs : List Byte} (h : target pa = .none) (hn : bs ≠ []) :
    homeWrite s d pa bs = .error (.cause .none 6 3) := by
  have h0 : bs.length ≠ 0 := by simpa using hn
  simp [homeWrite, cutLines, cutAt, h0, homePrep, h, bind, Except.bind]
theorem slotBytes_ne_nil (free : Nat → Byte) (x : TState) (n : Nat) : slotBytes free x 0 (n + 1) ≠ [] := by
  simp [slotBytes, controlWords, bitsBytes, slotCaps]
/-- A save whose slot lies where no memory is goes on without it. -/
theorem saveTask_hole {s : State} {c : CoreId} {t : Task} {slot : Nat} (h : target (slotPa t slot) = .none) :
    ok (saveTask s c t slot) = true := by
  have hw : ∀ s d x, ∃ u, writeSlot s d t slot x = .ok u := fun s d x => by
    refine ⟨s.noted .none, ?_⟩
    have hh : ∀ s free, homeWrite s d (slotPa t slot) (slotBytes free x 0 307200) = .error (.cause .none 6 3) :=
      fun s free => homeWrite_hole h (slotBytes_ne_nil free x 307199)
    simp [writeSlot, saveRegions, hh, bind, Except.bind, Except.map]
  simp only [saveTask]
  obtain ⟨u, hu⟩ := hw _ _ _
  rw [hu]; rfl
def holeTask : Task := { mappedTask with ctx := { mappedTask.ctx with sapool := 0x200_0000_0000 } }
theorem witness_saves : ok (saveTask (commit spinning) 0 holeTask 0) = true ∧ ok (saveTask (asked.modK fun k => { k with task := some holeTask }) 0 holeTask 0) = true :=
  ⟨saveTask_hole (by decide +kernel), saveTask_hole (by decide +kernel)⟩
/-- List 0's descriptor as it stands. -/
def list0 : ActDesc := ⟨0x40000, 0x8000_0000_0300_0006, 0x41000, 0x42000, 0x43000, 0⟩
theorem witness_lists : (match listPtr.desc listed 0 with | .ok x => some x.2 | .error _ => none) = some list0 ∧ list0.nlen ≠ list0.size ∧
    ok (listPtr.set listed list0 4) = true ∧ ok (listPtr.actClr (wrBytes listed 0x41000 [16]) list0 4) = true ∧
    (match listPtr.lens listed list0 3 5 with | .ok x => (x.2.clen, x.2.nlen) | .error _ => (0, 0)) = (3, 5) ∧
    ok (listPtr.entries listed list0.next 2) = true ∧ ok (listPtr.swap listed list0 6) = true ∧
    (match (Ptr.mk 0 { base.k.ctx with albase := 2 ^ 50 }).desc base 0 with | .error (.bad _ c _ _ _) => c | _ => 0) = 5 := by decide +kernel
theorem witness_packets : (match launchPacket queued mappedTask 64 (List.replicate 128 0) [false, false, false, true] with
      | .error (.flt _ _ f) => some f | _ => none) = some ⟨4, 7, 0, 0⟩ ∧
    ok (launchPacket queued mappedTask 64 (List.replicate 128 0) []) = true ∧
    ok (readTagged queued [(⟨0, 128, 0, false, none⟩, 0, wideLeaf.pte)]) = true ∧
    ok (opSignal evented.clearHts 0 mapped.k.ctx 0 1 20) = true ∧
    (let s := { base with grids := [grid4] }.modT fun t => { t with completing := some [] }
     (queueDone s 0).dones.head? = some 0 ∧ (after (exec .taskCompletion { s with dones := [3] })).dones = [3, 0]) := by decide +kernel
theorem witness_ends : fault (exec .trapEntry (base.modK fun k => { k with trap := some (⟨23, 1, 0, 0⟩, ⟨0, false, 0, 0, 0, none, none⟩) })) = some ⟨23, 1, 0, 0⟩ ∧
    (let s := base.modT fun t => { t with fatal := some ⟨23, 1, 0, 0⟩ }
     ok (closeStreams s 0 0) = true ∧ fatalReady s 0 0 = true ∧ ok (fatalEnd s 0 placedTask ⟨23, 1, 0, 0⟩) = true ∧
     fatalReady (s.modK fun k => { k with wq := [entry0] }) 0 0 = false) ∧
    plnStopped base 0 = true ∧ plnStopped flying 0 = false := by decide +kernel
theorem witness_queue_stops : (match packetAt (wrBytes queued 0x51010 (natToBytes 8 (2 ^ 50))) 0 64 0 with | .error (.bad _ c _ _ _) => c | _ => 0) = 5 ∧
    blockReached { base with edges := [.e01, .e02] } 0 1 = false := by decide +kernel
theorem witness_record_scale : (let e : MDesc := ⟨mdA.w0 ||| 0x4000, mdA.w1, rec1.cR 0⟩
    e.rs = true ∧ e.cap.tag = true ∧ e.cap.perms.getLsbD 4 = true ∧ e.cap.handle = 1 ∧
    ok (engage rec1 rec1.gvOf.d rec1.gvOf.ctx 1) = true ∧ ok (sigmaOf rec1 e false) = true) ∧ mdA.rs = false := by decide +kernel
theorem witness_group_members : (match otherMembers grouped 0 group1 with | .ok x => some x.2 | .error _ => none) = some [0] ∧
    (let s := wrBytes (grouped.modDie 1 fun d => { d with isl := .off }) 0x3_0004 [1]
     groupDue s 0 1 = some .island ∧ memberDie s 0 1 = some 1 ∧ islActive s 1 = false) ∧
    (let s := wrBytes grouped 0x3_0004 [4]
     groupDue s 0 1 = some .noRoute ∧ memberDie s 0 4 = none ∧ group1.mask = 0) ∧
    ok (collWrite (coll1.by_ 0) coll1 [NumFmt.XV.ofInt 3, NumFmt.XV.ofInt 4] 0 (Mv.start grouped)) = true := by decide +kernel
def owing : PChan := ⟨.active, 0, 0, none, [], [], [], [3]⟩
theorem witness_refresh_owed : readyCmd base owing false = some (.refresh 3) ∧ readyCmd base { owing with exitAt := 9 } false = none ∧
    (busCycle (setPc base 0 0 owing) 0 0 .row).fresh = base.fresh + 1 := by decide +kernel
theorem witness_holds : preemptHere asked mappedTask = true ∧
    (let s := asked.modT fun t => { t with atPass := true, loops := t.loops.set 0 { Loop.unbound with act := true, n := 3, ns := 1, blen := 50 } }
     passHere s.k = some 0 ∧ stopsHere s 0 = false ∧ deliver s = none) ∧
    (let row : Instr := .vldb ⟨g0, .reg 3, .zero, .abuf, 5, none⟩
     let s := fillingF.modT fun t => { t with fl := t.fl.map fun f => { f with back := true, todo := [(3, .run row)] } }
     rowWaits s row = true ∧ canRun s 0 = true ∧ (after (exec .bundleIssue s)).k.frozen = true) := by decide +kernel
theorem witness_random_room : ok (loadPieces access cap0 0 128) = true ∧ ok (readTagged access [(⟨0, 128, 0, false, none⟩, 0, wideLeaf.pte)]) = true ∧
    makeRoom (List.replicate 8 ⟨0, true⟩) = none ∧
    makeRoom (List.replicate 6 ⟨0, true⟩ ++ [⟨5, false⟩, ⟨0, true⟩]) = some (List.replicate 7 ⟨0, true⟩) := by decide +kernel
/-- A whole frame is read through the first gigabyte's leaf. -/
theorem witness_frame_read : (let o := frameOp mapped 0 0 cap0
    (match frameBytes (mapped.modEngine 0 fun _ => [o]) 0 o with | .ok (_, _, none) => true | _ => false) = true) := by decide +kernel

/-! ## WellFormed: one ill-formed term for each check -/

def g1 : VG := ⟨0xFF, 0⟩
theorem test_ill_formed_scalar : (Instr.sfadd ⟨0, 1, 2, 3, .i32, .rne, false, false⟩).wf = false ∧ (Instr.sfadd ⟨0, 1, 2, 3, .f32, .sr, false, false⟩).wf = false ∧
    (Instr.sfmul ⟨0, 1, 2, 3, .e4m3, .rne, false, false⟩).wf = false ∧ (Instr.sffma ⟨0, 1, 2, 3, .f32, .sr, false, false, false⟩).wf = false ∧
    (Instr.sffma ⟨0, 1, 2, 3, .n8, .rne, false, false, false⟩).wf = false ∧ (Instr.sfcvt ⟨0, 1, 2, .mxf4, .f32, .rne, false⟩).wf = false ∧
    (Instr.sfcvt ⟨0, 1, 2, .f32, .ps2, .rne, false⟩).wf = false ∧ (Instr.sfcvt ⟨0, 1, 2, .f32, .i8, .sr, false⟩).wf = false ∧
    (Instr.sfcmp ⟨0, 1, 2, 3, .i32, .eq⟩).wf = false ∧ (Instr.mfsr ⟨0, 1, 0x06⟩).wf = false ∧ (Instr.mtsr ⟨0, 1, 0x68⟩).wf = false := by decide
theorem test_ill_formed_memory : (Instr.stv ⟨0, .pop 1, ⟨0, 0, 0⟩⟩).wf = false ∧ (Instr.stvCvt ⟨0, .pop 1, ⟨0, 0, 0⟩, .rne, false⟩).wf = false ∧
    (Instr.cpy ⟨1, none, false, some ⟨.fmt .e4m3, .fmt .f32, .rne, false, false⟩⟩).wf = false ∧
    (Instr.cpy ⟨1, none, false, some ⟨.fmt .f32, .fmt .bf16, .dyn, false, false⟩⟩).wf = false ∧
    (Instr.gather ⟨1, 2, none, false, some ⟨.fmt .f32, .fmt .f16, .sr, false, false⟩⟩).wf = false ∧
    (Instr.scatter ⟨1, 2, none, false, some ⟨.viaRecord, .fmt .f16, .rne, false, true⟩⟩).wf = false := by decide
theorem test_ill_formed_vector : (Instr.vadd ⟨g1, .reg 1, .reg 2, .reg 3, .i8, .rne, false, false⟩).wf = false ∧
    (Instr.vfms ⟨g1, .reg 1, .reg 2, .reg 3, .reg 4, .e5m2, .rne, false, false⟩).wf = false ∧ (Instr.vmin ⟨g1, .reg 1, .reg 2, .reg 3, .n32⟩).wf = false ∧
    (Instr.vabs ⟨g1, .reg 1, .reg 2, .i32⟩).wf = false ∧ (Instr.vsin ⟨g1, .reg 1, .reg 2, .ps2, .rne, false⟩).wf = false ∧
    (Instr.viadd ⟨g1, .reg 1, .reg 2, .reg 3, .f32, false⟩).wf = false ∧ (Instr.vshl ⟨g1, .reg 1, .reg 2, .reg 3, .i64⟩).wf = false ∧
    (Instr.vfshl ⟨g1, .reg 1, .reg 2, .reg 3, .reg 4, .bf16⟩).wf = false ∧ (Instr.vclz ⟨g1, .reg 1, .reg 2, .f16⟩).wf = false ∧
    (Instr.vcmp ⟨g1, 1, .reg 2, .reg 3, .i32, .un⟩).wf = false ∧ (Instr.vcmp ⟨g1, 1, .reg 2, .reg 3, .i16, .eq⟩).wf = false ∧
    (Instr.vgmax ⟨g1, .reg 1, .reg 2, .f32, 0, .rup, false⟩).wf = false ∧ (Instr.vgsum ⟨g1, .reg 1, .reg 2, .i32, 0, .rup, false⟩).wf = false ∧
    (Instr.vxsec ⟨g1, .reg 1, .reg 2, .reg 0, 8, .rot⟩).wf = false ∧ (Instr.vldb ⟨g1, .reg 1, .zero, .abuf, 0, some .i8⟩).wf = false ∧
    (Instr.vcvt ⟨g1, .reg 1, .reg 2, .zero, 0, 0, .f32, .ps2, .rne, false⟩).wf = false ∧ (Instr.vcvt ⟨g1, .reg 1, .reg 2, .zero, 4, 0, .i8, .f32, .rne, false⟩).wf = false ∧
    (Instr.vmaxexp ⟨g1, .reg 1, .f32, 0⟩).wf = false ∧ (Instr.vqps2 ⟨g1, .reg 1, .reg 2, .sr, false⟩).wf = false ∧
    (Instr.vpack ⟨g1, .reg 1, .reg 2, .zero, .f32, 0⟩).wf = false ∧ (Instr.vunpack ⟨g1, .reg 1, .reg 2, .n8, 4⟩).wf = false ∧
    (Instr.vtget ⟨g1, 1, .reg 2, 0⟩).wf = false ∧ (Instr.vtset ⟨g1, 1, .reg 2, 5⟩).wf = false := by decide
/-- Reserved words are refused by name: an S opcode that no row has, set bits under opcode 0, a set bit in MOV's unused B field. -/
theorem test_refused_words : decodeS 0x2800_0000_0000 = .error .opcode ∧ decodeS 1 = .error .opcode ∧
    decodeS 0x2083_A400_0001 = .error .unused := ⟨rfl, rfl, rfl⟩

/-! ## 12's worked example -/

/-- v1 holds 100.0, -3.3 and 0.01 in its first lanes. -/
def quant : Row := BitVec.ofNat 4096 (0x42C8_0000 + 0xC053_3333 * 2 ^ 32 + 0x3C23_D70A * 2 ^ 64)
def quantS : State := (withV (base.modSys fun y => { y with scl := 0x7D }) 1 quant).modT fun t => { t with
  rbq := [⟨0xC8_20C0, true⟩], fl := some { fl0 with regs := t.regs, sys := t.sys, rbq := some ⟨0xC8_20C0, true⟩, slot := 3 } }
theorem test_worked_quantising : landed (exec (.vmaxexp ⟨g1, .reg 1, .e4m3, 0⟩) quantS) = [⟨3, .scl 0xF 0x7D⟩] ∧
    (match landed (exec (.vcvt ⟨g1, .reg 2, .reg 1, .zero, 0, 0, .f32, .e4m3, .sr, false⟩) quantS) with
     | [⟨n, .v _ _ _ x _⟩] => (n, lane x 0, lane x 1, lane x 2, lane x 3)
     | _ => (0, 0, 0, 0, 0)) = (3, 0x7D, 0xD5, 0x13, 0) := by decide +kernel

end Sys2Proof.Tests
end

/-! # Scalar arithmetic (11 R255 to R257)

What the two shared shapes of an integer form land, the value functions of 11 Table 11.1 as integers taken modulo 2^64, and
from both the statement about the instructions. -/

namespace Sys2Proof.Machine

open Sys2Proof.Safety

section
variable {s : State} {n : Nat}

/-! ## A form that is not guarded off lands its value -/

theorem guarded_ok_of_guard {g : Guard} (hg : s.guard g = true) (t : State) :
    guarded g s (.ok t) = .next (commit t) := by
  simp [guarded, hg, finish]

/-- An instruction whose meaning is a form with operand B lands the value of that form. -/
theorem lands_of_aluOp (f : Word → Word → Word) {i : Instr} {o : SAlu} {x : Word} (hi : exec i s = aluOp n f o s)
    (hg : s.guard o.g = true) (hx : f (s.sR o.a) (s.srcB o.b) = x) : exec i s = lands s n (plain o.d x) := by
  subst hx
  exact hi.trans (guarded_ok_of_guard hg _)

/-- An instruction whose meaning is a form of two registers lands the value of that form. -/
theorem lands_of_regOp (f : Word → Word → Word) {i : Instr} {o : SReg3} {x : Word} (hi : exec i s = regOp n f o s)
    (hg : s.guard o.g = true) (hx : f (s.sR o.a) (s.sR o.b) = x) : exec i s = lands s n (plain o.d x) := by
  subst hx
  exact hi.trans (guarded_ok_of_guard hg _)

theorem exec_addi_lands {o : SAddi} (hg : s.guard o.g = true) :
    exec (.addi o) s = lands s 1 (plain o.d (s.sR o.a + o.imm.signExtend 64)) :=
  guarded_ok_of_guard hg _

end

/-! ## Sums, differences and products as integers -/

section
variable {w : Nat} (x y : BitVec w)

theorem add_eq_ofInt : x + y = BitVec.ofInt w (x.toInt + y.toInt) := by
  rw [BitVec.ofInt_add, BitVec.ofInt_toInt, BitVec.ofInt_toInt]

theorem mul_eq_ofInt : x * y = BitVec.ofInt w (x.toInt * y.toInt) := by
  rw [BitVec.ofInt_mul, BitVec.ofInt_toInt, BitVec.ofInt_toInt]

theorem sub_eq_ofInt : x - y = BitVec.ofInt w (x.toInt - y.toInt) := by
  rw [Int.sub_eq_add_neg, BitVec.ofInt_add, BitVec.ofInt_neg, BitVec.ofInt_toInt, BitVec.ofInt_toInt, BitVec.sub_eq_add_neg]

theorem signExtend_eq_ofInt {v : Nat} (h : w ≤ v) : x.signExtend v = BitVec.ofInt v x.toInt := by
  rw [← BitVec.toInt_signExtend_of_le h, BitVec.ofInt_toInt]

/-! ## Extrema -/

theorem ite_slt_eq_min : (if x.slt y then x else y) = BitVec.ofInt w (min x.toInt y.toInt) := by
  by_cases h : x.toInt < y.toInt
  · rw [if_pos (BitVec.slt_iff_toInt_lt.mpr h), Int.min_eq_left (Int.le_of_lt h), BitVec.ofInt_toInt]
  · rw [if_neg (mt BitVec.slt_iff_toInt_lt.mp h), Int.min_eq_right (Int.not_lt.mp h), BitVec.ofInt_toInt]

theorem ite_slt_eq_max : (if y.slt x then x else y) = BitVec.ofInt w (max x.toInt y.toInt) := by
  by_cases h : y.toInt < x.toInt
  · rw [if_pos (BitVec.slt_iff_toInt_lt.mpr h), Int.max_eq_left (Int.le_of_lt h), BitVec.ofInt_toInt]
  · rw [if_neg (mt BitVec.slt_iff_toInt_lt.mp h), Int.max_eq_right (Int.not_lt.mp h), BitVec.ofInt_toInt]

theorem ite_ult_eq_min : (if x.ult y then x else y) = BitVec.ofNat w (min x.toNat y.toNat) := by
  by_cases h : x.toNat < y.toNat
  · rw [if_pos (BitVec.ult_iff_toNat_lt.mpr h), Nat.min_eq_left (Nat.le_of_lt h), BitVec.ofNat_toNat, BitVec.setWidth_eq]
  · rw [if_neg (mt BitVec.ult_iff_toNat_lt.mp h), Nat.min_eq_right (Nat.not_lt.mp h), BitVec.ofNat_toNat, BitVec.setWidth_eq]

theorem ite_ult_eq_max : (if y.ult x then x else y) = BitVec.ofNat w (max x.toNat y.toNat) := by
  by_cases h : y.toNat < x.toNat
  · rw [if_pos (BitVec.ult_iff_toNat_lt.mpr h), Nat.max_eq_left (Nat.le_of_lt h), BitVec.ofNat_toNat, BitVec.setWidth_eq]
  · rw [if_neg (mt BitVec.ult_iff_toNat_lt.mp h), Nat.max_eq_right (Nat.not_lt.mp h), BitVec.ofNat_toNat, BitVec.setWidth_eq]

/-! ## Truncating division: the one quotient out of range, -2^(w-1) by -1, wraps on both sides -/

theorem sdiv_eq_ofInt_tdiv : x.sdiv y = BitVec.ofInt w (x.toInt.tdiv y.toInt) :=
  BitVec.eq_of_toInt_eq (by rw [BitVec.toInt_sdiv, BitVec.toInt_ofInt])

theorem sub_sdiv_mul_eq_ofInt_tmod : x - x.sdiv y * y = BitVec.ofInt w (x.toInt.tmod y.toInt) :=
  calc x - x.sdiv y * y
      = BitVec.ofInt w x.toInt - BitVec.ofInt w (x.toInt.tdiv y.toInt) * BitVec.ofInt w y.toInt := by
        rw [← sdiv_eq_ofInt_tdiv, BitVec.ofInt_toInt, BitVec.ofInt_toInt]
    _ = BitVec.ofInt w (x.toInt - y.toInt * x.toInt.tdiv y.toInt) := by
        rw [Int.sub_eq_add_neg, BitVec.ofInt_add, BitVec.ofInt_neg, BitVec.ofInt_mul, BitVec.mul_comm, BitVec.sub_eq_add_neg]
    _ = BitVec.ofInt w (x.toInt.tmod y.toInt) := by rw [Int.tmod_def]

end

/-! ## High halves of products: bits 64 to 127 of an integer are those of its quotient by 2^64 -/

theorem setWidth_shiftRight_ofInt (z : Int) :
    ((BitVec.ofInt 128 z >>> 64).setWidth 64) = BitVec.ofInt 64 (z / 2 ^ 64) := by
  apply BitVec.eq_of_toNat_eq
  simp only [BitVec.toNat_setWidth, BitVec.toNat_ushiftRight, BitVec.toNat_ofInt, Nat.shiftRight_eq_div_pow]
  omega

theorem mulhV_eq (a b : Word) : mulhV a b = BitVec.ofInt 64 (a.toInt * b.toInt / 2 ^ 64) := by
  have hprod : a.signExtend 128 * b.signExtend 128 = BitVec.ofInt 128 (a.toInt * b.toInt) := by
    rw [BitVec.ofInt_mul, signExtend_eq_ofInt a (by omega), signExtend_eq_ofInt b (by omega)]
  rw [mulhV, hprod, setWidth_shiftRight_ofInt]

theorem mulhnV_eq (a b : Word) : mulhnV a b = BitVec.ofNat 64 (a.toNat * b.toNat / 2 ^ 64) := by
  have hprod : a.setWidth 128 * b.setWidth 128 = BitVec.ofInt 128 (a.toNat * b.toNat : Nat) := by
    rw [BitVec.ofInt_natCast, BitVec.ofNat_mul, BitVec.ofNat_toNat, BitVec.ofNat_toNat]
  rw [mulhnV, hprod, setWidth_shiftRight_ofInt, ← BitVec.ofInt_natCast, Int.natCast_ediv, Int.natCast_pow, Int.cast_ofNat_Int]

/-! ## Division by any B, zero among them (11 R257) -/

theorem divV_eq (a b : Word) :
    divV a b = if b = 0 then BitVec.allOnes 64 else BitVec.ofInt 64 (a.toInt.tdiv b.toInt) := by
  rw [divV, sdiv_eq_ofInt_tdiv]

theorem divnV_eq (a b : Word) :
    divnV a b = if b = 0 then BitVec.allOnes 64 else BitVec.ofNat 64 (a.toNat / b.toNat) := by
  rw [divnV, BitVec.udiv_def]

theorem modV_eq (a b : Word) : modV a b = if b = 0 then a else BitVec.ofInt 64 (a.toInt.tmod b.toInt) := by
  rw [modV, sub_sdiv_mul_eq_ofInt_tmod]

theorem modnV_eq (a b : Word) : modnV a b = if b = 0 then a else BitVec.ofNat 64 (a.toNat % b.toNat) := by
  rw [modnV, BitVec.umod_def]

/-! ## The instructions -/

/-- Settles O11: each form lands its value function, and each value function is the integer operation modulo 2^64. -/
theorem scalarArithmetic : Obligations.ScalarArithmetic := by
  unfold Obligations.ScalarArithmetic
  refine ⟨⟨fun s o hg => ⟨?add, ?sub, ?min, ?max, ?minn, ?maxn⟩, fun s o hg => ?addi,
    fun s o hg => ⟨?mul, ?mulh, ?mulhn⟩⟩, fun s o hg => ⟨?div, ?divn, ?mod, ?modn⟩⟩
  case add => exact lands_of_aluOp (· + ·) rfl hg (add_eq_ofInt _ _)
  case sub => exact lands_of_aluOp (· - ·) rfl hg (sub_eq_ofInt _ _)
  case min => exact lands_of_aluOp (fun a b => if a.slt b then a else b) rfl hg (ite_slt_eq_min _ _)
  case max => exact lands_of_aluOp (fun a b => if b.slt a then a else b) rfl hg (ite_slt_eq_max _ _)
  case minn => exact lands_of_aluOp (fun a b => if a.ult b then a else b) rfl hg (ite_ult_eq_min _ _)
  case maxn => exact lands_of_aluOp (fun a b => if b.ult a then a else b) rfl hg (ite_ult_eq_max _ _)
  case addi =>
    have himm : (o.imm.signExtend 64).toInt = o.imm.toInt := BitVec.toInt_signExtend_of_le (by omega)
    rw [exec_addi_lands hg, add_eq_ofInt, himm]
  case mul => exact lands_of_regOp (· * ·) rfl hg (mul_eq_ofInt _ _)
  case mulh => exact lands_of_regOp mulhV rfl hg (mulhV_eq _ _)
  case mulhn => exact lands_of_regOp mulhnV rfl hg (mulhnV_eq _ _)
  case div => exact lands_of_regOp divV rfl hg (divV_eq _ _)
  case divn => exact lands_of_regOp divnV rfl hg (divnV_eq _ _)
  case mod => exact lands_of_regOp modV rfl hg (modV_eq _ _)
  case modn => exact lands_of_regOp modnV rfl hg (modnV_eq _ _)

end Sys2Proof.Machine

/-! # Vector integers (12 R295, R296)

What a row built lane by lane and element by element reads back, what a vector slot with its operands gathered lands, the
element functions of 12 Table 12.3 as integers, and from these the statement about the instructions. -/

namespace Sys2Proof.Machine

open Sys2Proof.Safety

/-! ## Elements of a lane, lanes of a row -/

theorem elem_lt (w x j : Nat) : elem w x j < 2 ^ w := Nat.mod_lt _ (Nat.two_pow_pos w)

theorem vRaw_lt (f : Fmt) (a : VIn) (l j : Nat) : vRaw f a l j < 2 ^ NumFmt.width f := elem_lt _ _ _

@[simp] theorem velem_zero (f : Fmt) (l j : Nat) : velem f 0 l j = 0 := by
  rw [velem, lane, show (0 : Row).toNat = 0 from BitVec.toNat_zero, Nat.zero_shiftRight, Nat.zero_mod, elem, Nat.zero_div, Nat.zero_mod]

/-- Above the lowest element stand the others. -/
theorem elem_cons_succ (w x r j : Nat) : elem w (x % 2 ^ w + 2 ^ w * r) (j + 1) = elem w r j := by
  have hdrop : (x % 2 ^ w + 2 ^ w * r) / 2 ^ w = r := by
    rw [Nat.add_mul_div_left _ _ (Nat.two_pow_pos w), Nat.div_eq_of_lt (Nat.mod_lt _ (Nat.two_pow_pos w)), Nat.zero_add]
  rw [elem, elem, Nat.mul_add_one, Nat.add_comm (w * j), Nat.pow_add, ← Nat.div_div_eq_div_mul, hdrop]

theorem elem_elemsNat (w : Nat) (f : Nat → Nat) (k : Nat) :
    ∀ i j, j < k → elem w (elemsNat w f k i) j = f (i + j) % 2 ^ w := by
  induction k with
  | zero => intro i j hj; omega
  | succ k ih =>
    intro i j hj
    cases j with
    | zero => simp [elemsNat, elem]
    | succ j => rw [elemsNat, elem_cons_succ, ih (i + 1) j (by omega), Nat.add_assoc, Nat.add_comm 1 j]

theorem elemsNat_lt (w : Nat) (f : Nat → Nat) (k : Nat) : ∀ i, elemsNat w f k i < 2 ^ (w * k) := by
  induction k with
  | zero => intro i; simp [elemsNat]
  | succ k ih =>
    intro i
    calc f i % 2 ^ w + 2 ^ w * elemsNat w f k (i + 1)
        < 2 ^ w + 2 ^ w * elemsNat w f k (i + 1) := Nat.add_lt_add_right (Nat.mod_lt _ (Nat.two_pow_pos w)) _
      _ = 2 ^ w * (elemsNat w f k (i + 1) + 1) := by rw [Nat.mul_add_one, Nat.add_comm]
      _ ≤ 2 ^ w * 2 ^ (w * k) := Nat.mul_le_mul_left _ (ih (i + 1))
      _ = 2 ^ (w * (k + 1)) := by rw [← Nat.pow_add, Nat.mul_add_one, Nat.add_comm]

theorem toNat_ofNat_elemsNat (w : Nat) (f : Nat → Nat) (k i : Nat) :
    (BitVec.ofNat (w * k) (elemsNat w f k i)).toNat = elemsNat w f k i := by
  rw [BitVec.toNat_ofNat, Nat.mod_eq_of_lt (elemsNat_lt w f k i)]

theorem lanesNat_eq_elemsNat (f : Nat → Nat) (k : Nat) : ∀ i, lanesNat f k i = elemsNat 32 f k i := by
  induction k with
  | zero => intro i; rfl
  | succ k ih => intro i; rw [lanesNat, elemsNat, ih]

theorem lane_rowOf (f : Nat → Nat) {l : Nat} (hl : l < 128) : lane (rowOf f) l = f l % 2 ^ 32 := by
  have hfit : (rowOf f).toNat = elemsNat 32 f 128 0 := by
    rw [rowOf, lanesNat_eq_elemsNat]
    exact toNat_ofNat_elemsNat 32 f 128 0
  have hread := elem_elemsNat 32 f 128 0 l hl
  rwa [Nat.zero_add, elem, ← Nat.shiftRight_eq_div_pow, ← hfit] at hread

theorem laneOf_lt (w : Nat) (f : Nat → Nat) : laneOf w f < 2 ^ 32 :=
  Nat.lt_of_lt_of_le (elemsNat_lt w f (32 / w) 0) (Nat.pow_le_pow_right (by omega) (Nat.mul_div_le 32 w))

theorem velem_rowEn (f : Fmt) {en : BitVec 128} (val : Nat → Nat → Nat) {l j : Nat} (hl : l < 128)
    (hen : en.getLsbD l = true) (hj : j < 32 / NumFmt.width f) :
    velem f (rowEn en fun l => laneOf (NumFmt.width f) (val l)) l j = val l j % 2 ^ NumFmt.width f := by
  have hlane : lane (rowEn en fun l => laneOf (NumFmt.width f) (val l)) l = laneOf (NumFmt.width f) (val l) := by
    rw [rowEn, lane_rowOf _ hl, if_pos hen, Nat.mod_eq_of_lt (laneOf_lt _ _)]
  rw [velem, hlane, laneOf, elem_elemsNat _ _ _ 0 j hj, Nat.zero_add]

theorem tanEn_get (k : Nat) (en : BitVec 128) (f : Nat → Nat → Nat) (i : Fin 4) :
    (tanEn k en f).get i = if i.val < k then rowEn en (f (i.val + 1)) else 0 := by
  show (tanEn k en f)[i.val] = _
  rw [tanEn, Vector.getElem_ofFn]

/-! ## A vector slot whose operands are gathered -/

section
variable {i : Instr} {s s' : State} {g : VG} {srcs : List VSrc} {sr : Bool} {ins : List VIn} {w : BitVec 1024} {n : Nat}
  {d : VDst} {f : Fmt} {val val' : Nat → Nat → Nat}

/-- With a lane enabled and the operands there, the slot is its body, and commits where that succeeds. -/
theorem vecSlot_next {body : State → VArgs → Op State} {u : State} (hen : s.enabled g ≠ 0)
    (hops : gather s srcs sr = .ok (s', ins, w)) (hbody : body s' ⟨ins, w, s.enabled g, s.slotNo 3⟩ = .ok u) :
    vecSlot g srcs sr s body = .next (commit u) := by
  rw [vecSlot, if_neg hen]
  simp [hops, bind, Except.bind, hbody, keepPops, finish]

/-- A slot computed element by element completes with those elements. -/
theorem vecDone_of_vOut {body : State → VArgs → Op State} {tan : Nat → Nat → Nat → Nat} (hi : exec i s = vecSlot g srcs sr s body)
    (hen : s.enabled g ≠ 0) (hops : gather s srcs sr = .ok (s', ins, w))
    (hbody : body s' ⟨ins, w, s.enabled g, s.slotNo 3⟩ = vOut s' n d ⟨ins, w, s.enabled g, s.slotNo 3⟩ f val' tan)
    (hval : ∀ l j, val' l j % 2 ^ NumFmt.width f = val l j % 2 ^ NumFmt.width f) :
    vecDone i s s' n g d f val tan := by
  refine ⟨_, _, fun u hu => hi.trans (vecSlot_next hen hops (hbody.trans hu)), fun l j hl hle hj => ⟨?_, fun k => ?_⟩⟩
  · rw [velem_rowEn f _ hl hle hj, hval]
  · rw [tanEn_get]
    split
    · exact velem_rowEn f (tan (k.val + 1)) hl hle hj
    · exact velem_zero f l j

/-- A slot of the integer forms with two operands completes with its element function's values, tangents zero. -/
theorem vecDone_of_vIntOp (op : Nat → Nat → Nat) {x y : VSrc} {a b : VIn} (hi : exec i s = vIntOp f g d x y s op)
    (hen : s.enabled g ≠ 0) (hops : gather s [x, y] false = .ok (s', [a, b], w))
    (hval : ∀ l j, op (vRaw f a l j) (vRaw f b l j) % 2 ^ NumFmt.width f = val l j % 2 ^ NumFmt.width f) :
    vecDone i s s' 2 g d f val (fun _ _ _ => 0) :=
  vecDone_of_vOut hi hen hops rfl hval

/-- A bit count completes with its element function's values, tangents zero. -/
theorem vecDone_of_vCount (count : Nat → Nat → Nat) {o : VSign} {a : VIn} (hi : exec i s = vCount count o s)
    (hen : s.enabled o.g ≠ 0) (hops : gather s [o.a] false = .ok (s', [a], w))
    (hval : ∀ l j, count (NumFmt.width o.fmt) (vRaw o.fmt a l j) = val l j) :
    vecDone i s s' 2 o.g o.d o.fmt val (fun _ _ _ => 0) :=
  vecDone_of_vOut hi hen hops rfl fun l j => congrArg (· % _) (hval l j)

end

/-! ## Elements as integers -/

theorem natCast_two_pow (k : Nat) : ((2 ^ k : Nat) : Int) = 2 ^ k := by rw [Int.natCast_pow, Int.cast_ofNat_Int]

theorem width_pos (f : Fmt) : 0 < NumFmt.width f := by cases f <;> decide

/-- The signed reading of the low bits is that of the bit vector they make. -/
theorem toSigned_eq_toInt {w : Nat} (hw : 0 < w) (e : Nat) : NumFmt.toSigned w e = (BitVec.ofNat w e).toInt := by
  have hhalf : 2 ^ w = 2 * 2 ^ (w - 1) := by rw [← Nat.pow_succ', Nat.succ_eq_add_one, Nat.sub_add_cancel hw]
  have hiff : e % 2 ^ w < 2 ^ (w - 1) ↔ 2 * (e % 2 ^ w) < 2 ^ w := by omega
  rw [NumFmt.toSigned, BitVec.toInt_eq_toNat_cond, BitVec.toNat_ofNat]
  simp only [hiff]

theorem vIntV_of_lt {f : Fmt} {e : Nat} (he : e < 2 ^ NumFmt.width f) :
    vIntV f e = if NumFmt.signed f = true ∧ 2 ^ (NumFmt.width f - 1) ≤ e then (e : Int) - 2 ^ NumFmt.width f else (e : Int) := by
  rw [vIntV, NumFmt.toSigned, Nat.mod_eq_of_lt he, natCast_two_pow]
  cases NumFmt.signed f with
  | false => simp only [Bool.false_eq_true, if_false, false_and]
  | true => simp only [if_true, true_and, ← Nat.not_lt, ite_not]

/-- An element's integer differs from the element by a multiple of 2^width. -/
theorem vIntV_emod (f : Fmt) (e : Nat) : vIntV f e % 2 ^ NumFmt.width f = ((e % 2 ^ NumFmt.width f : Nat) : Int) := by
  have hlow : ((e % 2 ^ NumFmt.width f : Nat) : Int) % 2 ^ NumFmt.width f = ((e % 2 ^ NumFmt.width f : Nat) : Int) := by
    rw [← natCast_two_pow, ← Int.natCast_emod, Nat.mod_mod]
  rw [vIntV, NumFmt.toSigned, natCast_two_pow]
  split
  · split
    · exact hlow
    · rw [Int.sub_emod_right, hlow]
  · exact hlow

/-- Rounding an integer to an integer leaves its magnitude in every mode. -/
theorem roundMag_int (mode : RMode) (neg : Bool) (r n : Nat) : NumFmt.roundMag mode neg r n 0 false 0 = n := by
  simp [NumFmt.roundMag]

theorem ite_neg_natAbs (v : Int) : (if decide (v < 0) = true then -(v.natAbs : Int) else v.natAbs) = v := by
  by_cases h : v < 0
  · rw [if_pos (decide_eq_true h)]
    omega
  · rw [if_neg (by simpa using h)]
    omega

/-- The end of a range nearest to an integer. -/
theorem clamp_eq_ite {lo hi : Int} (h : lo ≤ hi) (v : Int) :
    max lo (min hi v) = if v < lo then lo else if hi < v then hi else v := by
  split
  · omega
  · split <;> omega

/-- Saturating rounding of an integer is its clamp (02 R43). -/
theorem roundToInt_ofInt (f : Fmt) (r : Nat) (v : Int) :
    (NumFmt.roundToInt f .rtz r (NumFmt.XV.ofInt v)).1 = wrapOrClamp f true v := by
  have hrange : (if NumFmt.signed f = true then -2 ^ (NumFmt.width f - 1) else (0 : Int)) ≤
      if NumFmt.signed f = true then 2 ^ (NumFmt.width f - 1) - 1 else 2 ^ NumFmt.width f - 1 := by
    have hpow (k : Nat) : (0 : Int) < 2 ^ k := Int.pow_pos (by decide)
    have := hpow (NumFmt.width f)
    have := hpow (NumFmt.width f - 1)
    split <;> omega
  simp only [wrapOrClamp, if_true, clamp_eq_ite hrange, NumFmt.roundToInt, NumFmt.XV.ofInt, roundMag_int, ite_neg_natAbs,
    Int.natCast_sub Nat.one_le_two_pow, natCast_two_pow, Int.natCast_one]
  generalize (if NumFmt.signed f = true then -2 ^ (NumFmt.width f - 1) else (0 : Int)) = lo
  generalize (if NumFmt.signed f = true then 2 ^ (NumFmt.width f - 1) - 1 else (2 : Int) ^ NumFmt.width f - 1) = hi
  split
  · rfl
  · split <;> rfl

/-- Low bits, or the clamp of 02 R43. -/
theorem fitInt_eq_wrapOrClamp (f : Fmt) (sat : Bool) (v : Int) : fitInt f sat v = wrapOrClamp f sat v := by
  cases sat with
  | false => simp [fitInt, wrapOrClamp]
  | true => exact roundToInt_ofInt f 0 v

theorem wrapOrClamp_vIntV {f : Fmt} {e : Nat} (he : e < 2 ^ NumFmt.width f) : wrapOrClamp f false (vIntV f e) = e := by
  rw [wrapOrClamp, if_neg Bool.false_ne_true, vIntV_emod, Nat.mod_eq_of_lt he, Int.toNat_natCast]

/-! ## Element functions (12 Table 12.3) -/

theorem ite_vIntV_lt_eq_min {f : Fmt} {a b : Nat} (ha : a < 2 ^ NumFmt.width f) (hb : b < 2 ^ NumFmt.width f) :
    (if vIntV f b < vIntV f a then b else a) = wrapOrClamp f false (min (vIntV f a) (vIntV f b)) := by
  split
  · next h => rw [Int.min_eq_right (Int.le_of_lt h), wrapOrClamp_vIntV hb]
  · next h => rw [Int.min_eq_left (Int.not_lt.mp h), wrapOrClamp_vIntV ha]

theorem ite_vIntV_lt_eq_max {f : Fmt} {a b : Nat} (ha : a < 2 ^ NumFmt.width f) (hb : b < 2 ^ NumFmt.width f) :
    (if vIntV f a < vIntV f b then b else a) = wrapOrClamp f false (max (vIntV f a) (vIntV f b)) := by
  split
  · next h => rw [Int.max_eq_right (Int.le_of_lt h), wrapOrClamp_vIntV hb]
  · next h => rw [Int.max_eq_left (Int.not_lt.mp h), wrapOrClamp_vIntV ha]

theorem and_xor_ones_eq_toNat {w a b : Nat} (ha : a < 2 ^ w) (hb : b < 2 ^ w) :
    a &&& (b ^^^ (2 ^ w - 1)) = (BitVec.ofNat w a &&& ~~~BitVec.ofNat w b).toNat := by
  rw [← BitVec.xor_allOnes, BitVec.toNat_and, BitVec.toNat_xor, BitVec.toNat_allOnes, BitVec.toNat_ofNat, BitVec.toNat_ofNat,
    Nat.mod_eq_of_lt ha, Nat.mod_eq_of_lt hb]

/-- The top bit is copied whatever the signedness (12 R295). -/
theorem fitInt_toSigned_div (f : Fmt) (a k : Nat) :
    fitInt f false (NumFmt.toSigned (NumFmt.width f) a / ((2 ^ k : Nat) : Int)) =
      ((BitVec.ofNat (NumFmt.width f) a).sshiftRight k).toNat := by
  rw [toSigned_eq_toInt (width_pos f), ← Int.shiftRight_eq_div_pow, BitVec.sshiftRight, BitVec.toNat_ofInt]
  rfl

/-! ## Funnel shifts: A above B, shifted by a number below the width -/

/-- Bits of two numbers that do not overlap add. -/
theorem mul_pow_or_eq_add {k b : Nat} (a : Nat) (hb : b < 2 ^ k) : a * 2 ^ k ||| b = a * 2 ^ k + b := by
  rw [Nat.mul_comm, Nat.two_pow_add_eq_or_of_lt hb]

theorem div_pow_lt {w k b : Nat} (hk : k ≤ w) (hb : b < 2 ^ w) : b / 2 ^ (w - k) < 2 ^ k :=
  Nat.div_lt_of_lt_mul (by rwa [← Nat.pow_add, Nat.sub_add_cancel hk])

theorem concat_mul_div {w m : Nat} (a b : Nat) (hm : m ≤ w) :
    (a * 2 ^ w + b) * 2 ^ m / 2 ^ w = a * 2 ^ m + b / 2 ^ (w - m) := by
  have hsplit : 2 ^ w = 2 ^ (w - m) * 2 ^ m := by rw [← Nat.pow_add, Nat.sub_add_cancel hm]
  calc (a * 2 ^ w + b) * 2 ^ m / 2 ^ w
      = (a * 2 ^ w + b) / 2 ^ (w - m) := by
        conv => lhs; rw [hsplit, Nat.mul_div_mul_right _ _ (Nat.two_pow_pos m), ← hsplit]
    _ = (b + a * 2 ^ m * 2 ^ (w - m)) / 2 ^ (w - m) := by rw [hsplit, Nat.add_comm, Nat.mul_assoc, Nat.mul_comm (2 ^ m)]
    _ = a * 2 ^ m + b / 2 ^ (w - m) := by rw [Nat.add_mul_div_right _ _ (Nat.two_pow_pos _), Nat.add_comm]

theorem concat_div {w m : Nat} (a b : Nat) (hm : m ≤ w) : (a * 2 ^ w + b) / 2 ^ m = a * 2 ^ (w - m) + b / 2 ^ m := by
  have hsplit : 2 ^ w = 2 ^ (w - m) * 2 ^ m := by rw [← Nat.pow_add, Nat.sub_add_cancel hm]
  rw [hsplit, ← Nat.mul_assoc, Nat.add_comm, Nat.add_mul_div_right _ _ (Nat.two_pow_pos m), Nat.add_comm]

theorem funnel_left {w m b : Nat} (a : Nat) (hm : m < w) (hb : b < 2 ^ w) :
    (if m = 0 then a else a * 2 ^ m ||| b / 2 ^ (w - m)) = (a * 2 ^ w + b) * 2 ^ m / 2 ^ w := by
  rw [concat_mul_div a b (Nat.le_of_lt hm)]
  split
  · next h => rw [h, Nat.sub_zero, Nat.div_eq_of_lt hb, Nat.pow_zero, Nat.mul_one, Nat.add_zero]
  · exact mul_pow_or_eq_add a (div_pow_lt (Nat.le_of_lt hm) hb)

theorem funnel_right {w m b : Nat} (a : Nat) (hm : m < w) (hb : b < 2 ^ w) :
    (if m = 0 then b else b / 2 ^ m ||| a * 2 ^ (w - m)) % 2 ^ w = (a * 2 ^ w + b) / 2 ^ m % 2 ^ w := by
  have hlow : b / 2 ^ m < 2 ^ (w - m) := by simpa [Nat.sub_sub_self (Nat.le_of_lt hm)] using div_pow_lt (Nat.sub_le w m) hb
  rw [concat_div a b (Nat.le_of_lt hm)]
  split
  · next h => rw [h, Nat.pow_zero, Nat.div_one, Nat.sub_zero, Nat.mul_add_mod_self_right]
  · rw [Nat.or_comm, mul_pow_or_eq_add a hlow]

/-! ## Bit counts (12 R296): the descriptions of the counts determine them -/

theorem clzE_eq {w e c : Nat} (he : e < 2 ^ w)
    (hcount : (e = 0 → c = w) ∧ (e ≠ 0 → c < w ∧ 2 ^ (w - 1 - c) ≤ e ∧ e < 2 ^ (w - c))) : clzE w e = c := by
  obtain ⟨hzero, hpos⟩ := hcount
  rw [clzE, Nat.mod_eq_of_lt he]
  by_cases h : e = 0
  · rw [if_pos h, hzero h]
  · obtain ⟨hc, hlow, hhigh⟩ := hpos h
    have hlog : e.log2 = w - 1 - c := (Nat.log2_eq_iff h).mpr ⟨hlow, by rwa [show w - 1 - c + 1 = w - c by omega]⟩
    simp only [if_neg h, hlog]
    omega

theorem ctzE_eq {w e c : Nat} (he : e < 2 ^ w)
    (hcount : (e = 0 → c = w) ∧ (e ≠ 0 → e.testBit c = true ∧ ∀ i, i < c → e.testBit i = false)) : ctzE w e = c := by
  obtain ⟨hzero, hpos⟩ := hcount
  by_cases h : e = 0
  · have hnone : (List.range w).find? (fun i => e.testBit i) = none := by simp [h]
    rw [ctzE, hnone, Option.getD_none, hzero h]
  · obtain ⟨hset, hclear⟩ := hpos h
    have hc : c < w := (Nat.pow_lt_pow_iff_right (by decide)).mp (Nat.lt_of_le_of_lt (Nat.ge_two_pow_of_testBit hset) he)
    have hfind : (List.range w).find? (fun i => e.testBit i) = some c :=
      List.find?_range_eq_some.mpr ⟨hset, List.mem_range.mpr hc, fun i hi => by simp [hclear i hi]⟩
    rw [ctzE, hfind, Option.getD_some]

theorem popcE_eq_countP (w e : Nat) : popcE w e = (List.range w).countP fun i => e.testBit i :=
  List.countP_eq_length_filter.symm

/-! ## The instructions -/

section
variable {s s' : State} {a b c : VIn} {w : BitVec 1024}

theorem vecDone_vfshl {o : VInt3} (hen : s.enabled o.g ≠ 0) (hops : gather s [o.a, o.b, o.c] false = .ok (s', [a, b, c], w)) :
    vecDone (.vfshl o) s s' 2 o.g o.d o.fmt (fun l j => (vRaw o.fmt a l j * 2 ^ NumFmt.width o.fmt + vRaw o.fmt b l j) *
      2 ^ (vRaw o.fmt c l j % NumFmt.width o.fmt) / 2 ^ NumFmt.width o.fmt) (fun _ _ _ => 0) :=
  vecDone_of_vOut (show exec (.vfshl o) s = vFunnel true o s from rfl) hen hops rfl fun l j =>
    congrArg (· % _) (funnel_left _ (Nat.mod_lt _ (width_pos _)) (vRaw_lt _ b l j))

theorem vecDone_vfshr {o : VInt3} (hen : s.enabled o.g ≠ 0) (hops : gather s [o.a, o.b, o.c] false = .ok (s', [a, b, c], w)) :
    vecDone (.vfshr o) s s' 2 o.g o.d o.fmt (fun l j => (vRaw o.fmt a l j * 2 ^ NumFmt.width o.fmt + vRaw o.fmt b l j) /
      2 ^ (vRaw o.fmt c l j % NumFmt.width o.fmt)) (fun _ _ _ => 0) :=
  vecDone_of_vOut (show exec (.vfshr o) s = vFunnel false o s from rfl) hen hops rfl fun l j =>
    funnel_right _ (Nat.mod_lt _ (width_pos _)) (vRaw_lt _ b l j)

end

/-- Settles O35: each form completes with its element function's values, and each element function of two, three or one
elements below 2^width is the integer, bit or count that 12 Table 12.3 gives. -/
theorem vectorIntegers : Obligations.VectorIntegers := by
  unfold Obligations.VectorIntegers
  refine ⟨fun s s' g d x y f sat a b w _ hen hops => ?binary, fun s s' o a b c w _ hen hops => ⟨?fshl, ?fshr⟩,
    fun s s' o a w val _ hen hops => ⟨fun hval => ?clz, fun hval => ?ctz, ?popc⟩⟩
  case binary =>
    intro n A B I done p
    have hI (a : VIn) (l j : Nat) : vIntV f (vRaw f a l j) = I (vRaw f a l j) := vIntV_of_lt (vRaw_lt f a l j)
    let o : VInt := ⟨g, d, x, y, f, sat⟩
    refine ⟨?add, ?sub, ?mul, ?mulh, ?min, ?max, ?and, ?or, ?xor, ?andn, ?shl, ?shr, ?shra⟩
    case add =>
      exact vecDone_of_vIntOp _ (rfl : execViadd o s = _) hen hops fun l j => by rw [fitInt_eq_wrapOrClamp, hI, hI]
    case sub =>
      exact vecDone_of_vIntOp _ (rfl : execVisub o s = _) hen hops fun l j => by rw [fitInt_eq_wrapOrClamp, hI, hI]
    case mul =>
      exact vecDone_of_vIntOp _ (rfl : execVimul o s = _) hen hops fun l j => by rw [fitInt_eq_wrapOrClamp, hI, hI]
    case mulh =>
      exact vecDone_of_vIntOp _ (rfl : execVimulh p s = _) hen hops fun l j => by
        rw [fitInt_eq_wrapOrClamp, hI, hI, natCast_two_pow]
    case min =>
      exact vecDone_of_vIntOp _ (rfl : execVimin p s = _) hen hops fun l j => by
        rw [ite_vIntV_lt_eq_min (vRaw_lt f a l j) (vRaw_lt f b l j), hI, hI]
    case max =>
      exact vecDone_of_vIntOp _ (rfl : execVimax p s = _) hen hops fun l j => by
        rw [ite_vIntV_lt_eq_max (vRaw_lt f a l j) (vRaw_lt f b l j), hI, hI]
    case and => exact vecDone_of_vIntOp _ (rfl : execVand p s = _) hen hops fun _ _ => rfl
    case or => exact vecDone_of_vIntOp _ (rfl : execVor p s = _) hen hops fun _ _ => rfl
    case xor => exact vecDone_of_vIntOp _ (rfl : execVxor p s = _) hen hops fun _ _ => rfl
    case andn =>
      exact vecDone_of_vIntOp _ (rfl : execVandn p s = _) hen hops fun l j =>
        congrArg (· % _) (and_xor_ones_eq_toNat (vRaw_lt f a l j) (vRaw_lt f b l j))
    case shl => exact vecDone_of_vIntOp _ (rfl : execVshl p s = _) hen hops fun _ _ => rfl
    case shr => exact vecDone_of_vIntOp _ (rfl : execVshr p s = _) hen hops fun _ _ => rfl
    case shra =>
      exact vecDone_of_vIntOp _ (rfl : execVshra p s = _) hen hops fun l j =>
        congrArg (· % _) (fitInt_toSigned_div f (vRaw f a l j) (vRaw f b l j % n))
  case clz => exact vecDone_of_vCount clzE rfl hen hops fun l j => clzE_eq (vRaw_lt _ a l j) (hval l j)
  case ctz => exact vecDone_of_vCount ctzE rfl hen hops fun l j => ctzE_eq (vRaw_lt _ a l j) (hval l j)
  case popc => exact vecDone_of_vCount popcE rfl hen hops fun l j => popcE_eq_countP _ _
  case fshl => exact vecDone_vfshl hen hops
  case fshr => exact vecDone_vfshr hen hops

end Sys2Proof.Machine
